-- ==== Sys2Proof/Word.lean ====
section
/-! DEFINITION. The word types of the part (R8, R31): bytes, 32-bit instruction words and 64-bit registers. -/

namespace Sys2Proof

/-- One byte of storage (R222: a location is one byte). -/
abbrev Byte := BitVec 8

/-- One instruction word (R76). -/
abbrev Word := BitVec 32

/-- One scalar register (R63), address (R220) or program counter. -/
abbrev Reg64 := BitVec 64

end Sys2Proof
end

