-- ==== Sys2Proof/Machine/Float.lean ====
section
/-! DEFINITION. The floating-point formats and their exact arithmetic with one rounding (R34 to R56, R413, R414). Values
are exact dyadic numbers; every result is rounded once by `round`. -/

namespace Sys2Proof.Machine

/-- The rounding modes (R46). -/
inductive Rnd where
  | rne | rtz | rup | rdn | rna | rsto
  deriving DecidableEq, Repr

/-- Codes 0 to 5 of R46; 6 and 7 name no mode. -/
def Rnd.ofCode : Nat → Option Rnd
  | 0 => some .rne
  | 1 => some .rtz
  | 2 => some .rup
  | 3 => some .rdn
  | 4 => some .rna
  | 5 => some .rsto
  | _ => none

/-- A binary floating-point format (R34): width, mantissa bits, bias, and whether it has infinities. -/
structure Fmt where
  width : Nat
  mant : Nat
  bias : Nat
  hasInf : Bool
  deriving DecidableEq, Repr

def fp64 : Fmt := ⟨64, 52, 1023, true⟩
def fp32 : Fmt := ⟨32, 23, 127, true⟩
def fp16 : Fmt := ⟨16, 10, 15, true⟩
def bf16 : Fmt := ⟨16, 7, 127, true⟩
def fp8e5 : Fmt := ⟨8, 2, 15, true⟩
def fp8e4 : Fmt := ⟨8, 3, 7, false⟩

/-- The all-ones exponent field. -/
def Fmt.expOnes (f : Fmt) : Nat := 2 ^ (f.width - 1 - f.mant) - 1

/-- The canonical quiet NaN (R34). -/
def Fmt.qnan (f : Fmt) : Nat :=
  if f.hasInf then f.expOnes * 2 ^ f.mant + 2 ^ (f.mant - 1) else 2 ^ (f.width - 1) - 1

/-- Precision p: the mantissa with its hidden bit. -/
def Fmt.prec (f : Fmt) : Nat := f.mant + 1

/-- The exponent of the smallest normal number. -/
def Fmt.emin (f : Fmt) : Int := 1 - (f.bias : Int)

/-- The sign bit set on a magnitude. -/
def Fmt.signed (f : Fmt) (neg : Bool) (mag : Nat) : Nat := if neg then 2 ^ (f.width - 1) + mag else mag

/-- The bits of ±infinity; meaningful only for a format that has it. -/
def Fmt.inf (f : Fmt) (neg : Bool) : Nat := f.signed neg (f.expOnes * 2 ^ f.mant)

/-- The magnitude bits of the largest finite value (R34). -/
def Fmt.maxMag (f : Fmt) : Nat :=
  if f.hasInf then f.expOnes * 2 ^ f.mant - 1 else 2 ^ (f.width - 1) - 2

/-- An exact value: a NaN (signalling or not), a signed infinity, a signed zero, or ±m·2^e with m > 0. -/
inductive XNum where
  | nan (signalling : Bool)
  | inf (neg : Bool)
  | zero (neg : Bool)
  | fin (neg : Bool) (m : Nat) (e : Int)
  deriving DecidableEq, Repr

/-- The value of a bit pattern (R35). -/
def Fmt.decode (f : Fmt) (bits : Nat) : XNum :=
  let m := bits % 2 ^ f.mant
  let x := bits / 2 ^ f.mant % (f.expOnes + 1)
  let neg := decide (bits / 2 ^ (f.width - 1) % 2 = 1)
  if x = 0 then
    if m = 0 then .zero neg else .fin neg m (f.emin - f.mant)
  else if f.hasInf ∧ x = f.expOnes then
    if m = 0 then .inf neg else .nan (decide (m / 2 ^ (f.mant - 1) = 0))
  else if ¬ f.hasInf ∧ x = f.expOnes ∧ m = 2 ^ f.mant - 1 then .nan false
  else .fin neg (2 ^ f.mant + m) ((x : Int) - f.bias - f.mant)

/-- The sticky flags of fcr (R51). -/
structure Flags where
  nv : Bool := false
  dz : Bool := false
  of : Bool := false
  uf : Bool := false
  nx : Bool := false
  deriving DecidableEq, Repr

/-- The OR of flags (R52). -/
def Flags.or (a b : Flags) : Flags := ⟨a.nv || b.nv, a.dz || b.dz, a.of || b.of, a.uf || b.uf, a.nx || b.nx⟩

def Flags.none : Flags := {}
def Flags.invalid : Flags := { nv := true }

/-- Bits 12:8 of fcr, as a number at bit 0 of the flag field (R51). -/
def Flags.bits (f : Flags) : Nat :=
  f.nx.toNat + f.uf.toNat * 2 + f.of.toNat * 4 + f.dz.toNat * 8 + f.nv.toNat * 16

/-- One step of the stochastic-rounding state (R50). -/
def srsStep (s : Reg64) : Reg64 :=
  let s1 := s ^^^ (s <<< 13)
  let s2 := s1 ^^^ (s1 >>> 7)
  s2 ^^^ (s2 <<< 17)

/-- The `k` random bits of a draw: srs[63 : 64-k] (R50). -/
def srsDraw (k : Nat) (s : Reg64) : Nat := s.toNat / 2 ^ (64 - k)

/-- An integer rounding of m·2^e to a multiple of 2^u: the multiple t, and whether it is inexact (R46, R50). `rnd` is the
draw of `k` bits for RSTO. -/
def roundMul (mode : Rnd) (k rnd : Nat) (neg : Bool) (m : Nat) (e u : Int) : Nat × Bool :=
  if u ≤ e then (m * 2 ^ (e - u).toNat, false)
  else
    let sh := (u - e).toNat
    let q := m / 2 ^ sh
    let r := m % 2 ^ sh
    let up := match mode with
      | .rne => decide (2 ^ sh < 2 * r ∨ (2 * r = 2 ^ sh ∧ q % 2 = 1))
      | .rtz => false
      | .rup => decide (r ≠ 0) && !neg
      | .rdn => decide (r ≠ 0) && neg
      | .rna => decide (2 ^ sh ≤ 2 * r)
      | .rsto => decide (2 ^ k ≤ r * 2 ^ k / 2 ^ sh + rnd)
    (if up then q + 1 else q, decide (r ≠ 0))

/-- The exponent of the leading bit of m·2^e, for m > 0. -/
def leadExp (m : Nat) (e : Int) : Int := (Nat.log2 m : Int) + e

/-- The overflow result of R47: whether the mode gives ±infinity. -/
def Rnd.toInf (mode : Rnd) (neg : Bool) : Bool :=
  match mode with
  | .rne | .rna | .rsto => true
  | .rtz => false
  | .rup => !neg
  | .rdn => neg

/-- Is t·2^u above n·2^v? -/
def dyadicLt (n : Nat) (v : Int) (t : Nat) (u : Int) : Bool :=
  if v ≤ u then decide (n < t * 2 ^ (u - v).toNat) else decide (n * 2 ^ (v - u).toNat < t)

/-- The bits of a magnitude t·2^u that fits the format, u not below the subnormal spacing. -/
def Fmt.pack (f : Fmt) (t : Nat) (u : Int) : Nat :=
  if t < 2 ^ f.mant then t
  else
    let (t, u) := if t < 2 ^ f.prec then (t, u) else (t / 2, u + 1)
    (u + f.mant + f.bias).toNat * 2 ^ f.mant + (t - 2 ^ f.mant)

/-- A rounded result: its bits, the flags it raises, and the stochastic-rounding state after it. -/
structure Rounded where
  bits : Nat
  flags : Flags
  srs : Reg64
  deriving DecidableEq, Repr

/-- The overflow result (R47), for a finite value that overflows. -/
def Fmt.overflow (f : Fmt) (mode : Rnd) (sat neg : Bool) : Nat × Flags :=
  if sat || !mode.toInf neg then (f.signed neg f.maxMag, { of := true, nx := true })
  else if f.hasInf then (f.inf neg, { of := true, nx := true })
  else (f.qnan, { of := true, nx := true, nv := true })

/-- Rounding of a finite nonzero value with a given draw (R47, R50, R413): bits and flags. -/
def Fmt.roundFin (f : Fmt) (mode : Rnd) (sat : Bool) (k rnd : Nat) (neg : Bool) (m : Nat) (e : Int) : Nat × Flags :=
  let x := leadExp m e
  let tu := (roundMul mode k rnd neg m e (x - f.mant)).1
  let maxT := if f.hasInf then 2 ^ f.prec - 1 else 2 ^ f.prec - 2
  let maxU : Int := (if f.hasInf then (f.expOnes : Int) - 1 else f.expOnes) - f.bias - f.mant
  if dyadicLt maxT maxU tu (x - f.mant) then f.overflow mode sat neg
  else
    let u := max x f.emin - f.mant
    let (t, inexact) := roundMul mode k rnd neg m e u
    let tiny := dyadicLt tu (x - f.mant) 1 f.emin
    (f.signed neg (f.pack t u), { nx := inexact, uf := tiny && inexact })

/-- The bits of a draw for a destination of `width` bits (R50, R414). -/
def drawBits (width : Nat) : Nat := if width ≤ 16 then 16 else 32

/-- One rounding of an exact value to a format (R47, R50, R53). srs advances only for a finite nonzero value under RSTO. -/
def Fmt.round (f : Fmt) (mode : Rnd) (sat : Bool) (srs : Reg64) (x : XNum) : Rounded :=
  match x with
  | .nan s => ⟨f.qnan, { nv := s }, srs⟩
  | .inf neg =>
    if sat then ⟨f.signed neg f.maxMag, {}, srs⟩
    else if f.hasInf then ⟨f.inf neg, {}, srs⟩
    else ⟨f.qnan, Flags.invalid, srs⟩
  | .zero neg => ⟨f.signed neg 0, {}, srs⟩
  | .fin neg m e =>
    let k := drawBits f.width
    match mode with
    | .rsto =>
      let s := srsStep srs
      let r := f.roundFin .rsto sat k (srsDraw k s) neg m e
      ⟨r.1, r.2, s⟩
    | mode =>
      let r := f.roundFin mode sat k 0 neg m e
      ⟨r.1, r.2, srs⟩

/-- A signed mantissa. -/
def signedInt (neg : Bool) (m : Nat) : Int := if neg then -(m : Int) else m

/-- The value of a signed integer times 2^e; a zero has the sign given. -/
def XNum.ofInt (zneg : Bool) (v : Int) (e : Int) : XNum :=
  if v = 0 then .zero zneg else .fin (decide (v < 0)) v.natAbs e

/-- Negation; of a NaN, the NaN. -/
def XNum.neg : XNum → XNum
  | .nan s => .nan s
  | .inf n => .inf !n
  | .zero n => .zero !n
  | .fin n m e => .fin (!n) m e

/-- An exact result with the flags of the operation that formed it, before rounding. -/
abbrev Exact := XNum × Flags

/-- Is the value a signalling NaN? -/
def XNum.isSnan : XNum → Bool
  | .nan s => s
  | _ => false

def XNum.isNan : XNum → Bool
  | .nan _ => true
  | _ => false

/-- NV of the signalling NaN operands (R53). -/
def snanFlags (l : List XNum) : Flags := { nv := l.any XNum.isSnan }

/-- The exact sum of finite values (zeros included) in units of 2^e, e below every exponent. -/
def sumUnits (e : Int) : List XNum → Int
  | [] => 0
  | .fin n m x :: l => signedInt n m * 2 ^ (x - e).toNat + sumUnits e l
  | _ :: l => sumUnits e l

/-- The least exponent of the finite nonzero values, below a bound. -/
def leastExp (e : Int) : List XNum → Int
  | [] => e
  | .fin _ _ x :: l => leastExp (min e x) l
  | _ :: l => leastExp e l

/-- The exact sum of a list of values (R47, R53, R57): a NaN operand or infinities of both signs give NaN; an exact zero sum
is +0, or −0 under RDN, unless every term is a zero of one sign, which it keeps. -/
def exactSum (rdn : Bool) (l : List XNum) : Exact :=
  if l.any XNum.isNan then (.nan false, snanFlags l)
  else
    let p := l.any (fun x => x == .inf false)
    let n := l.any (fun x => x == .inf true)
    if p && n then (.nan false, Flags.invalid)
    else if p then (.inf false, {})
    else if n then (.inf true, {})
    else if l ≠ [] ∧ l.all (fun x => x == .zero true) then (.zero true, {})
    else if l.all (fun x => x == .zero false) then (.zero false, {})
    else
      let e := leastExp 4096 l
      (XNum.ofInt rdn (sumUnits e l) e, {})

/-- The exact product (R53). -/
def exactMul (a b : XNum) : Exact :=
  match a, b with
  | .nan s, y => (.nan false, { nv := s || y.isSnan })
  | x, .nan s => (.nan false, { nv := s || x.isSnan })
  | .inf n, .inf k => (.inf (xor n k), {})
  | .inf n, .fin k _ _ => (.inf (xor n k), {})
  | .fin n _ _, .inf k => (.inf (xor n k), {})
  | .inf _, .zero _ => (.nan false, Flags.invalid)
  | .zero _, .inf _ => (.nan false, Flags.invalid)
  | .zero n, .zero k => (.zero (xor n k), {})
  | .zero n, .fin k _ _ => (.zero (xor n k), {})
  | .fin n _ _, .zero k => (.zero (xor n k), {})
  | .fin n m e, .fin k p x => (.fin (xor n k) (m * p) (e + x), {})

/-- The exact a·b + c (R190): the product's invalid operation, then the sum's. -/
def exactFma (rdn : Bool) (a b c : XNum) : Exact :=
  let p := exactMul a b
  let s := exactSum rdn [p.1, c]
  (s.1, (p.2.or s.2).or (snanFlags [a, b, c]))

/-- The exact quotient to 128 bits and more, with a sticky last bit (R47, R53). -/
def exactDiv (a b : XNum) : Exact :=
  match a, b with
  | .nan s, y => (.nan false, { nv := s || y.isSnan })
  | x, .nan s => (.nan false, { nv := s || x.isSnan })
  | .inf _, .inf _ => (.nan false, Flags.invalid)
  | .zero _, .zero _ => (.nan false, Flags.invalid)
  | .inf n, .zero k => (.inf (xor n k), {})
  | .inf n, .fin k _ _ => (.inf (xor n k), {})
  | .zero n, .inf k => (.zero (xor n k), {})
  | .zero n, .fin k _ _ => (.zero (xor n k), {})
  | .fin n _ _, .inf k => (.zero (xor n k), {})
  | .fin n _ _, .zero k => (.inf (xor n k), { dz := true })
  | .fin n m e, .fin k p x =>
    let sh := 128 + Nat.log2 p
    let q := m * 2 ^ sh / p
    let st := if m * 2 ^ sh % p = 0 then 0 else 1
    (.fin (xor n k) (2 * q + st) (e - x - sh - 1), {})

/-- Integer square root by its bits, from bit `k - 1` down. -/
def isqrtBits (n : Nat) : Nat → Nat → Nat
  | 0, r => r
  | k + 1, r => if (r + 2 ^ k) * (r + 2 ^ k) ≤ n then isqrtBits n k (r + 2 ^ k) else isqrtBits n k r

/-- The integer square root of n. -/
def isqrt (n : Nat) : Nat := isqrtBits n (Nat.log2 n / 2 + 1) 0

/-- The square root to 128 bits and more, with a sticky last bit (R47, R53). -/
def exactSqrt : XNum → Exact
  | .nan s => (.nan false, { nv := s })
  | .inf true => (.nan false, Flags.invalid)
  | .inf false => (.inf false, {})
  | .zero n => (.zero n, {})
  | .fin true _ _ => (.nan false, Flags.invalid)
  | .fin false m e =>
    let (m, e) := if e % 2 = 0 then (m, e) else (2 * m, e - 1)
    let n := m * 2 ^ 256
    let r := isqrt n
    (.fin false (2 * r + (if r * r = n then 0 else 1)) (e / 2 - 129), {})

/-- a ≤ b for values that are not NaN; −0 and +0 are equal. -/
def numLe (a b : XNum) : Bool :=
  match a, b with
  | .inf true, _ => true
  | _, .inf false => true
  | _, .inf true => false
  | .inf false, _ => false
  | x, y =>
    let e := leastExp 4096 [x, y]
    decide (sumUnits e [x] ≤ sumUnits e [y])

/-- a < b for values that are not NaN. -/
def numLt (a b : XNum) : Bool := numLe a b && !numLe b a

/-- a == b for values that are not NaN. -/
def numEq (a b : XNum) : Bool := numLe a b && numLe b a

/-- a orders below b under R191: as values, with −0 below +0. -/
def numBelow (a b : XNum) : Bool :=
  match a, b with
  | .zero x, .zero y => x && !y
  | a, b => numLt a b

/-- Minimum or maximum of two patterns (R191): the pattern kept and the flags. -/
def fpMinMax (f : Fmt) (isMax : Bool) (x y : Nat) : Nat × Flags :=
  let a := f.decode x
  let b := f.decode y
  let fl := snanFlags [a, b]
  if a.isNan && b.isNan then (f.qnan, fl)
  else if a.isNan then (y, fl)
  else if b.isNan then (x, fl)
  else if isMax then (if numBelow a b then y else x, fl)
  else (if numBelow b a then y else x, fl)

/-- The class bits of R192. -/
def fpClass (f : Fmt) (x : Nat) : Nat :=
  match f.decode x with
  | .inf true => 2 ^ 0
  | .fin true m _ => if m < 2 ^ f.mant then 2 ^ 2 else 2 ^ 1
  | .zero true => 2 ^ 3
  | .zero false => 2 ^ 4
  | .fin false m _ => if m < 2 ^ f.mant then 2 ^ 5 else 2 ^ 6
  | .inf false => 2 ^ 7
  | .nan true => 2 ^ 8
  | .nan false => 2 ^ 9

/-- The bounds of an integer format (R31). -/
def intMin (signed : Bool) (w : Nat) : Int := if signed then -(2 ^ (w - 1) : Int) else 0
def intMax (signed : Bool) (w : Nat) : Int := if signed then 2 ^ (w - 1) - 1 else 2 ^ w - 1

/-- The low w bits of an integer. -/
def wrap (w : Nat) (v : Int) : Nat := (v % (2 ^ w : Int)).toNat

/-- The integer nearest to v in the range of a format. -/
def clampInt (signed : Bool) (w : Nat) (v : Int) : Int := max (intMin signed w) (min (intMax signed w) v)

/-- Conversion to an integer format (R55, R414). -/
def toInt (signed : Bool) (w : Nat) (mode : Rnd) (srs : Reg64) (x : XNum) : Rounded :=
  match x with
  | .nan _ => ⟨0, Flags.invalid, srs⟩
  | .inf n => ⟨wrap w (if n then intMin signed w else intMax signed w), Flags.invalid, srs⟩
  | .zero _ => ⟨0, {}, srs⟩
  | .fin n m e =>
    let k := drawBits w
    let s := if mode = .rsto then srsStep srs else srs
    let (t, inexact) := roundMul mode k (srsDraw k s) n m e 0
    let lo := XNum.ofInt false (intMin signed w) 0
    let hi := XNum.ofInt false (intMax signed w) 0
    let v := signedInt n t
    if numLt (.fin n m e) lo || decide (v < intMin signed w) then ⟨wrap w (intMin signed w), Flags.invalid, s⟩
    else if numLt hi (.fin n m e) || decide (intMax signed w < v) then ⟨wrap w (intMax signed w), Flags.invalid, s⟩
    else ⟨wrap w v, { nx := inexact }, s⟩

/-- A w-bit pattern read as two's complement. -/
def asSigned (w n : Nat) : Int := if n % 2 ^ w < 2 ^ (w - 1) then ((n % 2 ^ w : Nat) : Int) else ((n % 2 ^ w : Nat) : Int) - 2 ^ w

/-- Is the pattern an infinity or a NaN? -/
def Fmt.nonFinite (f : Fmt) (x : Nat) : Bool :=
  match f.decode x with
  | .nan _ | .inf _ => true
  | _ => false

/-- The exponent field of a pattern. -/
def Fmt.expField (f : Fmt) (x : Nat) : Nat := x / 2 ^ f.mant % (f.expOnes + 1)

/-- An exact value times 2^k. -/
def XNum.scale (k : Int) : XNum → XNum
  | .fin n m e => .fin n m (e + k)
  | x => x

end Sys2Proof.Machine
end

