-- ==== Sys2Proof/Syntax.lean ====
section
/-! DEFINITION. The steps of the part as one inductive: a constructor per row of spec/opcode_table.json. Rows with an
encoding carry the fields of their word (R76), rows of an X pair (R78) carry the fields of the second word and the
extension `e`, and the remaining rows are the events of the part, which carry what names their subject (a core `cid`,
a slot `sl`, a cluster `cl`, an operation in flight `op`, and so on). The order of the constructors carries no meaning:
the encoded rows stand first. -/

namespace Sys2Proof

/-- One step of the part, by its row of spec/opcode_table.json. -/
inductive Instr where
  /-- R130: Adds two g operands and writes the wrapped sum to g[d]. -/
  | add (d a b : BitVec 6) (w c : BitVec 1)
  /-- R130: Subtracts y from x and writes the wrapped difference. -/
  | sub (d a b : BitVec 6) (w c : BitVec 1)
  /-- R130: Writes the low w bits of x times y. -/
  | mul (d a b : BitVec 6) (w c : BitVec 1)
  /-- R130: Writes the high half of the signed product. -/
  | mulh (d a b : BitVec 6) (w c : BitVec 1)
  /-- R130: Writes the high half of the unsigned product. -/
  | mulhn (d a b : BitVec 6) (w c : BitVec 1)
  /-- R130: Writes z plus x times y, with z read from g[d]. -/
  | madd (d a b : BitVec 6) (w c : BitVec 1)
  /-- R33: Signed division that never traps. -/
  | div (d a b : BitVec 6) (w c : BitVec 1)
  /-- R33: Unsigned division that never traps. -/
  | divn (d a b : BitVec 6) (w c : BitVec 1)
  /-- R33: Signed remainder that never traps. -/
  | rem (d a b : BitVec 6) (w c : BitVec 1)
  /-- R33: Unsigned remainder that never traps. -/
  | remn (d a b : BitVec 6) (w c : BitVec 1)
  /-- R130: Bitwise AND. -/
  | and (d a b : BitVec 6) (w c : BitVec 1)
  /-- R130: Bitwise OR. -/
  | or (d a b : BitVec 6) (w c : BitVec 1)
  /-- R130: Bitwise XOR. -/
  | xor (d a b : BitVec 6) (w c : BitVec 1)
  /-- R130: Writes x AND NOT y. -/
  | andn (d a b : BitVec 6) (w c : BitVec 1)
  /-- R130: Shifts x left by y mod w. -/
  | shl (d a b : BitVec 6) (w c : BitVec 1)
  /-- R130: Logical right shift of x. -/
  | shr (d a b : BitVec 6) (w c : BitVec 1)
  /-- R130: Arithmetic right shift of x. -/
  | sar (d a b : BitVec 6) (w c : BitVec 1)
  /-- R130: Rotates x left by y mod w. -/
  | rol (d a b : BitVec 6) (w c : BitVec 1)
  /-- R130: Signed minimum. -/
  | min (d a b : BitVec 6) (w c : BitVec 1)
  /-- R130: Signed maximum. -/
  | max (d a b : BitVec 6) (w c : BitVec 1)
  /-- R130: Unsigned minimum. -/
  | minn (d a b : BitVec 6) (w c : BitVec 1)
  /-- R130: Unsigned maximum. -/
  | maxn (d a b : BitVec 6) (w c : BitVec 1)
  /-- R130: Writes 1 if x is less than y, signed, else 0. -/
  | slt (d a b : BitVec 6) (w c : BitVec 1)
  /-- R130: Writes 1 if x is less than y, unsigned, else 0. -/
  | sltn (d a b : BitVec 6) (w c : BitVec 1)
  /-- R130: Writes 1 if x equals y, else 0. -/
  | seq (d a b : BitVec 6) (w c : BitVec 1)
  /-- R131: Counts the leading zeros of x. -/
  | clz (d a : BitVec 6) (w : BitVec 1)
  /-- R131: Counts the trailing zeros of x. -/
  | ctz (d a : BitVec 6) (w : BitVec 1)
  /-- R131: Counts the set bits of x. -/
  | pop (d a : BitVec 6) (w : BitVec 1)
  /-- R131: Reverses the bits of x. -/
  | brev (d a : BitVec 6) (w : BitVec 1)
  /-- R131: Reverses the bytes of x. -/
  | bswap (d a : BitVec 6) (w : BitVec 1)
  /-- R130: Sign-extends the low y mod w bits of x. -/
  | sext (d a b : BitVec 6) (w c : BitVec 1)
  /-- R130: Zero-extends the low y mod w bits of x. -/
  | zext (d a b : BitVec 6) (w c : BitVec 1)
  /-- R130: Writes x if z is nonzero, else y. -/
  | sel (d a b : BitVec 6) (w c : BitVec 1)
  /-- R132: Adds a 10-bit immediate. -/
  | addi (d a : BitVec 6) (i : BitVec 10)
  /-- R132: ANDs with a sign-extended immediate. -/
  | andi (d a : BitVec 6) (i : BitVec 10)
  /-- R132: ORs with a sign-extended immediate. -/
  | ori (d a : BitVec 6) (i : BitVec 10)
  /-- R132: XORs with a sign-extended immediate. -/
  | xori (d a : BitVec 6) (i : BitVec 10)
  /-- R132: Shifts left by an immediate count. -/
  | shli (d a s : BitVec 6)
  /-- R132: Logical right shift by an immediate count. -/
  | shri (d a s : BitVec 6)
  /-- R132: Arithmetic right shift by an immediate count. -/
  | sari (d a s : BitVec 6)
  /-- R132: Signed compare against an immediate. -/
  | slti (d a : BitVec 6) (i : BitVec 10)
  /-- R132: Unsigned compare against an immediate. -/
  | sltni (d a : BitVec 6) (i : BitVec 10)
  /-- R132: Multiplies by an immediate, low 64 bits. -/
  | muli (d a : BitVec 6) (i : BitVec 10)
  /-- R78: ADDI with an X word prefix giving a 36-bit immediate, issued as one instruction. -/
  | addiX (d a : BitVec 6) (i : BitVec 10) (e : BitVec 26)
  /-- R78: ANDI with an X word prefix. -/
  | andiX (d a : BitVec 6) (i : BitVec 10) (e : BitVec 26)
  /-- R78: ORI with an X word prefix. -/
  | oriX (d a : BitVec 6) (i : BitVec 10) (e : BitVec 26)
  /-- R78: XORI with an X word prefix. -/
  | xoriX (d a : BitVec 6) (i : BitVec 10) (e : BitVec 26)
  /-- R132: SHLI with an X word prefix whose ext26 is 0. -/
  | shliX (d a s : BitVec 6)
  /-- R132: SHRI with an X word prefix whose ext26 is 0. -/
  | shriX (d a s : BitVec 6)
  /-- R132: SARI with an X word prefix whose ext26 is 0. -/
  | sariX (d a s : BitVec 6)
  /-- R78: SLTI with an X word prefix. -/
  | sltiX (d a : BitVec 6) (i : BitVec 10) (e : BitVec 26)
  /-- R78: SLTNI with an X word prefix. -/
  | sltniX (d a : BitVec 6) (i : BitVec 10) (e : BitVec 26)
  /-- R78: MULI with an X word prefix. -/
  | muliX (d a : BitVec 6) (i : BitVec 10) (e : BitVec 26)
  /-- R133: Loads a sign-extended 14-bit immediate into g[d]. -/
  | li (d : BitVec 6) (i : BitVec 14)
  /-- R133: Writes bits 63:40 of g[d] from the immediate. -/
  | lih (d : BitVec 6) (i : BitVec 14)
  /-- R78: LI with an X word prefix giving a 40-bit immediate. -/
  | liX (d : BitVec 6) (i : BitVec 14) (e : BitVec 26)
  /-- R133: LIH with an X word prefix. -/
  | lihX (d : BitVec 6) (i : BitVec 14) (e : BitVec 26)
  /-- R134: Writes a base plus immediate address without access. -/
  | lea (d a : BitVec 6) (i : BitVec 14)
  /-- R134: LEA with an X word prefix. -/
  | leaX (d a : BitVec 6) (i : BitVec 14) (e : BitVec 26)
  /-- R135: Branches when the operands are equal. -/
  | beq (a b : BitVec 6) (o : BitVec 14)
  /-- R135: Branches when the operands differ. -/
  | bne (a b : BitVec 6) (o : BitVec 14)
  /-- R135: Branches on signed less than. -/
  | blt (a b : BitVec 6) (o : BitVec 14)
  /-- R135: Branches on signed greater or equal. -/
  | bge (a b : BitVec 6) (o : BitVec 14)
  /-- R135: Branches on unsigned less than. -/
  | bltn (a b : BitVec 6) (o : BitVec 14)
  /-- R135: Branches on unsigned greater or equal. -/
  | bgen (a b : BitVec 6) (o : BitVec 14)
  /-- R135: Branches when g[a] is zero. -/
  | bez (a : BitVec 6) (o : BitVec 14)
  /-- R135: Branches when g[a] is nonzero. -/
  | bnz (a : BitVec 6) (o : BitVec 14)
  /-- R136: Jumps by a word offset. -/
  | j (o : BitVec 26)
  /-- R136: Writes the link and jumps by a word offset. -/
  | call (o : BitVec 26)
  /-- R137: Jumps to g[a], retiring the task when it is 0. -/
  | jr (a : BitVec 6)
  /-- R137: Writes the link and jumps to g[a]. -/
  | callr (a : BitVec 6)
  /-- R140: Pushes a hardware loop with a register count, or skips the body on 0. -/
  | loop (r c : BitVec 1) (a : BitVec 6) (l : BitVec 8)
  /-- R140: Pushes a hardware loop with an immediate count. -/
  | loopi (r c : BitVec 1) (n : BitVec 12) (l : BitVec 8)
  /-- R147: Captures and checks L words and replays them N times with staggered register fields. -/
  | rpt (l : BitVec 4) (n : BitVec 8) (d a b : BitVec 4) (v : BitVec 2)
  /-- R247: Loads 1 to 8 bytes from the on-chip window into g[t]. -/
  | ld (t b : BitVec 6) (s : BitVec 2) (x : BitVec 1) (o : BitVec 11)
  /-- R247: Stores 1 to 8 bytes of g[t] to the on-chip window. -/
  | st (t b : BitVec 6) (s : BitVec 2) (o : BitVec 11)
  /-- R249: Loads 1 to 32 registers granule by granule with resumable progress. -/
  | ldm (t b : BitVec 6) (c : BitVec 5) (o : BitVec 6)
  /-- R249: Stores 1 to 32 registers granule by granule with resumable progress. -/
  | stm (t b : BitVec 6) (c : BitVec 5) (o : BitVec 6)
  /-- R251: Waits for full, reads the word and sets it empty, as an acquire. -/
  | ldfe (t b : BitVec 6) (o : BitVec 11)
  /-- R251: Waits for full and reads the word, leaving it full, as an acquire. -/
  | ldff (t b : BitVec 6) (o : BitVec 11)
  /-- R251: Waits for empty, writes the word and sets it full, as a release. -/
  | stfe (t b : BitVec 6) (o : BitVec 11)
  /-- R251: Writes the word and sets it full, as a release. -/
  | stf (t b : BitVec 6) (o : BitVec 11)
  /-- R252: Waits until the word differs from g[t], using a monitor entry. -/
  | waitw (t b : BitVec 6) (o : BitVec 11)
  /-- R255: Atomic integer add at the owner. -/
  | aadd (d a b : BitVec 6) (w n : BitVec 1) (o : BitVec 2)
  /-- R255: Atomic AND at the owner. -/
  | aand (d a b : BitVec 6) (w n : BitVec 1) (o : BitVec 2)
  /-- R255: Atomic OR at the owner. -/
  | aor (d a b : BitVec 6) (w n : BitVec 1) (o : BitVec 2)
  /-- R255: Atomic XOR at the owner. -/
  | axor (d a b : BitVec 6) (w n : BitVec 1) (o : BitVec 2)
  /-- R255: Atomic signed minimum. -/
  | amin (d a b : BitVec 6) (w n : BitVec 1) (o : BitVec 2)
  /-- R255: Atomic signed maximum. -/
  | amax (d a b : BitVec 6) (w n : BitVec 1) (o : BitVec 2)
  /-- R255: Atomic unsigned minimum. -/
  | aminn (d a b : BitVec 6) (w n : BitVec 1) (o : BitVec 2)
  /-- R255: Atomic unsigned maximum. -/
  | amaxn (d a b : BitVec 6) (w n : BitVec 1) (o : BitVec 2)
  /-- R255: Atomic swap. -/
  | aswp (d a b : BitVec 6) (w n : BitVec 1) (o : BitVec 2)
  /-- R255: Atomic compare and swap against g[d]. -/
  | acas (d a b : BitVec 6) (w n : BitVec 1) (o : BitVec 2)
  /-- R255: Atomic floating-point add rounded under the issuer's mode. -/
  | faadd (d a b : BitVec 6) (w n : BitVec 1) (o : BitVec 2)
  /-- R255: Atomic minimumNumber. -/
  | famin (d a b : BitVec 6) (w n : BitVec 1) (o : BitVec 2)
  /-- R255: Atomic maximumNumber. -/
  | famax (d a b : BitVec 6) (w n : BitVec 1) (o : BitVec 2)
  /-- R258: Adds a value into the task slot's lane at the cluster's reduction combiner. -/
  | radd (a b : BitVec 6) (t : BitVec 1)
  /-- R260: Waits for the slot's writes to reach home and marks them fenced for a scope, flushing the combiner with RED. -/
  | fence (r : BitVec 1) (s : BitVec 3)
  /-- R262: Acquires the releases recorded at a sync object. -/
  | acq (d : BitVec 6)
  /-- R262: Records a release at a sync object once the store-acknowledge counter is 0. -/
  | rel (d : BitVec 6)
  /-- R263: Binds a region to a sync object in the process's binding table. -/
  | bind (d : BitVec 6)
  /-- R263: Removes bound regions lying wholly in a range. -/
  | unbind (d : BitVec 6)
  /-- R266: Allocates a phaser from the reservation and registers the task. -/
  | phnew (d : BitVec 6) (m : BitVec 2)
  /-- R267: Registers the task on a phaser in a given mode. -/
  | phjoin (d : BitVec 6) (m : BitVec 2)
  /-- R267: Removes the task from a phaser, counting as its signal. -/
  | phleave (d : BitVec 6)
  /-- R268: Signals the current phase as a release. -/
  | phsig (d : BitVec 6)
  /-- R268: Waits for the phase past wp and acquires it. -/
  | phwait (d : BitVec 6)
  /-- R268: Signals then waits, as one instruction. -/
  | phnext (d : BitVec 6)
  /-- R266: Returns a phaser to the creator's reservation. -/
  | phfree (d : BitVec 6)
  /-- R150: Sends a value to q3 of a task slot of the cluster. -/
  | qsend (f t : BitVec 6)
  /-- R151: Reads a port's count and oldest entry without dequeuing. -/
  | qpeek (f p : BitVec 6)
  /-- R152: Sends a 2- or 4-word message to a slot's inbox, dropping it if full. -/
  | msend (f t n : BitVec 6)
  /-- R152: Sends a message to a slot's inbox, holding it until accepted. -/
  | msendw (f t n : BitVec 6)
  /-- R155: Pushes a child task on the core's deque, or runs it inline when full. -/
  | spawn (f : BitVec 6)
  /-- R156: Forks a range over recruited task slots with a join cell. -/
  | fork (f : BitVec 6)
  /-- R157: Decrements a join cell; the last participant continues, others retire. -/
  | joinc (f : BitVec 6)
  /-- R158: Submits a 64-byte launch record to the die's command processor. -/
  | launch (f t : BitVec 6)
  /-- R163: Reads a pipeline declaration block and allocates its plain queues and handle. -/
  | pipedecl (f t : BitVec 6)
  /-- R164: Starts a declared pipeline and its shares. -/
  | pipego (f t : BitVec 6)
  /-- R165: Waits until the pipeline is idle, optionally freeing it. -/
  | pipewait (f t : BitVec 6) (x : BitVec 1)
  /-- R167: Sets the g, k or v base from an immediate. -/
  | view (s : BitVec 2) (b : BitVec 10)
  /-- R167: Sets all three view bases from g[d]. -/
  | viewRegister (d : BitVec 6)
  /-- R168: Sets the lane request from an immediate and renegotiates the grant. -/
  | lclaim (d : BitVec 6) (r : BitVec 7)
  /-- R168: Sets the lane request from g[d] and renegotiates the grant. -/
  | lclaimRegister (d : BitVec 6)
  /-- R169: Renegotiates the grant with the current request. -/
  | lrn (d : BitVec 6)
  /-- R273: Copies up to 256 KiB of bytes unchanged. -/
  | cpy (f t : BitVec 6)
  /-- R277: Reads a tensor tile transposed through a stride-gather pattern. -/
  | cpyt (f t p : BitVec 6)
  /-- R276: Writes a stride-pattern descriptor to one entry of all eight stride-gather units. -/
  | cpytSet (f t p : BitVec 6)
  /-- R275: Copies with decoding into a named floating-point format. -/
  | cpyd (f t : BitVec 6) (o : BitVec 4)
  /-- R274: Copies rows with source and destination strides. -/
  | cpys (f t : BitVec 6)
  /-- R328: Sends a routine call to the unit that owns the target address. -/
  | rcall (f t n : BitVec 6) (r : BitVec 1)
  /-- R331: Ends a remote routine and sends its reply with up to 4 values. -/
  | rret (m : BitVec 3)
  /-- R173: Traps with cause 0x0D or calls a control-plane service by code. -/
  | trap (d : BitVec 6) (c : BitVec 12)
  /-- R177: Reads a system register. -/
  | sysr (d : BitVec 6) (n : BitVec 12)
  /-- R177: Writes a system register that has no row of its own. -/
  | sysw (d : BitVec 6) (n : BitVec 12)
  /-- R174: Traps with cause 0x0C carrying the code. -/
  | brk (c : BitVec 12)
  /-- R188: Vector integer add. -/
  | vadd (d a b : BitVec 5) (k t : BitVec 3) (s : BitVec 1)
  /-- R188: Vector integer subtract. -/
  | vsub (d a b : BitVec 5) (k t : BitVec 3) (s : BitVec 1)
  /-- R188: Vector integer multiply. -/
  | vmul (d a b : BitVec 5) (k t : BitVec 3) (s : BitVec 1)
  /-- R188: Vector high half of signed product. -/
  | vmulh (d a b : BitVec 5) (k t : BitVec 3)
  /-- R188: Vector signed minimum. -/
  | vmin (d a b : BitVec 5) (k t : BitVec 3)
  /-- R188: Vector signed maximum. -/
  | vmax (d a b : BitVec 5) (k t : BitVec 3)
  /-- R188: Vector unsigned minimum. -/
  | vminn (d a b : BitVec 5) (k t : BitVec 3)
  /-- R188: Vector unsigned maximum. -/
  | vmaxn (d a b : BitVec 5) (k t : BitVec 3)
  /-- R188: Vector bitwise AND. -/
  | vand (d a b : BitVec 5) (k t : BitVec 3)
  /-- R188: Vector bitwise OR. -/
  | vor (d a b : BitVec 5) (k t : BitVec 3)
  /-- R188: Vector bitwise XOR. -/
  | vxor (d a b : BitVec 5) (k t : BitVec 3)
  /-- R188: Vector shift left. -/
  | vshl (d a b : BitVec 5) (k t : BitVec 3)
  /-- R188: Vector logical shift right. -/
  | vshr (d a b : BitVec 5) (k t : BitVec 3)
  /-- R188: Vector arithmetic shift right. -/
  | vsar (d a b : BitVec 5) (k t : BitVec 3)
  /-- R188: Vector integer absolute value. -/
  | vabs (d a : BitVec 5) (k t : BitVec 3) (s : BitVec 1)
  /-- R190: Vector floating-point add. -/
  | vfadd (d a b : BitVec 5) (k t : BitVec 3) (s : BitVec 1)
  /-- R190: Vector floating-point subtract. -/
  | vfsub (d a b : BitVec 5) (k t : BitVec 3) (s : BitVec 1)
  /-- R190: Vector floating-point multiply. -/
  | vfmul (d a b : BitVec 5) (k t : BitVec 3) (s : BitVec 1)
  /-- R190: Vector fused a times b plus c, one rounding. -/
  | vfma (d a b : BitVec 5) (k t : BitVec 3) (s : BitVec 1)
  /-- R190: Vector fused a times b minus c. -/
  | vfms (d a b : BitVec 5) (k t : BitVec 3) (s : BitVec 1)
  /-- R190: Vector fused minus a times b plus c. -/
  | vfnma (d a b : BitVec 5) (k t : BitVec 3) (s : BitVec 1)
  /-- R191: Vector minimumNumber. -/
  | vfmin (d a b : BitVec 5) (k t : BitVec 3)
  /-- R191: Vector maximumNumber. -/
  | vfmax (d a b : BitVec 5) (k t : BitVec 3)
  /-- R190: Vector floating-point divide. -/
  | vfdiv (d a b : BitVec 5) (k t : BitVec 3) (s : BitVec 1)
  /-- R190: Vector square root. -/
  | vfsqrt (d a : BitVec 5) (k t : BitVec 3) (s : BitVec 1)
  /-- R190: Vector clear of the sign bit, not arithmetic. -/
  | vfabs (d a : BitVec 5) (k t : BitVec 3)
  /-- R190: Vector inversion of the sign bit, not arithmetic. -/
  | vfneg (d a : BitVec 5) (k t : BitVec 3)
  /-- R192: Writes a class bit mask per element. -/
  | vfclass (d a : BitVec 5) (k t : BitVec 3)
  /-- R194: Integer equality compare into a mask. -/
  | vceq (d a b : BitVec 5) (k t : BitVec 3)
  /-- R194: Integer inequality compare into a mask. -/
  | vcne (d a b : BitVec 5) (k t : BitVec 3)
  /-- R194: Signed less-than compare into a mask. -/
  | vclt (d a b : BitVec 5) (k t : BitVec 3)
  /-- R194: Signed less-or-equal compare into a mask. -/
  | vcle (d a b : BitVec 5) (k t : BitVec 3)
  /-- R194: Floating-point equality compare into a mask. -/
  | vfceq (d a b : BitVec 5) (k t : BitVec 3)
  /-- R194: Floating-point less-than compare into a mask. -/
  | vfclt (d a b : BitVec 5) (k t : BitVec 3)
  /-- R194: Floating-point less-or-equal compare into a mask. -/
  | vfcle (d a b : BitVec 5) (k t : BitVec 3)
  /-- R195: ANDs two masks. -/
  | kand (d a b : BitVec 5)
  /-- R195: ORs two masks. -/
  | kor (d a b : BitVec 5)
  /-- R195: XORs two masks. -/
  | kxor (d a b : BitVec 5)
  /-- R195: Inverts a mask. -/
  | knot (d a : BitVec 5)
  /-- R195: Counts the set bits of a mask into g[vd]. -/
  | kpop (d a : BitVec 5)
  /-- R195: Writes the index of a mask's lowest set bit. -/
  | kfirst (d a : BitVec 5)
  /-- R195: Copies a mask to a mask. -/
  | kmovK (d a : BitVec 5)
  /-- R195: Copies a mask to a g register. -/
  | kmovG (d a : BitVec 5)
  /-- R195: Copies a g register to a mask. -/
  | kmovKg (d a : BitVec 5)
  /-- R197: Broadcasts the low bits of g[va] to every active element. -/
  | vbcast (d a : BitVec 5) (k t : BitVec 3)
  /-- R197: Broadcasts a constant-table entry to every active element. -/
  | vbcastConstant (d : BitVec 5) (c : BitVec 6) (k : BitVec 2) (t : BitVec 3)
  /-- R198: Slides elements up by a scalar shift. -/
  | vslideup (d a b : BitVec 5) (k t : BitVec 3)
  /-- R198: Slides elements down by a scalar shift. -/
  | vslidedn (d a b : BitVec 5) (k t : BitVec 3)
  /-- R199: Selects elements by index. -/
  | vperm (d a b : BitVec 5) (k t : BitVec 3)
  /-- R200: Packs the active elements. -/
  | vcomp (d a : BitVec 5) (k t : BitVec 3)
  /-- R200: Unpacks elements into the active positions. -/
  | vexpd (d a : BitVec 5) (k t : BitVec 3)
  /-- R201: Merges two vectors under a mask. -/
  | vmerge (d a b : BitVec 5) (k t : BitVec 3)
  /-- R201: Copies active elements. -/
  | vmov (d a : BitVec 5) (k t : BitVec 3)
  /-- R202: Extracts one element into a g register. -/
  | vextr (d a b : BitVec 5) (t : BitVec 3)
  /-- R202: Inserts a g register value into one element. -/
  | vins (d a b : BitVec 5) (k t : BitVec 3)
  /-- R59: Sequential sum of active elements into element 0. -/
  | vrsum (d a : BitVec 5) (k t : BitVec 3)
  /-- R60: Fixed pairwise-tree sum of active elements into element 0. -/
  | vrtsum (d a : BitVec 5) (k t : BitVec 3)
  /-- R204: Maximum of active elements into element 0. -/
  | vrmax (d a : BitVec 5) (k t : BitVec 3)
  /-- R204: Minimum of active elements into element 0. -/
  | vrmin (d a : BitVec 5) (k t : BitVec 3)
  /-- R207: Converts elements between formats under a rounding field. -/
  | vcvt (d a : BitVec 5) (s : BitVec 1) (e : BitVec 4) (k t r : BitVec 3)
  /-- R208: Narrows two registers into one. -/
  | vpack (d a b : BitVec 5) (k t r : BitVec 3)
  /-- R209: Widens one half of a register exactly. -/
  | vunpk (d a : BitVec 5) (e : BitVec 2) (z h : BitVec 1) (k t : BitVec 3)
  /-- R211: Contiguous vector load with an optional count limit. -/
  | vld (d a b : BitVec 5) (k t : BitVec 3)
  /-- R211: Contiguous vector store with an optional count limit. -/
  | vst (d a b : BitVec 5) (k t : BitVec 3)
  /-- R211: Strided vector load. -/
  | vlds (d a b : BitVec 5) (k t : BitVec 3)
  /-- R211: Strided vector store. -/
  | vsts (d a b : BitVec 5) (k t : BitVec 3)
  /-- R211: Indexed vector load. -/
  | vldx (d a b : BitVec 5) (k t : BitVec 3)
  /-- R213: Indexed vector store, highest index winning. -/
  | vstx (d a b : BitVec 5) (k t : BitVec 3)
  /-- R213: Indexed store that stores the first of each duplicate group and marks the rest in the mask. -/
  | vstxc (d a b : BitVec 5) (k t : BitVec 3)
  /-- R216: Copies a table image into the inkwell's interpolation-table memory. -/
  | vtild (d a b : BitVec 5)
  /-- R218: Evaluates a piecewise-linear table per element. -/
  | vti (d a b : BitVec 5) (k t : BitVec 3)
  /-- R219: Finds each active element's position in vb via the intersection unit. -/
  | visect (d a b : BitVec 5) (k t : BitVec 3)
  /-- R351: Writes the panel shadow configuration words. -/
  | mxcfg (f : BitVec 6)
  /-- R351: Commits the shadow for the matrix engine. -/
  | mxgo (t : BitVec 6)
  /-- R359: Zeroes and tags an accumulator tile. -/
  | mxz (y : BitVec 2) (n : BitVec 3)
  /-- R360: Reads a tile, converted, into scratchpad. -/
  | mxrd (f t : BitVec 6)
  /-- R360: Writes a tile from scratchpad. -/
  | mxwr (f : BitVec 6)
  /-- R351: Writes the shadow's metadata slot. -/
  | mxsp (s : BitVec 4)
  /-- R361: Forms a rectangle of panels. -/
  | mxrectForm (f t : BitVec 6)
  /-- R361: Dissolves a rectangle. -/
  | mxrectFree (f t : BitVec 6)
  /-- R346: Claims the n lowest free operand slots. -/
  | oclaim (t n : BitVec 6)
  /-- R346: Puts claimed operand slots into the releasing state. -/
  | orel (f : BitVec 6)
  /-- R347: Fills one operand slot from a source and tags it. -/
  | ofill (f t : BitVec 6)
  /-- R350: Waits for and decrements a panel semaphore. -/
  | semp (s : BitVec 3)
  /-- R350: Increments a panel semaphore. -/
  | semv (s : BitVec 3)
  /-- R365: Queues a quantisation command, optionally restarting a halted queue. -/
  | qnt (f t : BitVec 6) (r : BitVec 1)
  /-- R306: Fades and adds to the traces of a pair block, admitted at the region gate. -/
  | trc (f : BitVec 6) (l : BitVec 4) (r : BitVec 3)
  /-- R309: Issues a reward to every region of a plastic set. -/
  | reward (f t : BitVec 6) (s : BitVec 4) (c : BitVec 1)
  /-- R304: Registers a plastic region in a set. -/
  | plreg (f t : BitVec 6) (s : BitVec 4)
  /-- R304: Drops a plastic region from a set. -/
  | pldrop (f t : BitVec 6) (s : BitVec 4)
  /-- R321: Sends a delayed event to a neuron of a target core's ring. -/
  | evsend (f : BitVec 6) (n : BitVec 1)
  /-- R323: Waits for an event notice or a step advance. -/
  | waitev (t : BitVec 6)
  /-- R315: Signals and waits for the step group to advance. -/
  | stepadv (f t : BitVec 6)
  /-- R322: Updates neuron potentials from the current ring slot. -/
  | nrn (f : BitVec 6)
  /-- R320: Configures or removes the core's delay ring and binds it to a step group. -/
  | dring (f t : BitVec 6)
  /-- R377: Declares a delta queue from a declaration block. -/
  | dqdecl (f t : BitVec 6)
  /-- R380: Pushes a delta record into a queue. -/
  | dqpush (f t h : BitVec 6)
  /-- R386: Pops a released record or round end. -/
  | dqpop (f t h : BitVec 6)
  /-- R385: Consolidates every unreleased record. -/
  | dqcons (t h : BitVec 6)
  /-- R389: Adds a multiplicity into the queue's arrangement. -/
  | dqarr (f t h : BitVec 6)
  /-- R390: Lists the values of a key in the arrangement by cursor. -/
  | dqlook (f h : BitVec 6)
  /-- R391: Joins a sorted batch against the arrangement. -/
  | dqjoin (f t h : BitVec 6)
  /-- R381: Closes a round for a producer and releases rounds below the frontier. -/
  | dqclose (f t h : BitVec 6)
  /-- R393: Reads a queue's or pipeline's frontier word. -/
  | dqfront (t h : BitVec 6)
  /-- R82: A word of an unassigned major, a reserved selector, field or element type, or a misplaced X word traps with cause 0x01 before any effect. -/
  | illegalInstruction (w : BitVec 32)
  /-- R138: A fetch from an address outside the launch's code image traps with cause 0x03, xpc and xval holding the address. -/
  | instructionFetchOutsideImage (addr : BitVec 64)
  /-- R281: Takes a queued status trap before the slot's next instruction. -/
  | statusTrap (cid sl : Nat)
  /-- R137: Jumps to the link, retiring the task when it is 0. -/
  | ret
  /-- R142: Leaves the innermost hardware loop. -/
  | lbrk
  /-- R159: Retires the task. -/
  | exit
  /-- R107: Makes the slot not ready for the next 4 clk. -/
  | yield
  /-- R169: Releases the lane grant, keeping the request. -/
  | lyield
  /-- R172: Returns from a trap handler, or retires after a cancel trap. -/
  | eret
  /-- R170: Does nothing. -/
  | nop
  /-- R175: Takes a cancel trap if the task's token is cancelled. -/
  | canck
  /-- R176: Stops a control core until restarted; privileged elsewhere. -/
  | halt
  /-- R107: The slot becomes ready again 4 clk after a YIELD. -/
  | yieldEnd (cid sl : Nat)
  /-- R298: SYSW to txinv invalidating a process's entries that map one page. -/
  | txinvPage (pid : BitVec 16) (vpn : BitVec 32)
  /-- R298: SYSW to txinv invalidating every entry of a process. -/
  | txinvProcess (pid : BitVec 16)
  /-- R298: SYSW to txinv invalidating every station entry. -/
  | txinvAll
  /-- R299: Completes a txinv write once every station has dropped the entries and earlier walks ended. -/
  | txinvCompletion (n : Nat)
  /-- R386: Serves a waiting DQPOP when an item becomes deliverable. -/
  | waitingDqpopService (op : Nat)
  /-- R380: Holds a waiting pushed record once room frees or a chunk can be borrowed. -/
  | waitingDqpushService (op : Nat)
  /-- R412: Assigns a cluster to a process, clearing scratchpads and resetting cluster and panel state. -/
  | clusterAssignment (cl : Nat) (pid : BitVec 16)
  /-- R238: Releases a cluster from its process after flushing and folding its reductions. -/
  | clusterRelease (cl : Nat)
  /-- R93: A command processor accepts or rejects a launch record. -/
  | launchRecordAcceptance (die : Nat)
  /-- R96: Raises an eligible launch's effective priority every 100 µs. -/
  | priorityAging (lid : Nat)
  /-- R97: A launch whose next task waited 100 µs for a fit becomes reserving. -/
  | launchReserving (lid : Nat)
  /-- R100: The dispatcher places a launch's next task on a fitting core. -/
  | taskPlacement (cl : Nat)
  /-- R109: A core starts the youngest child of its deque in a free slot. -/
  | childStart (cid : Nat)
  /-- R110: An idle core advances its LFSR and takes children from a victim's deque. -/
  | stealProbe (cid : Nat)
  /-- R111: Recruitment for a FORK ends, starting recruits and delivering the forker's bounds. -/
  | forkRecruitment (op : Nat)
  /-- R115: The pipeline controller places a stage task. -/
  | stageTaskPlacement (cl pipe stage : Nat)
  /-- R116: Every 4,096 clk the controller picks donor and recipient stages. -/
  | pipelineOccupancyCheck (cl pipe : Nat)
  /-- R118: Retires a task once its outstanding operations drain, releasing its resources. -/
  | taskRetirement (cid sl : Nat)
  /-- R415: Delivers a held inbox message once an entry frees and the task is not saved. -/
  | heldMessageDelivery (cid sl : Nat)
  /-- R119: The control plane requests pre-emption at an instruction boundary. -/
  | preemptionRequest (cid sl : Nat)
  /-- R119: Saves the slot state once outstanding operations have drained and releases the grant. -/
  | slotStateSave (cid sl : Nat)
  /-- R120: Resumes a saved task on the same core once a slot and window fit. -/
  | resumption (n : Nat)
  /-- R122: Cancels a token, retiring queued and saved launches bearing it. -/
  | tokenCancellation (token : BitVec 32)
  /-- R407: Enters a slot waiting longer than the watchdog period in the watchdog status. -/
  | watchdogReport (cid sl : Nat)
  /-- R150: A QSEND value reaches the target q3 and a status returns. -/
  | qsendDelivery (op : Nat)
  /-- R152: An MSEND or MSENDW message reaches a target inbox. -/
  | messageDelivery (op : Nat)
  /-- R152: Offers a held MSENDW message again every 256 clk. -/
  | msendwRetry (op : Nat)
  /-- R125: A pending register's value arrives and waiting instructions may issue. -/
  | pendingValueArrival (op : Nat)
  /-- R173: Service code 0x000 returns status 0. -/
  | nullService (op : Nat)
  /-- R173: Service code 0x001 maps a page. -/
  | mapPage (op : Nat)
  /-- R173: Service code 0x002 unmaps a page after station invalidation. -/
  | unmapPage (op : Nat)
  /-- R173: Service codes 0x003-0x7FF return status 0xFF. -/
  | noSuchService (op : Nat)
  /-- R176: The management plane restarts a halted control core. -/
  | controlCoreRestart (n : Nat)
  /-- R222: A write reaches its home location and is acknowledged. -/
  | storeAtHome (op : Nat)
  /-- R253: A fallback WAITW rereads its word every 256 clk. -/
  | waitwPoll (op : Nat)
  /-- R242: A write's acknowledgement decrements the slot's store-acknowledge counter. -/
  | storeAcknowledge (op : Nat)
  /-- R243: An ACQ or .ACQ atomic answer returns and held accesses proceed. -/
  | acquireCompletion (op : Nat)
  /-- R236: A full/empty request is performed or parked at the owning core. -/
  | fullEmptyAtOwner (op : Nat)
  /-- R256: An atomic is performed indivisibly at its owning handler slot or nib. -/
  | atomicAtOwner (op : Nat)
  /-- R255: An atomic's reply arrives, writing d and flags or queuing a fault status. -/
  | atomicReply (op : Nat)
  /-- R237: The combiner accepts a RADD into its task slot's lane. -/
  | raddAtCombiner (op : Nat)
  /-- R237: A nib adds a forwarded sum into its slot for the cluster. -/
  | nibSumReceipt (n : Nat)
  /-- R272: The cluster's copy engine accepts a copy command. -/
  | copyEngineAcceptance (op : Nat)
  /-- R270: A copy completes with its token word. -/
  | copyCompletion (op : Nat)
  /-- R296: A station translates a request, hitting or starting a walk. -/
  | stationTranslation (pid : BitVec 16) (va : BitVec 64)
  /-- R296: A table walk ends and fills its station's cache or faults. -/
  | walkCompletion (station n : Nat)
  /-- R339: A call arrives at its unit and is run, discarded or answered from the reply cache. -/
  | remoteCallArrival (op : Nat)
  /-- R330: A unit starts the next arrived routine with its initial state. -/
  | routineStart (op : Nat)
  /-- R336: A routine reaching 20 µs is stopped with status 0x0F. -/
  | routineBudgetExpiry (op : Nat)
  /-- R335: A remote-call reply arrives at the caller's interface. -/
  | replyArrival (op : Nat)
  /-- R339: The caller acknowledges a reply and the reply-cache entry frees. -/
  | replyAcknowledgement (op : Nat)
  /-- R340: rc.timeout elapses and the interface tests whether the unit can be reached. -/
  | rcTimeoutExpiry (op : Nat)
  /-- R351: The engine takes a committed shadow and starts the operation. -/
  | mxOperationStart (cl panel : Nat)
  /-- R363: Gated sub-arrays finish waking after cap.wake. -/
  | subarrayWake (cl panel : Nat)
  /-- R363: A sub-array idle for gate.idle clk is gated. -/
  | subarrayGating (cl panel sub : Nat)
  /-- R357: A matrix operation completes, writing its tile and completion word. -/
  | mxOperationCompletion (op : Nat)
  /-- R348: An OFILL completes, writing the slot and its tag. -/
  | ofillCompletion (op : Nat)
  /-- R365: The quantisation engine accepts a command and reads its block. -/
  | qntAcceptance (op : Nat)
  /-- R367: The quantisation engine starts the next command. -/
  | qntCommandStart (cl : Nat)
  /-- R367: A quantisation command completes. -/
  | qntCommandCompletion (cl : Nat)
  /-- R311: The region gate admits a waiting TRC. -/
  | trcAdmission (op : Nat)
  /-- R311: A region gate records a REWARD. -/
  | rewardArming (op region : Nat)
  /-- R311: A reward pass begins at a region gate. -/
  | rewardPassStart (region : Nat)
  /-- R310: A reward pass finishes updating a region's weights. -/
  | rewardPassEnd (region : Nat)
  /-- R313: A REWARD completes when every included region has finished. -/
  | rewardCompletion (op : Nat)
  /-- R316: A deadline-mode step group advances every P clk. -/
  | stepTick (ph : Nat)
  /-- R321: An event is deposited into a ring slot or discarded. -/
  | eventDeposit (op : Nat)
  /-- R323: A waiting WAITEV slot wakes on a notice or step advance. -/
  | waitevWake (cid sl : Nat)
  /-- R403: A destination accepts a request, freeing its request buffer slot. -/
  | requestAcceptance (op : Nat)
  /-- R404: A packet that waited the escape wait moves to the escape channel. -/
  | escapeWaitExpiry (op : Nat)
  /-- R300: A die-link packet is received, accepted or discarded. -/
  | packetReceipt (link vc : Nat) (crcOk : Bool)
  /-- R300: The receiver's acknowledgement frees a packet from the replay buffer. -/
  | packetAcknowledgement (link vc : Nat)
  /-- R301: A link retrains after 16 failed replays or loss of lock. -/
  | linkRetrain (link : Nat)
  /-- R301: Training ends and the sender replays from the oldest unacknowledged packet. -/
  | linkTrainingEnd (link : Nat)
  /-- R397: The host registers a launch ring with a command processor. -/
  | ringRegistration (die : Nat) (desc : BitVec 256)
  /-- R397: The host writes a ring head count, submitting records. -/
  | ringHeadWrite (die ring : Nat) (head : BitVec 64)
  /-- R399: A host read of external memory over Shezu. -/
  | hostMemoryRead (pid : BitVec 16) (va : BitVec 64) (len : Nat)
  /-- R399: A host write of external memory over Shezu. -/
  | hostMemoryWrite (pid : BitVec 16) (va : BitVec 64) (bytes : List (BitVec 8))
  /-- R409: A firmware image is verified and run or refused. -/
  | firmwareImage (unit version : Nat) (sigOk : Bool) (digest : BitVec 256)
  /-- R409: Returns a signed attestation report for a host nonce. -/
  | attestationReport (nonce : BitVec 256)
  /-- R407: System software reads management telemetry. -/
  | telemetryRead (item index : Nat)
  /-- R407: System software sets the watchdog period, power limit or escape wait. -/
  | managementSettingWrite (item value : Nat)
  /-- R408: The management plane changes a die's throttle level. -/
  | throttleLevelChange (die level : Nat)
  /-- R410: A die at its shutdown temperature has power removed. -/
  | thermalShutdown (die : Nat)
  /-- R411: After reset the part verifies firmware, trains stacks and links, and sets the capability registers. -/
  | bringUp (ports : BitVec 16) (size : BitVec 8) (index : BitVec 5)
  /-- R263: A BIND or UNBIND completes once every cluster of the process, in every part of the domain, holds the change, and the waiting slot goes on. -/
  | bindCompletion (op : Nat)
  deriving DecidableEq, Repr

end Sys2Proof
end

