-- ==== Sys2Proof/Decode.lean ====
section
/-! DEFINITION. The decoder and the encoder (R76 to R82). The decoder is total on any bytes and rejects by name; the
encoder follows it, written from the word values of the instructions' entries. -/

namespace Sys2Proof

/-- Bits `lo + n - 1 : lo` of a word, as a field of a format (R8, R76). -/
def field (lo n : Nat) (w : Word) : BitVec n := BitVec.ofNat n (w.toNat / 2 ^ lo)

/-- Bits `lo + n - 1 : lo` of a word, as a number: a selector or an unused field (R79). -/
def sel (lo n : Nat) (w : Word) : Nat := w.toNat / 2 ^ lo % 2 ^ n

/-- Major 0x01, ALU (R79). -/
def decodeMajor01 (w : Word) : Option Instr :=
  match sel 0 6 w with
  | 0 => some (.add (field 20 6 w) (field 14 6 w) (field 8 6 w) (field 7 1 w) (field 6 1 w))
  | 1 => some (.sub (field 20 6 w) (field 14 6 w) (field 8 6 w) (field 7 1 w) (field 6 1 w))
  | 2 => some (.mul (field 20 6 w) (field 14 6 w) (field 8 6 w) (field 7 1 w) (field 6 1 w))
  | 3 => some (.mulh (field 20 6 w) (field 14 6 w) (field 8 6 w) (field 7 1 w) (field 6 1 w))
  | 4 => some (.mulhn (field 20 6 w) (field 14 6 w) (field 8 6 w) (field 7 1 w) (field 6 1 w))
  | 5 => some (.madd (field 20 6 w) (field 14 6 w) (field 8 6 w) (field 7 1 w) (field 6 1 w))
  | 6 => some (.div (field 20 6 w) (field 14 6 w) (field 8 6 w) (field 7 1 w) (field 6 1 w))
  | 7 => some (.divn (field 20 6 w) (field 14 6 w) (field 8 6 w) (field 7 1 w) (field 6 1 w))
  | 8 => some (.rem (field 20 6 w) (field 14 6 w) (field 8 6 w) (field 7 1 w) (field 6 1 w))
  | 9 => some (.remn (field 20 6 w) (field 14 6 w) (field 8 6 w) (field 7 1 w) (field 6 1 w))
  | 10 => some (.and (field 20 6 w) (field 14 6 w) (field 8 6 w) (field 7 1 w) (field 6 1 w))
  | 11 => some (.or (field 20 6 w) (field 14 6 w) (field 8 6 w) (field 7 1 w) (field 6 1 w))
  | 12 => some (.xor (field 20 6 w) (field 14 6 w) (field 8 6 w) (field 7 1 w) (field 6 1 w))
  | 13 => some (.andn (field 20 6 w) (field 14 6 w) (field 8 6 w) (field 7 1 w) (field 6 1 w))
  | 14 => some (.shl (field 20 6 w) (field 14 6 w) (field 8 6 w) (field 7 1 w) (field 6 1 w))
  | 15 => some (.shr (field 20 6 w) (field 14 6 w) (field 8 6 w) (field 7 1 w) (field 6 1 w))
  | 16 => some (.sar (field 20 6 w) (field 14 6 w) (field 8 6 w) (field 7 1 w) (field 6 1 w))
  | 17 => some (.rol (field 20 6 w) (field 14 6 w) (field 8 6 w) (field 7 1 w) (field 6 1 w))
  | 18 => some (.min (field 20 6 w) (field 14 6 w) (field 8 6 w) (field 7 1 w) (field 6 1 w))
  | 19 => some (.max (field 20 6 w) (field 14 6 w) (field 8 6 w) (field 7 1 w) (field 6 1 w))
  | 20 => some (.minn (field 20 6 w) (field 14 6 w) (field 8 6 w) (field 7 1 w) (field 6 1 w))
  | 21 => some (.maxn (field 20 6 w) (field 14 6 w) (field 8 6 w) (field 7 1 w) (field 6 1 w))
  | 22 => some (.slt (field 20 6 w) (field 14 6 w) (field 8 6 w) (field 7 1 w) (field 6 1 w))
  | 23 => some (.sltn (field 20 6 w) (field 14 6 w) (field 8 6 w) (field 7 1 w) (field 6 1 w))
  | 24 => some (.seq (field 20 6 w) (field 14 6 w) (field 8 6 w) (field 7 1 w) (field 6 1 w))
  | 25 => if sel 8 6 w = 0 ∧ sel 6 1 w = 0 then some (.clz (field 20 6 w) (field 14 6 w) (field 7 1 w)) else none
  | 26 => if sel 8 6 w = 0 ∧ sel 6 1 w = 0 then some (.ctz (field 20 6 w) (field 14 6 w) (field 7 1 w)) else none
  | 27 => if sel 8 6 w = 0 ∧ sel 6 1 w = 0 then some (.pop (field 20 6 w) (field 14 6 w) (field 7 1 w)) else none
  | 28 => if sel 8 6 w = 0 ∧ sel 6 1 w = 0 then some (.brev (field 20 6 w) (field 14 6 w) (field 7 1 w)) else none
  | 29 => if sel 8 6 w = 0 ∧ sel 6 1 w = 0 then some (.bswap (field 20 6 w) (field 14 6 w) (field 7 1 w)) else none
  | 30 => some (.sext (field 20 6 w) (field 14 6 w) (field 8 6 w) (field 7 1 w) (field 6 1 w))
  | 31 => some (.zext (field 20 6 w) (field 14 6 w) (field 8 6 w) (field 7 1 w) (field 6 1 w))
  | 32 => some (.sel (field 20 6 w) (field 14 6 w) (field 8 6 w) (field 7 1 w) (field 6 1 w))
  | _ => none

/-- Major 0x02, ALUI (R79). -/
def decodeMajor02 (w : Word) : Option Instr :=
  match sel 10 4 w with
  | 0 => some (.addi (field 20 6 w) (field 14 6 w) (field 0 10 w))
  | 1 => some (.andi (field 20 6 w) (field 14 6 w) (field 0 10 w))
  | 2 => some (.ori (field 20 6 w) (field 14 6 w) (field 0 10 w))
  | 3 => some (.xori (field 20 6 w) (field 14 6 w) (field 0 10 w))
  | 4 => if sel 6 4 w = 0 then some (.shli (field 20 6 w) (field 14 6 w) (field 0 6 w)) else none
  | 5 => if sel 6 4 w = 0 then some (.shri (field 20 6 w) (field 14 6 w) (field 0 6 w)) else none
  | 6 => if sel 6 4 w = 0 then some (.sari (field 20 6 w) (field 14 6 w) (field 0 6 w)) else none
  | 7 => some (.slti (field 20 6 w) (field 14 6 w) (field 0 10 w))
  | 8 => some (.sltni (field 20 6 w) (field 14 6 w) (field 0 10 w))
  | 9 => some (.muli (field 20 6 w) (field 14 6 w) (field 0 10 w))
  | _ => none

/-- Major 0x03, LI (R79). -/
def decodeMajor03 (w : Word) : Option Instr :=
  match sel 14 6 w with
  | 0 => some (.li (field 20 6 w) (field 0 14 w))
  | 1 => some (.lih (field 20 6 w) (field 0 14 w))
  | _ => none

/-- Major 0x04, LEA (R79). -/
def decodeMajor04 (w : Word) : Option Instr :=
  some (.lea (field 20 6 w) (field 14 6 w) (field 0 14 w))

/-- Major 0x05, BEQ (R79). -/
def decodeMajor05 (w : Word) : Option Instr :=
  some (.beq (field 20 6 w) (field 14 6 w) (field 0 14 w))

/-- Major 0x06, BNE (R79). -/
def decodeMajor06 (w : Word) : Option Instr :=
  some (.bne (field 20 6 w) (field 14 6 w) (field 0 14 w))

/-- Major 0x07, BLT (R79). -/
def decodeMajor07 (w : Word) : Option Instr :=
  some (.blt (field 20 6 w) (field 14 6 w) (field 0 14 w))

/-- Major 0x08, BGE (R79). -/
def decodeMajor08 (w : Word) : Option Instr :=
  some (.bge (field 20 6 w) (field 14 6 w) (field 0 14 w))

/-- Major 0x09, BLTN (R79). -/
def decodeMajor09 (w : Word) : Option Instr :=
  some (.bltn (field 20 6 w) (field 14 6 w) (field 0 14 w))

/-- Major 0x0A, BGEN (R79). -/
def decodeMajor0A (w : Word) : Option Instr :=
  some (.bgen (field 20 6 w) (field 14 6 w) (field 0 14 w))

/-- Major 0x0B, BZ (R79). -/
def decodeMajor0B (w : Word) : Option Instr :=
  match sel 14 6 w with
  | 0 => some (.bez (field 20 6 w) (field 0 14 w))
  | 1 => some (.bnz (field 20 6 w) (field 0 14 w))
  | _ => none

/-- Major 0x0C, J (R79). -/
def decodeMajor0C (w : Word) : Option Instr :=
  some (.j (field 0 26 w))

/-- Major 0x0D, CALL (R79). -/
def decodeMajor0D (w : Word) : Option Instr :=
  some (.call (field 0 26 w))

/-- Major 0x0E, JR (R79). -/
def decodeMajor0E (w : Word) : Option Instr :=
  match sel 0 8 w with
  | 0 => if sel 20 6 w = 0 ∧ sel 8 6 w = 0 then some (.jr (field 14 6 w)) else none
  | 1 => if sel 20 6 w = 0 ∧ sel 8 6 w = 0 then some (.callr (field 14 6 w)) else none
  | 2 => if sel 8 18 w = 0 then some (.ret) else none
  | _ => none

/-- Major 0x0F, LOOP (R79). -/
def decodeMajor0F (w : Word) : Option Instr :=
  match sel 20 2 w with
  | 0 => if sel 22 2 w = 0 ∧ sel 8 6 w = 0 then some (.loop (field 25 1 w) (field 24 1 w) (field 14 6 w) (field 0 8 w)) else none
  | 1 => if sel 22 2 w = 0 then some (.loopi (field 25 1 w) (field 24 1 w) (field 8 12 w) (field 0 8 w)) else none
  | 2 => if sel 22 4 w = 0 ∧ sel 0 20 w = 0 then some (.lbrk) else none
  | _ => none

/-- Major 0x10, RPT (R79). -/
def decodeMajor10 (w : Word) : Option Instr :=
  some (.rpt (field 22 4 w) (field 14 8 w) (field 10 4 w) (field 6 4 w) (field 2 4 w) (field 0 2 w))

/-- Major 0x11, LD (R79). -/
def decodeMajor11 (w : Word) : Option Instr :=
  some (.ld (field 20 6 w) (field 14 6 w) (field 12 2 w) (field 11 1 w) (field 0 11 w))

/-- Major 0x12, ST (R79). -/
def decodeMajor12 (w : Word) : Option Instr :=
  if sel 11 1 w = 0 then some (.st (field 20 6 w) (field 14 6 w) (field 12 2 w) (field 0 11 w)) else none

/-- Major 0x13, LDM/STM (R79). -/
def decodeMajor13 (w : Word) : Option Instr :=
  match sel 11 1 w with
  | 0 => if sel 12 2 w = 3 then some (.ldm (field 20 6 w) (field 14 6 w) (field 6 5 w) (field 0 6 w)) else none
  | 1 => if sel 12 2 w = 3 then some (.stm (field 20 6 w) (field 14 6 w) (field 6 5 w) (field 0 6 w)) else none
  | _ => none

/-- Major 0x14, FE (R79). -/
def decodeMajor14 (w : Word) : Option Instr :=
  match sel 11 3 w with
  | 0 => some (.ldfe (field 20 6 w) (field 14 6 w) (field 0 11 w))
  | 1 => some (.ldff (field 20 6 w) (field 14 6 w) (field 0 11 w))
  | 2 => some (.stfe (field 20 6 w) (field 14 6 w) (field 0 11 w))
  | 3 => some (.stf (field 20 6 w) (field 14 6 w) (field 0 11 w))
  | 4 => some (.waitw (field 20 6 w) (field 14 6 w) (field 0 11 w))
  | _ => none

/-- Major 0x15, ATOM (R79). -/
def decodeMajor15 (w : Word) : Option Instr :=
  match sel 0 4 w with
  | 0 => some (.aadd (field 20 6 w) (field 14 6 w) (field 8 6 w) (field 7 1 w) (field 6 1 w) (field 4 2 w))
  | 1 => some (.aand (field 20 6 w) (field 14 6 w) (field 8 6 w) (field 7 1 w) (field 6 1 w) (field 4 2 w))
  | 2 => some (.aor (field 20 6 w) (field 14 6 w) (field 8 6 w) (field 7 1 w) (field 6 1 w) (field 4 2 w))
  | 3 => some (.axor (field 20 6 w) (field 14 6 w) (field 8 6 w) (field 7 1 w) (field 6 1 w) (field 4 2 w))
  | 4 => some (.amin (field 20 6 w) (field 14 6 w) (field 8 6 w) (field 7 1 w) (field 6 1 w) (field 4 2 w))
  | 5 => some (.amax (field 20 6 w) (field 14 6 w) (field 8 6 w) (field 7 1 w) (field 6 1 w) (field 4 2 w))
  | 6 => some (.aminn (field 20 6 w) (field 14 6 w) (field 8 6 w) (field 7 1 w) (field 6 1 w) (field 4 2 w))
  | 7 => some (.amaxn (field 20 6 w) (field 14 6 w) (field 8 6 w) (field 7 1 w) (field 6 1 w) (field 4 2 w))
  | 8 => some (.aswp (field 20 6 w) (field 14 6 w) (field 8 6 w) (field 7 1 w) (field 6 1 w) (field 4 2 w))
  | 9 => some (.acas (field 20 6 w) (field 14 6 w) (field 8 6 w) (field 7 1 w) (field 6 1 w) (field 4 2 w))
  | 10 => some (.faadd (field 20 6 w) (field 14 6 w) (field 8 6 w) (field 7 1 w) (field 6 1 w) (field 4 2 w))
  | 11 => some (.famin (field 20 6 w) (field 14 6 w) (field 8 6 w) (field 7 1 w) (field 6 1 w) (field 4 2 w))
  | 12 => some (.famax (field 20 6 w) (field 14 6 w) (field 8 6 w) (field 7 1 w) (field 6 1 w) (field 4 2 w))
  | _ => none

/-- Major 0x16, RADD (R79). -/
def decodeMajor16 (w : Word) : Option Instr :=
  if sel 20 6 w = 0 ∧ sel 1 7 w = 0 then some (.radd (field 14 6 w) (field 8 6 w) (field 0 1 w)) else none

/-- Major 0x17, FENCE (R79). -/
def decodeMajor17 (w : Word) : Option Instr :=
  match sel 0 5 w with
  | 0 => if sel 12 14 w = 0 ∧ sel 5 3 w = 0 then some (.fence (field 11 1 w) (field 8 3 w)) else none
  | 1 => if sel 5 15 w = 0 then some (.acq (field 20 6 w)) else none
  | 2 => if sel 5 15 w = 0 then some (.rel (field 20 6 w)) else none
  | 3 => if sel 5 15 w = 0 then some (.bind (field 20 6 w)) else none
  | 4 => if sel 5 15 w = 0 then some (.unbind (field 20 6 w)) else none
  | _ => none

/-- Major 0x18, PH (R79). -/
def decodeMajor18 (w : Word) : Option Instr :=
  match sel 0 5 w with
  | 0 => if sel 10 10 w = 0 ∧ sel 5 3 w = 0 then some (.phnew (field 20 6 w) (field 8 2 w)) else none
  | 1 => if sel 10 10 w = 0 ∧ sel 5 3 w = 0 then some (.phjoin (field 20 6 w) (field 8 2 w)) else none
  | 2 => if sel 5 15 w = 0 then some (.phleave (field 20 6 w)) else none
  | 3 => if sel 5 15 w = 0 then some (.phsig (field 20 6 w)) else none
  | 4 => if sel 5 15 w = 0 then some (.phwait (field 20 6 w)) else none
  | 5 => if sel 5 15 w = 0 then some (.phnext (field 20 6 w)) else none
  | 6 => if sel 5 15 w = 0 then some (.phfree (field 20 6 w)) else none
  | _ => none

/-- Major 0x19, MSG (R79). -/
def decodeMajor19 (w : Word) : Option Instr :=
  match sel 0 5 w with
  | 0 => if sel 5 9 w = 0 then some (.qsend (field 20 6 w) (field 14 6 w)) else none
  | 1 => if sel 14 6 w = 0 ∧ sel 5 3 w = 0 then some (.qpeek (field 20 6 w) (field 8 6 w)) else none
  | 2 => if sel 5 3 w = 0 then some (.msend (field 20 6 w) (field 14 6 w) (field 8 6 w)) else none
  | 3 => if sel 5 3 w = 0 then some (.msendw (field 20 6 w) (field 14 6 w) (field 8 6 w)) else none
  | _ => none

/-- Major 0x1A, TASK (R79). -/
def decodeMajor1A (w : Word) : Option Instr :=
  match sel 0 5 w with
  | 0 => if sel 5 15 w = 0 then some (.spawn (field 20 6 w)) else none
  | 1 => if sel 5 15 w = 0 then some (.fork (field 20 6 w)) else none
  | 2 => if sel 5 15 w = 0 then some (.joinc (field 20 6 w)) else none
  | 3 => if sel 5 9 w = 0 then some (.launch (field 20 6 w) (field 14 6 w)) else none
  | 4 => if sel 5 21 w = 0 then some (.exit) else none
  | 5 => if sel 5 21 w = 0 then some (.yield) else none
  | _ => none

/-- Major 0x1B, PIPE (R79). -/
def decodeMajor1B (w : Word) : Option Instr :=
  match sel 0 5 w with
  | 0 => if sel 5 9 w = 0 then some (.pipedecl (field 20 6 w) (field 14 6 w)) else none
  | 1 => if sel 5 9 w = 0 then some (.pipego (field 20 6 w) (field 14 6 w)) else none
  | 2 => if sel 6 8 w = 0 then some (.pipewait (field 20 6 w) (field 14 6 w) (field 5 1 w)) else none
  | _ => none

/-- Major 0x1C, VIEW/LANE (R79). With sel 3 the bases come from a register, g0 too (R167). -/
def decodeMajor1C (w : Word) : Option Instr :=
  match sel 0 5 w with
  | 0 => if sel 5 15 w = 24576 then some (.viewRegister (field 20 6 w)) else if sel 20 6 w = 0 ∧ sel 5 3 w = 0 then some (.view (field 18 2 w) (field 8 10 w)) else none
  | 1 => if sel 15 5 w = 0 ∧ sel 5 3 w = 0 then some (.lclaim (field 20 6 w) (field 8 7 w)) else if sel 5 15 w = 16384 then some (.lclaimRegister (field 20 6 w)) else none
  | 2 => if sel 5 15 w = 0 then some (.lrn (field 20 6 w)) else none
  | 3 => if sel 5 21 w = 0 then some (.lyield) else none
  | _ => none

/-- Major 0x1D, CPY (R79). -/
def decodeMajor1D (w : Word) : Option Instr :=
  match sel 0 5 w with
  | 0 => if sel 5 9 w = 0 then some (.cpy (field 20 6 w) (field 14 6 w)) else none
  | 1 => if sel 5 3 w = 0 then some (.cpyt (field 20 6 w) (field 14 6 w) (field 8 6 w)) else if sel 5 3 w = 1 then some (.cpytSet (field 20 6 w) (field 14 6 w) (field 8 6 w)) else none
  | 2 => if sel 12 2 w = 0 ∧ sel 5 3 w = 0 then some (.cpyd (field 20 6 w) (field 14 6 w) (field 8 4 w)) else none
  | 3 => if sel 5 9 w = 0 then some (.cpys (field 20 6 w) (field 14 6 w)) else none
  | _ => none

/-- Major 0x1E, RC (R79). -/
def decodeMajor1E (w : Word) : Option Instr :=
  match sel 0 5 w with
  | 0 => if sel 6 2 w = 0 then some (.rcall (field 20 6 w) (field 14 6 w) (field 8 6 w) (field 5 1 w)) else none
  | 1 => if sel 11 15 w = 0 ∧ sel 5 3 w = 0 then some (.rret (field 8 3 w)) else none
  | _ => none

/-- Major 0x1F, SYS (R79). -/
def decodeMajor1F (w : Word) : Option Instr :=
  match sel 0 5 w with
  | 0 => if sel 5 3 w = 0 then some (.trap (field 20 6 w) (field 8 12 w)) else none
  | 1 => if sel 5 21 w = 0 then some (.eret) else none
  | 2 => if sel 5 3 w = 0 then some (.sysr (field 20 6 w) (field 8 12 w)) else none
  | 3 => if sel 5 3 w = 0 then some (.sysw (field 20 6 w) (field 8 12 w)) else none
  | 4 => if sel 5 21 w = 0 then some (.nop) else none
  | 5 => if sel 20 6 w = 0 ∧ sel 5 3 w = 0 then some (.brk (field 8 12 w)) else none
  | 6 => if sel 5 21 w = 0 then some (.canck) else none
  | 7 => if sel 5 21 w = 0 then some (.halt) else none
  | _ => none

/-- Major 0x20, VINT (R79). -/
def decodeMajor20 (w : Word) : Option Instr :=
  match sel 0 4 w with
  | 0 => some (.vadd (field 21 5 w) (field 16 5 w) (field 11 5 w) (field 8 3 w) (field 5 3 w) (field 4 1 w))
  | 1 => some (.vsub (field 21 5 w) (field 16 5 w) (field 11 5 w) (field 8 3 w) (field 5 3 w) (field 4 1 w))
  | 2 => some (.vmul (field 21 5 w) (field 16 5 w) (field 11 5 w) (field 8 3 w) (field 5 3 w) (field 4 1 w))
  | 3 => if sel 4 1 w = 0 then some (.vmulh (field 21 5 w) (field 16 5 w) (field 11 5 w) (field 8 3 w) (field 5 3 w)) else none
  | 4 => if sel 4 1 w = 0 then some (.vmin (field 21 5 w) (field 16 5 w) (field 11 5 w) (field 8 3 w) (field 5 3 w)) else none
  | 5 => if sel 4 1 w = 0 then some (.vmax (field 21 5 w) (field 16 5 w) (field 11 5 w) (field 8 3 w) (field 5 3 w)) else none
  | 6 => if sel 4 1 w = 0 then some (.vminn (field 21 5 w) (field 16 5 w) (field 11 5 w) (field 8 3 w) (field 5 3 w)) else none
  | 7 => if sel 4 1 w = 0 then some (.vmaxn (field 21 5 w) (field 16 5 w) (field 11 5 w) (field 8 3 w) (field 5 3 w)) else none
  | 8 => if sel 4 1 w = 0 then some (.vand (field 21 5 w) (field 16 5 w) (field 11 5 w) (field 8 3 w) (field 5 3 w)) else none
  | 9 => if sel 4 1 w = 0 then some (.vor (field 21 5 w) (field 16 5 w) (field 11 5 w) (field 8 3 w) (field 5 3 w)) else none
  | 10 => if sel 4 1 w = 0 then some (.vxor (field 21 5 w) (field 16 5 w) (field 11 5 w) (field 8 3 w) (field 5 3 w)) else none
  | 11 => if sel 4 1 w = 0 then some (.vshl (field 21 5 w) (field 16 5 w) (field 11 5 w) (field 8 3 w) (field 5 3 w)) else none
  | 12 => if sel 4 1 w = 0 then some (.vshr (field 21 5 w) (field 16 5 w) (field 11 5 w) (field 8 3 w) (field 5 3 w)) else none
  | 13 => if sel 4 1 w = 0 then some (.vsar (field 21 5 w) (field 16 5 w) (field 11 5 w) (field 8 3 w) (field 5 3 w)) else none
  | 14 => if sel 11 5 w = 0 then some (.vabs (field 21 5 w) (field 16 5 w) (field 8 3 w) (field 5 3 w) (field 4 1 w)) else none
  | _ => none

/-- Major 0x21, VFP (R79). -/
def decodeMajor21 (w : Word) : Option Instr :=
  match sel 0 4 w with
  | 0 => some (.vfadd (field 21 5 w) (field 16 5 w) (field 11 5 w) (field 8 3 w) (field 5 3 w) (field 4 1 w))
  | 1 => some (.vfsub (field 21 5 w) (field 16 5 w) (field 11 5 w) (field 8 3 w) (field 5 3 w) (field 4 1 w))
  | 2 => some (.vfmul (field 21 5 w) (field 16 5 w) (field 11 5 w) (field 8 3 w) (field 5 3 w) (field 4 1 w))
  | 3 => some (.vfma (field 21 5 w) (field 16 5 w) (field 11 5 w) (field 8 3 w) (field 5 3 w) (field 4 1 w))
  | 4 => some (.vfms (field 21 5 w) (field 16 5 w) (field 11 5 w) (field 8 3 w) (field 5 3 w) (field 4 1 w))
  | 5 => some (.vfnma (field 21 5 w) (field 16 5 w) (field 11 5 w) (field 8 3 w) (field 5 3 w) (field 4 1 w))
  | 6 => if sel 4 1 w = 0 then some (.vfmin (field 21 5 w) (field 16 5 w) (field 11 5 w) (field 8 3 w) (field 5 3 w)) else none
  | 7 => if sel 4 1 w = 0 then some (.vfmax (field 21 5 w) (field 16 5 w) (field 11 5 w) (field 8 3 w) (field 5 3 w)) else none
  | 8 => some (.vfdiv (field 21 5 w) (field 16 5 w) (field 11 5 w) (field 8 3 w) (field 5 3 w) (field 4 1 w))
  | 9 => if sel 11 5 w = 0 then some (.vfsqrt (field 21 5 w) (field 16 5 w) (field 8 3 w) (field 5 3 w) (field 4 1 w)) else none
  | 10 => if sel 11 5 w = 0 ∧ sel 4 1 w = 0 then some (.vfabs (field 21 5 w) (field 16 5 w) (field 8 3 w) (field 5 3 w)) else none
  | 11 => if sel 11 5 w = 0 ∧ sel 4 1 w = 0 then some (.vfneg (field 21 5 w) (field 16 5 w) (field 8 3 w) (field 5 3 w)) else none
  | 12 => if sel 11 5 w = 0 ∧ sel 4 1 w = 0 then some (.vfclass (field 21 5 w) (field 16 5 w) (field 8 3 w) (field 5 3 w)) else none
  | _ => none

/-- Major 0x22, VCMP (R79). -/
def decodeMajor22 (w : Word) : Option Instr :=
  match sel 0 4 w with
  | 0 => if sel 4 1 w = 0 then some (.vceq (field 21 5 w) (field 16 5 w) (field 11 5 w) (field 8 3 w) (field 5 3 w)) else none
  | 1 => if sel 4 1 w = 0 then some (.vcne (field 21 5 w) (field 16 5 w) (field 11 5 w) (field 8 3 w) (field 5 3 w)) else none
  | 2 => if sel 4 1 w = 0 then some (.vclt (field 21 5 w) (field 16 5 w) (field 11 5 w) (field 8 3 w) (field 5 3 w)) else none
  | 3 => if sel 4 1 w = 0 then some (.vcle (field 21 5 w) (field 16 5 w) (field 11 5 w) (field 8 3 w) (field 5 3 w)) else none
  | 4 => if sel 4 1 w = 0 then some (.vfceq (field 21 5 w) (field 16 5 w) (field 11 5 w) (field 8 3 w) (field 5 3 w)) else none
  | 5 => if sel 4 1 w = 0 then some (.vfclt (field 21 5 w) (field 16 5 w) (field 11 5 w) (field 8 3 w) (field 5 3 w)) else none
  | 6 => if sel 4 1 w = 0 then some (.vfcle (field 21 5 w) (field 16 5 w) (field 11 5 w) (field 8 3 w) (field 5 3 w)) else none
  | 7 => if sel 4 7 w = 0 then some (.kand (field 21 5 w) (field 16 5 w) (field 11 5 w)) else none
  | 8 => if sel 4 7 w = 0 then some (.kor (field 21 5 w) (field 16 5 w) (field 11 5 w)) else none
  | 9 => if sel 4 7 w = 0 then some (.kxor (field 21 5 w) (field 16 5 w) (field 11 5 w)) else none
  | 10 => if sel 4 12 w = 0 then some (.knot (field 21 5 w) (field 16 5 w)) else none
  | 11 => if sel 4 12 w = 0 then some (.kpop (field 21 5 w) (field 16 5 w)) else none
  | 12 => if sel 4 12 w = 0 then some (.kfirst (field 21 5 w) (field 16 5 w)) else none
  | 13 => if sel 4 12 w = 0 then some (.kmovK (field 21 5 w) (field 16 5 w)) else if sel 4 12 w = 2 then some (.kmovG (field 21 5 w) (field 16 5 w)) else if sel 4 12 w = 4 then some (.kmovKg (field 21 5 w) (field 16 5 w)) else none
  | _ => none

/-- Major 0x23, VPERM (R79). -/
def decodeMajor23 (w : Word) : Option Instr :=
  match sel 0 4 w with
  | 0 => if sel 11 5 w = 0 ∧ sel 4 1 w = 0 then some (.vbcast (field 21 5 w) (field 16 5 w) (field 8 3 w) (field 5 3 w)) else if sel 16 5 w = 0 ∧ sel 4 1 w = 1 then some (.vbcastConstant (field 21 5 w) (field 10 6 w) (field 8 2 w) (field 5 3 w)) else none
  | 1 => if sel 4 1 w = 0 then some (.vslideup (field 21 5 w) (field 16 5 w) (field 11 5 w) (field 8 3 w) (field 5 3 w)) else none
  | 2 => if sel 4 1 w = 0 then some (.vslidedn (field 21 5 w) (field 16 5 w) (field 11 5 w) (field 8 3 w) (field 5 3 w)) else none
  | 3 => if sel 4 1 w = 0 then some (.vperm (field 21 5 w) (field 16 5 w) (field 11 5 w) (field 8 3 w) (field 5 3 w)) else none
  | 4 => if sel 11 5 w = 0 ∧ sel 4 1 w = 0 then some (.vcomp (field 21 5 w) (field 16 5 w) (field 8 3 w) (field 5 3 w)) else none
  | 5 => if sel 11 5 w = 0 ∧ sel 4 1 w = 0 then some (.vexpd (field 21 5 w) (field 16 5 w) (field 8 3 w) (field 5 3 w)) else none
  | 6 => if sel 4 1 w = 0 then some (.vmerge (field 21 5 w) (field 16 5 w) (field 11 5 w) (field 8 3 w) (field 5 3 w)) else none
  | 7 => if sel 11 5 w = 0 ∧ sel 4 1 w = 0 then some (.vmov (field 21 5 w) (field 16 5 w) (field 8 3 w) (field 5 3 w)) else none
  | 8 => if sel 8 3 w = 0 ∧ sel 4 1 w = 0 then some (.vextr (field 21 5 w) (field 16 5 w) (field 11 5 w) (field 5 3 w)) else none
  | 9 => if sel 4 1 w = 0 then some (.vins (field 21 5 w) (field 16 5 w) (field 11 5 w) (field 8 3 w) (field 5 3 w)) else none
  | _ => none

/-- Major 0x24, VRED (R79). -/
def decodeMajor24 (w : Word) : Option Instr :=
  match sel 0 5 w with
  | 0 => if sel 11 5 w = 0 then some (.vrsum (field 21 5 w) (field 16 5 w) (field 8 3 w) (field 5 3 w)) else none
  | 1 => if sel 11 5 w = 0 then some (.vrtsum (field 21 5 w) (field 16 5 w) (field 8 3 w) (field 5 3 w)) else none
  | 2 => if sel 11 5 w = 0 then some (.vrmax (field 21 5 w) (field 16 5 w) (field 8 3 w) (field 5 3 w)) else none
  | 3 => if sel 11 5 w = 0 then some (.vrmin (field 21 5 w) (field 16 5 w) (field 8 3 w) (field 5 3 w)) else none
  | _ => none

/-- Major 0x25, VCVT (R79). -/
def decodeMajor25 (w : Word) : Option Instr :=
  match sel 0 2 w with
  | 0 => some (.vcvt (field 21 5 w) (field 16 5 w) (field 15 1 w) (field 11 4 w) (field 8 3 w) (field 5 3 w) (field 2 3 w))
  | 1 => some (.vpack (field 21 5 w) (field 16 5 w) (field 11 5 w) (field 8 3 w) (field 5 3 w) (field 2 3 w))
  | 2 => if sel 15 1 w = 0 ∧ sel 2 3 w = 0 then some (.vunpk (field 21 5 w) (field 16 5 w) (field 13 2 w) (field 12 1 w) (field 11 1 w) (field 8 3 w) (field 5 3 w)) else none
  | _ => none

/-- Major 0x26, VMEM (R79). -/
def decodeMajor26 (w : Word) : Option Instr :=
  match sel 0 5 w with
  | 0 => some (.vld (field 21 5 w) (field 16 5 w) (field 11 5 w) (field 8 3 w) (field 5 3 w))
  | 1 => some (.vst (field 21 5 w) (field 16 5 w) (field 11 5 w) (field 8 3 w) (field 5 3 w))
  | 2 => some (.vlds (field 21 5 w) (field 16 5 w) (field 11 5 w) (field 8 3 w) (field 5 3 w))
  | 3 => some (.vsts (field 21 5 w) (field 16 5 w) (field 11 5 w) (field 8 3 w) (field 5 3 w))
  | 4 => some (.vldx (field 21 5 w) (field 16 5 w) (field 11 5 w) (field 8 3 w) (field 5 3 w))
  | 5 => some (.vstx (field 21 5 w) (field 16 5 w) (field 11 5 w) (field 8 3 w) (field 5 3 w))
  | 6 => some (.vstxc (field 21 5 w) (field 16 5 w) (field 11 5 w) (field 8 3 w) (field 5 3 w))
  | _ => none

/-- Major 0x27, VSPEC (R79). -/
def decodeMajor27 (w : Word) : Option Instr :=
  match sel 0 5 w with
  | 0 => if sel 5 6 w = 0 then some (.vtild (field 21 5 w) (field 16 5 w) (field 11 5 w)) else none
  | 1 => some (.vti (field 21 5 w) (field 16 5 w) (field 11 5 w) (field 8 3 w) (field 5 3 w))
  | 2 => some (.visect (field 21 5 w) (field 16 5 w) (field 11 5 w) (field 8 3 w) (field 5 3 w))
  | _ => none

/-- Major 0x28, MX (R79). -/
def decodeMajor28 (w : Word) : Option Instr :=
  match sel 0 5 w with
  | 0 => if sel 5 15 w = 0 then some (.mxcfg (field 20 6 w)) else none
  | 1 => if sel 20 6 w = 0 ∧ sel 5 9 w = 0 then some (.mxgo (field 14 6 w)) else none
  | 2 => if sel 13 13 w = 0 ∧ sel 5 3 w = 0 then some (.mxz (field 11 2 w) (field 8 3 w)) else none
  | 3 => if sel 5 9 w = 0 then some (.mxrd (field 20 6 w) (field 14 6 w)) else none
  | 4 => if sel 5 15 w = 0 then some (.mxwr (field 20 6 w)) else none
  | 5 => if sel 12 14 w = 0 ∧ sel 5 3 w = 0 then some (.mxsp (field 8 4 w)) else none
  | 6 => if sel 5 9 w = 0 then some (.mxrectForm (field 20 6 w) (field 14 6 w)) else if sel 5 9 w = 1 then some (.mxrectFree (field 20 6 w) (field 14 6 w)) else none
  | _ => none

/-- Major 0x29, OPM (R79). -/
def decodeMajor29 (w : Word) : Option Instr :=
  match sel 0 5 w with
  | 0 => if sel 20 6 w = 0 ∧ sel 5 3 w = 0 then some (.oclaim (field 14 6 w) (field 8 6 w)) else none
  | 1 => if sel 5 15 w = 0 then some (.orel (field 20 6 w)) else none
  | 2 => if sel 5 9 w = 0 then some (.ofill (field 20 6 w) (field 14 6 w)) else none
  | 3 => if sel 11 15 w = 0 ∧ sel 5 3 w = 0 then some (.semp (field 8 3 w)) else none
  | 4 => if sel 11 15 w = 0 ∧ sel 5 3 w = 0 then some (.semv (field 8 3 w)) else none
  | _ => none

/-- Major 0x2A, QNT (R79). -/
def decodeMajor2A (w : Word) : Option Instr :=
  match sel 0 5 w with
  | 0 => if sel 6 8 w = 0 then some (.qnt (field 20 6 w) (field 14 6 w) (field 5 1 w)) else none
  | _ => none

/-- Major 0x2B, PLAS (R79). -/
def decodeMajor2B (w : Word) : Option Instr :=
  match sel 0 5 w with
  | 0 => if sel 12 8 w = 0 then some (.trc (field 20 6 w) (field 8 4 w) (field 5 3 w)) else none
  | 1 => if sel 12 2 w = 0 ∧ sel 6 2 w = 0 then some (.reward (field 20 6 w) (field 14 6 w) (field 8 4 w) (field 5 1 w)) else none
  | 2 => if sel 12 2 w = 0 ∧ sel 5 3 w = 0 then some (.plreg (field 20 6 w) (field 14 6 w) (field 8 4 w)) else none
  | 3 => if sel 12 2 w = 0 ∧ sel 5 3 w = 0 then some (.pldrop (field 20 6 w) (field 14 6 w) (field 8 4 w)) else none
  | _ => none

/-- Major 0x2C, EVT (R79). -/
def decodeMajor2C (w : Word) : Option Instr :=
  match sel 0 5 w with
  | 0 => if sel 6 14 w = 0 then some (.evsend (field 20 6 w) (field 5 1 w)) else none
  | 1 => if sel 20 6 w = 0 ∧ sel 5 9 w = 0 then some (.waitev (field 14 6 w)) else none
  | 2 => if sel 5 9 w = 0 then some (.stepadv (field 20 6 w) (field 14 6 w)) else none
  | 3 => if sel 5 15 w = 0 then some (.nrn (field 20 6 w)) else none
  | 4 => if sel 5 9 w = 0 then some (.dring (field 20 6 w) (field 14 6 w)) else none
  | _ => none

/-- Major 0x2D, DQ (R79). -/
def decodeMajor2D (w : Word) : Option Instr :=
  match sel 0 5 w with
  | 0 => if sel 5 9 w = 0 then some (.dqdecl (field 20 6 w) (field 14 6 w)) else none
  | 1 => if sel 5 3 w = 0 then some (.dqpush (field 20 6 w) (field 14 6 w) (field 8 6 w)) else none
  | 2 => if sel 5 3 w = 0 then some (.dqpop (field 20 6 w) (field 14 6 w) (field 8 6 w)) else none
  | 3 => if sel 20 6 w = 0 ∧ sel 5 3 w = 0 then some (.dqcons (field 14 6 w) (field 8 6 w)) else none
  | 4 => if sel 5 3 w = 0 then some (.dqarr (field 20 6 w) (field 14 6 w) (field 8 6 w)) else none
  | 5 => if sel 14 6 w = 0 ∧ sel 5 3 w = 0 then some (.dqlook (field 20 6 w) (field 8 6 w)) else none
  | 6 => if sel 5 3 w = 0 then some (.dqjoin (field 20 6 w) (field 14 6 w) (field 8 6 w)) else none
  | 7 => if sel 5 3 w = 0 then some (.dqclose (field 20 6 w) (field 14 6 w) (field 8 6 w)) else none
  | 8 => if sel 20 6 w = 0 ∧ sel 5 3 w = 0 then some (.dqfront (field 14 6 w) (field 8 6 w)) else none
  | _ => none

/-- One 32-bit word that is not an X word, by its major (R79). `none` is a word of R82: an unassigned major, a reserved
selector, or a nonzero unused field. Field values that an entry reserves are refused by `legal`. -/
def decodeWord (w : Word) : Option Instr :=
  match sel 26 6 w with
  | 0x01 => decodeMajor01 w
  | 0x02 => decodeMajor02 w
  | 0x03 => decodeMajor03 w
  | 0x04 => decodeMajor04 w
  | 0x05 => decodeMajor05 w
  | 0x06 => decodeMajor06 w
  | 0x07 => decodeMajor07 w
  | 0x08 => decodeMajor08 w
  | 0x09 => decodeMajor09 w
  | 0x0A => decodeMajor0A w
  | 0x0B => decodeMajor0B w
  | 0x0C => decodeMajor0C w
  | 0x0D => decodeMajor0D w
  | 0x0E => decodeMajor0E w
  | 0x0F => decodeMajor0F w
  | 0x10 => decodeMajor10 w
  | 0x11 => decodeMajor11 w
  | 0x12 => decodeMajor12 w
  | 0x13 => decodeMajor13 w
  | 0x14 => decodeMajor14 w
  | 0x15 => decodeMajor15 w
  | 0x16 => decodeMajor16 w
  | 0x17 => decodeMajor17 w
  | 0x18 => decodeMajor18 w
  | 0x19 => decodeMajor19 w
  | 0x1A => decodeMajor1A w
  | 0x1B => decodeMajor1B w
  | 0x1C => decodeMajor1C w
  | 0x1D => decodeMajor1D w
  | 0x1E => decodeMajor1E w
  | 0x1F => decodeMajor1F w
  | 0x20 => decodeMajor20 w
  | 0x21 => decodeMajor21 w
  | 0x22 => decodeMajor22 w
  | 0x23 => decodeMajor23 w
  | 0x24 => decodeMajor24 w
  | 0x25 => decodeMajor25 w
  | 0x26 => decodeMajor26 w
  | 0x27 => decodeMajor27 w
  | 0x28 => decodeMajor28 w
  | 0x29 => decodeMajor29 w
  | 0x2A => decodeMajor2A w
  | 0x2B => decodeMajor2B w
  | 0x2C => decodeMajor2C w
  | 0x2D => decodeMajor2D w
  | _ => none

/-- The pair of an X word with extension `e` and the instruction of the word after it (R78, R132): only LI, LIH, LEA and
ALUI words accept an X word, and a shift accepts only the extension 0. -/
def withExt (e : BitVec 26) : Instr → Option Instr
  | .addi d a i => some (.addiX d a i e)
  | .andi d a i => some (.andiX d a i e)
  | .ori d a i => some (.oriX d a i e)
  | .xori d a i => some (.xoriX d a i e)
  | .shli d a s => if e = 0 then some (.shliX d a s) else none
  | .shri d a s => if e = 0 then some (.shriX d a s) else none
  | .sari d a s => if e = 0 then some (.sariX d a s) else none
  | .slti d a i => some (.sltiX d a i e)
  | .sltni d a i => some (.sltniX d a i e)
  | .muli d a i => some (.muliX d a i e)
  | .li d i => some (.liX d i e)
  | .lih d i => some (.lihX d i e)
  | .lea d a i => some (.leaX d a i e)
  | _ => none

/-- Why the decoder refuses bytes (R82): each is an illegal instruction, cause 0x01. -/
inductive Reject where
  /-- A word of no instruction: unassigned major, reserved selector, nonzero unused field. -/
  | notAnInstruction (w : Word)
  /-- An X word before a word that accepts none, or at the end of the bytes (R78). -/
  | misplacedX (w : Word)
  /-- Fewer than four bytes. -/
  | truncated
  deriving DecidableEq, Repr

/-- A decoded instruction with its length in bytes: 4, or 8 for an X pair. -/
structure Decoded where
  instr : Instr
  len : Nat
  deriving DecidableEq, Repr

/-- The little-endian word at the front of four bytes (R8). -/
def wordOfBytes (b0 b1 b2 b3 : Byte) : Word :=
  BitVec.ofNat 32 (b0.toNat + b1.toNat * 2 ^ 8 + b2.toNat * 2 ^ 16 + b3.toNat * 2 ^ 24)

/-- Decode one word with the word after it, where there is one (R78). -/
def decodeWords (w : Word) (next : Option Word) : Except Reject Decoded :=
  if sel 26 6 w = 0x3E then
    match next.bind decodeWord with
    | some i =>
      match withExt (field 0 26 w) i with
      | some p => .ok ⟨p, 8⟩
      | none => .error (.misplacedX w)
    | none => .error (.misplacedX w)
  else
    match decodeWord w with
    | some i => .ok ⟨i, 4⟩
    | none => .error (.notAnInstruction w)

/-- The decoder: the instruction at the front of some bytes, or the name of the reason why there is none. -/
def decode : List Byte → Except Reject Decoded
  | b0 :: b1 :: b2 :: b3 :: rest =>
    decodeWords (wordOfBytes b0 b1 b2 b3)
      (match rest with
      | c0 :: c1 :: c2 :: c3 :: _ => some (wordOfBytes c0 c1 c2 c3)
      | _ => none)
  | _ => .error .truncated

/-- The bytes of a number, least significant first (R8). -/
def bytesOf : Nat → Nat → List Byte
  | 0, _ => []
  | k + 1, n => BitVec.ofNat 8 n :: bytesOf k (n / 2 ^ 8)

/-- The instruction the decoder reads from an instruction whose bits are `w`, numbered as spec/opcode_table.json numbers
them; the bits above `nbits`, up to the longest instruction of 8 bytes, are 0. -/
def decodeTableWord (nbits w : Nat) : Option Instr :=
  match decode (bytesOf 8 (w % 2 ^ nbits)) with
  | .ok d => some d.instr
  | .error _ => none

/-- The word with the fixed bits `m` and 0 fields (R76). -/
def word0 (m : Nat) : Word :=
  BitVec.ofNat 32 (m)

/-- The word with the fixed bits `m` and 1 field, each at its lowest bit (R76). -/
def word1 {n1 : Nat} (m : Nat) (l1 : Nat) (x1 : BitVec n1) : Word :=
  BitVec.ofNat 32 (m + x1.toNat * 2 ^ l1)

/-- The word with the fixed bits `m` and 2 fields, each at its lowest bit (R76). -/
def word2 {n1 n2 : Nat} (m : Nat) (l1 : Nat) (x1 : BitVec n1) (l2 : Nat) (x2 : BitVec n2) : Word :=
  BitVec.ofNat 32 (m + x1.toNat * 2 ^ l1 + x2.toNat * 2 ^ l2)

/-- The word with the fixed bits `m` and 3 fields, each at its lowest bit (R76). -/
def word3 {n1 n2 n3 : Nat} (m : Nat) (l1 : Nat) (x1 : BitVec n1) (l2 : Nat) (x2 : BitVec n2) (l3 : Nat) (x3 : BitVec n3) : Word :=
  BitVec.ofNat 32 (m + x1.toNat * 2 ^ l1 + x2.toNat * 2 ^ l2 + x3.toNat * 2 ^ l3)

/-- The word with the fixed bits `m` and 4 fields, each at its lowest bit (R76). -/
def word4 {n1 n2 n3 n4 : Nat} (m : Nat) (l1 : Nat) (x1 : BitVec n1) (l2 : Nat) (x2 : BitVec n2) (l3 : Nat) (x3 : BitVec n3) (l4 : Nat) (x4 : BitVec n4) : Word :=
  BitVec.ofNat 32 (m + x1.toNat * 2 ^ l1 + x2.toNat * 2 ^ l2 + x3.toNat * 2 ^ l3 + x4.toNat * 2 ^ l4)

/-- The word with the fixed bits `m` and 5 fields, each at its lowest bit (R76). -/
def word5 {n1 n2 n3 n4 n5 : Nat} (m : Nat) (l1 : Nat) (x1 : BitVec n1) (l2 : Nat) (x2 : BitVec n2) (l3 : Nat) (x3 : BitVec n3) (l4 : Nat) (x4 : BitVec n4) (l5 : Nat) (x5 : BitVec n5) : Word :=
  BitVec.ofNat 32 (m + x1.toNat * 2 ^ l1 + x2.toNat * 2 ^ l2 + x3.toNat * 2 ^ l3 + x4.toNat * 2 ^ l4 + x5.toNat * 2 ^ l5)

/-- The word with the fixed bits `m` and 6 fields, each at its lowest bit (R76). -/
def word6 {n1 n2 n3 n4 n5 n6 : Nat} (m : Nat) (l1 : Nat) (x1 : BitVec n1) (l2 : Nat) (x2 : BitVec n2) (l3 : Nat) (x3 : BitVec n3) (l4 : Nat) (x4 : BitVec n4) (l5 : Nat) (x5 : BitVec n5) (l6 : Nat) (x6 : BitVec n6) : Word :=
  BitVec.ofNat 32 (m + x1.toNat * 2 ^ l1 + x2.toNat * 2 ^ l2 + x3.toNat * 2 ^ l3 + x4.toNat * 2 ^ l4 + x5.toNat * 2 ^ l5 + x6.toNat * 2 ^ l6)

/-- The word with the fixed bits `m` and 7 fields, each at its lowest bit (R76). -/
def word7 {n1 n2 n3 n4 n5 n6 n7 : Nat} (m : Nat) (l1 : Nat) (x1 : BitVec n1) (l2 : Nat) (x2 : BitVec n2) (l3 : Nat) (x3 : BitVec n3) (l4 : Nat) (x4 : BitVec n4) (l5 : Nat) (x5 : BitVec n5) (l6 : Nat) (x6 : BitVec n6) (l7 : Nat) (x7 : BitVec n7) : Word :=
  BitVec.ofNat 32 (m + x1.toNat * 2 ^ l1 + x2.toNat * 2 ^ l2 + x3.toNat * 2 ^ l3 + x4.toNat * 2 ^ l4 + x5.toNat * 2 ^ l5 + x6.toNat * 2 ^ l6 + x7.toNat * 2 ^ l7)

/-- The word of an instruction with an encoding; for an X pair, its second word. Each line is the word value that the
instruction's entry gives (R129 to R372). `none` for an event of the part, which no word encodes. -/
def encodeWord : Instr → Option Word
  | .add d a b w c => some (word5 0x04000000 20 d 14 a 8 b 7 w 6 c)
  | .sub d a b w c => some (word5 0x04000001 20 d 14 a 8 b 7 w 6 c)
  | .mul d a b w c => some (word5 0x04000002 20 d 14 a 8 b 7 w 6 c)
  | .mulh d a b w c => some (word5 0x04000003 20 d 14 a 8 b 7 w 6 c)
  | .mulhn d a b w c => some (word5 0x04000004 20 d 14 a 8 b 7 w 6 c)
  | .madd d a b w c => some (word5 0x04000005 20 d 14 a 8 b 7 w 6 c)
  | .div d a b w c => some (word5 0x04000006 20 d 14 a 8 b 7 w 6 c)
  | .divn d a b w c => some (word5 0x04000007 20 d 14 a 8 b 7 w 6 c)
  | .rem d a b w c => some (word5 0x04000008 20 d 14 a 8 b 7 w 6 c)
  | .remn d a b w c => some (word5 0x04000009 20 d 14 a 8 b 7 w 6 c)
  | .and d a b w c => some (word5 0x0400000A 20 d 14 a 8 b 7 w 6 c)
  | .or d a b w c => some (word5 0x0400000B 20 d 14 a 8 b 7 w 6 c)
  | .xor d a b w c => some (word5 0x0400000C 20 d 14 a 8 b 7 w 6 c)
  | .andn d a b w c => some (word5 0x0400000D 20 d 14 a 8 b 7 w 6 c)
  | .shl d a b w c => some (word5 0x0400000E 20 d 14 a 8 b 7 w 6 c)
  | .shr d a b w c => some (word5 0x0400000F 20 d 14 a 8 b 7 w 6 c)
  | .sar d a b w c => some (word5 0x04000010 20 d 14 a 8 b 7 w 6 c)
  | .rol d a b w c => some (word5 0x04000011 20 d 14 a 8 b 7 w 6 c)
  | .min d a b w c => some (word5 0x04000012 20 d 14 a 8 b 7 w 6 c)
  | .max d a b w c => some (word5 0x04000013 20 d 14 a 8 b 7 w 6 c)
  | .minn d a b w c => some (word5 0x04000014 20 d 14 a 8 b 7 w 6 c)
  | .maxn d a b w c => some (word5 0x04000015 20 d 14 a 8 b 7 w 6 c)
  | .slt d a b w c => some (word5 0x04000016 20 d 14 a 8 b 7 w 6 c)
  | .sltn d a b w c => some (word5 0x04000017 20 d 14 a 8 b 7 w 6 c)
  | .seq d a b w c => some (word5 0x04000018 20 d 14 a 8 b 7 w 6 c)
  | .clz d a w => some (word3 0x04000019 20 d 14 a 7 w)
  | .ctz d a w => some (word3 0x0400001A 20 d 14 a 7 w)
  | .pop d a w => some (word3 0x0400001B 20 d 14 a 7 w)
  | .brev d a w => some (word3 0x0400001C 20 d 14 a 7 w)
  | .bswap d a w => some (word3 0x0400001D 20 d 14 a 7 w)
  | .sext d a b w c => some (word5 0x0400001E 20 d 14 a 8 b 7 w 6 c)
  | .zext d a b w c => some (word5 0x0400001F 20 d 14 a 8 b 7 w 6 c)
  | .sel d a b w c => some (word5 0x04000020 20 d 14 a 8 b 7 w 6 c)
  | .addi d a i => some (word3 0x08000000 20 d 14 a 0 i)
  | .andi d a i => some (word3 0x08000400 20 d 14 a 0 i)
  | .ori d a i => some (word3 0x08000800 20 d 14 a 0 i)
  | .xori d a i => some (word3 0x08000C00 20 d 14 a 0 i)
  | .shli d a s => some (word3 0x08001000 20 d 14 a 0 s)
  | .shri d a s => some (word3 0x08001400 20 d 14 a 0 s)
  | .sari d a s => some (word3 0x08001800 20 d 14 a 0 s)
  | .slti d a i => some (word3 0x08001C00 20 d 14 a 0 i)
  | .sltni d a i => some (word3 0x08002000 20 d 14 a 0 i)
  | .muli d a i => some (word3 0x08002400 20 d 14 a 0 i)
  | .addiX d a i _ => some (word3 0x08000000 20 d 14 a 0 i)
  | .andiX d a i _ => some (word3 0x08000400 20 d 14 a 0 i)
  | .oriX d a i _ => some (word3 0x08000800 20 d 14 a 0 i)
  | .xoriX d a i _ => some (word3 0x08000C00 20 d 14 a 0 i)
  | .shliX d a s => some (word3 0x08001000 20 d 14 a 0 s)
  | .shriX d a s => some (word3 0x08001400 20 d 14 a 0 s)
  | .sariX d a s => some (word3 0x08001800 20 d 14 a 0 s)
  | .sltiX d a i _ => some (word3 0x08001C00 20 d 14 a 0 i)
  | .sltniX d a i _ => some (word3 0x08002000 20 d 14 a 0 i)
  | .muliX d a i _ => some (word3 0x08002400 20 d 14 a 0 i)
  | .li d i => some (word2 0x0C000000 20 d 0 i)
  | .lih d i => some (word2 0x0C004000 20 d 0 i)
  | .liX d i _ => some (word2 0x0C000000 20 d 0 i)
  | .lihX d i _ => some (word2 0x0C004000 20 d 0 i)
  | .lea d a i => some (word3 0x10000000 20 d 14 a 0 i)
  | .leaX d a i _ => some (word3 0x10000000 20 d 14 a 0 i)
  | .beq a b o => some (word3 0x14000000 20 a 14 b 0 o)
  | .bne a b o => some (word3 0x18000000 20 a 14 b 0 o)
  | .blt a b o => some (word3 0x1C000000 20 a 14 b 0 o)
  | .bge a b o => some (word3 0x20000000 20 a 14 b 0 o)
  | .bltn a b o => some (word3 0x24000000 20 a 14 b 0 o)
  | .bgen a b o => some (word3 0x28000000 20 a 14 b 0 o)
  | .bez a o => some (word2 0x2C000000 20 a 0 o)
  | .bnz a o => some (word2 0x2C004000 20 a 0 o)
  | .j o => some (word1 0x30000000 0 o)
  | .call o => some (word1 0x34000000 0 o)
  | .jr a => some (word1 0x38000000 14 a)
  | .callr a => some (word1 0x38000001 14 a)
  | .ret => some (word0 0x38000002)
  | .loop r c a l => some (word4 0x3C000000 25 r 24 c 14 a 0 l)
  | .loopi r c n l => some (word4 0x3C100000 25 r 24 c 8 n 0 l)
  | .lbrk => some (word0 0x3C200000)
  | .rpt l n d a b v => some (word6 0x40000000 22 l 14 n 10 d 6 a 2 b 0 v)
  | .ld t b s x o => some (word5 0x44000000 20 t 14 b 12 s 11 x 0 o)
  | .st t b s o => some (word4 0x48000000 20 t 14 b 12 s 0 o)
  | .ldm t b c o => some (word4 0x4C003000 20 t 14 b 6 c 0 o)
  | .stm t b c o => some (word4 0x4C003800 20 t 14 b 6 c 0 o)
  | .ldfe t b o => some (word3 0x50000000 20 t 14 b 0 o)
  | .ldff t b o => some (word3 0x50000800 20 t 14 b 0 o)
  | .stfe t b o => some (word3 0x50001000 20 t 14 b 0 o)
  | .stf t b o => some (word3 0x50001800 20 t 14 b 0 o)
  | .waitw t b o => some (word3 0x50002000 20 t 14 b 0 o)
  | .aadd d a b w n o => some (word6 0x54000000 20 d 14 a 8 b 7 w 6 n 4 o)
  | .aand d a b w n o => some (word6 0x54000001 20 d 14 a 8 b 7 w 6 n 4 o)
  | .aor d a b w n o => some (word6 0x54000002 20 d 14 a 8 b 7 w 6 n 4 o)
  | .axor d a b w n o => some (word6 0x54000003 20 d 14 a 8 b 7 w 6 n 4 o)
  | .amin d a b w n o => some (word6 0x54000004 20 d 14 a 8 b 7 w 6 n 4 o)
  | .amax d a b w n o => some (word6 0x54000005 20 d 14 a 8 b 7 w 6 n 4 o)
  | .aminn d a b w n o => some (word6 0x54000006 20 d 14 a 8 b 7 w 6 n 4 o)
  | .amaxn d a b w n o => some (word6 0x54000007 20 d 14 a 8 b 7 w 6 n 4 o)
  | .aswp d a b w n o => some (word6 0x54000008 20 d 14 a 8 b 7 w 6 n 4 o)
  | .acas d a b w n o => some (word6 0x54000009 20 d 14 a 8 b 7 w 6 n 4 o)
  | .faadd d a b w n o => some (word6 0x5400000A 20 d 14 a 8 b 7 w 6 n 4 o)
  | .famin d a b w n o => some (word6 0x5400000B 20 d 14 a 8 b 7 w 6 n 4 o)
  | .famax d a b w n o => some (word6 0x5400000C 20 d 14 a 8 b 7 w 6 n 4 o)
  | .radd a b t => some (word3 0x58000000 14 a 8 b 0 t)
  | .fence r s => some (word2 0x5C000000 11 r 8 s)
  | .acq d => some (word1 0x5C000001 20 d)
  | .rel d => some (word1 0x5C000002 20 d)
  | .bind d => some (word1 0x5C000003 20 d)
  | .unbind d => some (word1 0x5C000004 20 d)
  | .phnew d m => some (word2 0x60000000 20 d 8 m)
  | .phjoin d m => some (word2 0x60000001 20 d 8 m)
  | .phleave d => some (word1 0x60000002 20 d)
  | .phsig d => some (word1 0x60000003 20 d)
  | .phwait d => some (word1 0x60000004 20 d)
  | .phnext d => some (word1 0x60000005 20 d)
  | .phfree d => some (word1 0x60000006 20 d)
  | .qsend f t => some (word2 0x64000000 20 f 14 t)
  | .qpeek f p => some (word2 0x64000001 20 f 8 p)
  | .msend f t n => some (word3 0x64000002 20 f 14 t 8 n)
  | .msendw f t n => some (word3 0x64000003 20 f 14 t 8 n)
  | .spawn f => some (word1 0x68000000 20 f)
  | .fork f => some (word1 0x68000001 20 f)
  | .joinc f => some (word1 0x68000002 20 f)
  | .launch f t => some (word2 0x68000003 20 f 14 t)
  | .exit => some (word0 0x68000004)
  | .yield => some (word0 0x68000005)
  | .pipedecl f t => some (word2 0x6C000000 20 f 14 t)
  | .pipego f t => some (word2 0x6C000001 20 f 14 t)
  | .pipewait f t x => some (word3 0x6C000002 20 f 14 t 5 x)
  | .view s b => if s = 3 ∧ b = 0 then none else some (word2 0x70000000 18 s 8 b)
  | .viewRegister d => some (word1 0x700C0000 20 d)
  | .lclaim d r => some (word2 0x70000001 20 d 8 r)
  | .lclaimRegister d => some (word1 0x70080001 20 d)
  | .lrn d => some (word1 0x70000002 20 d)
  | .lyield => some (word0 0x70000003)
  | .cpy f t => some (word2 0x74000000 20 f 14 t)
  | .cpyt f t p => some (word3 0x74000001 20 f 14 t 8 p)
  | .cpytSet f t p => some (word3 0x74000021 20 f 14 t 8 p)
  | .cpyd f t o => some (word3 0x74000002 20 f 14 t 8 o)
  | .cpys f t => some (word2 0x74000003 20 f 14 t)
  | .rcall f t n r => some (word4 0x78000000 20 f 14 t 8 n 5 r)
  | .rret m => some (word1 0x78000001 8 m)
  | .trap d c => some (word2 0x7C000000 20 d 8 c)
  | .eret => some (word0 0x7C000001)
  | .sysr d n => some (word2 0x7C000002 20 d 8 n)
  | .sysw d n => some (word2 0x7C000003 20 d 8 n)
  | .nop => some (word0 0x7C000004)
  | .brk c => some (word1 0x7C000005 8 c)
  | .canck => some (word0 0x7C000006)
  | .halt => some (word0 0x7C000007)
  | .vadd d a b k t s => some (word6 0x80000000 21 d 16 a 11 b 8 k 5 t 4 s)
  | .vsub d a b k t s => some (word6 0x80000001 21 d 16 a 11 b 8 k 5 t 4 s)
  | .vmul d a b k t s => some (word6 0x80000002 21 d 16 a 11 b 8 k 5 t 4 s)
  | .vmulh d a b k t => some (word5 0x80000003 21 d 16 a 11 b 8 k 5 t)
  | .vmin d a b k t => some (word5 0x80000004 21 d 16 a 11 b 8 k 5 t)
  | .vmax d a b k t => some (word5 0x80000005 21 d 16 a 11 b 8 k 5 t)
  | .vminn d a b k t => some (word5 0x80000006 21 d 16 a 11 b 8 k 5 t)
  | .vmaxn d a b k t => some (word5 0x80000007 21 d 16 a 11 b 8 k 5 t)
  | .vand d a b k t => some (word5 0x80000008 21 d 16 a 11 b 8 k 5 t)
  | .vor d a b k t => some (word5 0x80000009 21 d 16 a 11 b 8 k 5 t)
  | .vxor d a b k t => some (word5 0x8000000A 21 d 16 a 11 b 8 k 5 t)
  | .vshl d a b k t => some (word5 0x8000000B 21 d 16 a 11 b 8 k 5 t)
  | .vshr d a b k t => some (word5 0x8000000C 21 d 16 a 11 b 8 k 5 t)
  | .vsar d a b k t => some (word5 0x8000000D 21 d 16 a 11 b 8 k 5 t)
  | .vabs d a k t s => some (word5 0x8000000E 21 d 16 a 8 k 5 t 4 s)
  | .vfadd d a b k t s => some (word6 0x84000000 21 d 16 a 11 b 8 k 5 t 4 s)
  | .vfsub d a b k t s => some (word6 0x84000001 21 d 16 a 11 b 8 k 5 t 4 s)
  | .vfmul d a b k t s => some (word6 0x84000002 21 d 16 a 11 b 8 k 5 t 4 s)
  | .vfma d a b k t s => some (word6 0x84000003 21 d 16 a 11 b 8 k 5 t 4 s)
  | .vfms d a b k t s => some (word6 0x84000004 21 d 16 a 11 b 8 k 5 t 4 s)
  | .vfnma d a b k t s => some (word6 0x84000005 21 d 16 a 11 b 8 k 5 t 4 s)
  | .vfmin d a b k t => some (word5 0x84000006 21 d 16 a 11 b 8 k 5 t)
  | .vfmax d a b k t => some (word5 0x84000007 21 d 16 a 11 b 8 k 5 t)
  | .vfdiv d a b k t s => some (word6 0x84000008 21 d 16 a 11 b 8 k 5 t 4 s)
  | .vfsqrt d a k t s => some (word5 0x84000009 21 d 16 a 8 k 5 t 4 s)
  | .vfabs d a k t => some (word4 0x8400000A 21 d 16 a 8 k 5 t)
  | .vfneg d a k t => some (word4 0x8400000B 21 d 16 a 8 k 5 t)
  | .vfclass d a k t => some (word4 0x8400000C 21 d 16 a 8 k 5 t)
  | .vceq d a b k t => some (word5 0x88000000 21 d 16 a 11 b 8 k 5 t)
  | .vcne d a b k t => some (word5 0x88000001 21 d 16 a 11 b 8 k 5 t)
  | .vclt d a b k t => some (word5 0x88000002 21 d 16 a 11 b 8 k 5 t)
  | .vcle d a b k t => some (word5 0x88000003 21 d 16 a 11 b 8 k 5 t)
  | .vfceq d a b k t => some (word5 0x88000004 21 d 16 a 11 b 8 k 5 t)
  | .vfclt d a b k t => some (word5 0x88000005 21 d 16 a 11 b 8 k 5 t)
  | .vfcle d a b k t => some (word5 0x88000006 21 d 16 a 11 b 8 k 5 t)
  | .kand d a b => some (word3 0x88000007 21 d 16 a 11 b)
  | .kor d a b => some (word3 0x88000008 21 d 16 a 11 b)
  | .kxor d a b => some (word3 0x88000009 21 d 16 a 11 b)
  | .knot d a => some (word2 0x8800000A 21 d 16 a)
  | .kpop d a => some (word2 0x8800000B 21 d 16 a)
  | .kfirst d a => some (word2 0x8800000C 21 d 16 a)
  | .kmovK d a => some (word2 0x8800000D 21 d 16 a)
  | .kmovG d a => some (word2 0x8800002D 21 d 16 a)
  | .kmovKg d a => some (word2 0x8800004D 21 d 16 a)
  | .vbcast d a k t => some (word4 0x8C000000 21 d 16 a 8 k 5 t)
  | .vbcastConstant d c k t => some (word4 0x8C000010 21 d 10 c 8 k 5 t)
  | .vslideup d a b k t => some (word5 0x8C000001 21 d 16 a 11 b 8 k 5 t)
  | .vslidedn d a b k t => some (word5 0x8C000002 21 d 16 a 11 b 8 k 5 t)
  | .vperm d a b k t => some (word5 0x8C000003 21 d 16 a 11 b 8 k 5 t)
  | .vcomp d a k t => some (word4 0x8C000004 21 d 16 a 8 k 5 t)
  | .vexpd d a k t => some (word4 0x8C000005 21 d 16 a 8 k 5 t)
  | .vmerge d a b k t => some (word5 0x8C000006 21 d 16 a 11 b 8 k 5 t)
  | .vmov d a k t => some (word4 0x8C000007 21 d 16 a 8 k 5 t)
  | .vextr d a b t => some (word4 0x8C000008 21 d 16 a 11 b 5 t)
  | .vins d a b k t => some (word5 0x8C000009 21 d 16 a 11 b 8 k 5 t)
  | .vrsum d a k t => some (word4 0x90000000 21 d 16 a 8 k 5 t)
  | .vrtsum d a k t => some (word4 0x90000001 21 d 16 a 8 k 5 t)
  | .vrmax d a k t => some (word4 0x90000002 21 d 16 a 8 k 5 t)
  | .vrmin d a k t => some (word4 0x90000003 21 d 16 a 8 k 5 t)
  | .vcvt d a s e k t r => some (word7 0x94000000 21 d 16 a 15 s 11 e 8 k 5 t 2 r)
  | .vpack d a b k t r => some (word6 0x94000001 21 d 16 a 11 b 8 k 5 t 2 r)
  | .vunpk d a e z h k t => some (word7 0x94000002 21 d 16 a 13 e 12 z 11 h 8 k 5 t)
  | .vld d a b k t => some (word5 0x98000000 21 d 16 a 11 b 8 k 5 t)
  | .vst d a b k t => some (word5 0x98000001 21 d 16 a 11 b 8 k 5 t)
  | .vlds d a b k t => some (word5 0x98000002 21 d 16 a 11 b 8 k 5 t)
  | .vsts d a b k t => some (word5 0x98000003 21 d 16 a 11 b 8 k 5 t)
  | .vldx d a b k t => some (word5 0x98000004 21 d 16 a 11 b 8 k 5 t)
  | .vstx d a b k t => some (word5 0x98000005 21 d 16 a 11 b 8 k 5 t)
  | .vstxc d a b k t => some (word5 0x98000006 21 d 16 a 11 b 8 k 5 t)
  | .vtild d a b => some (word3 0x9C000000 21 d 16 a 11 b)
  | .vti d a b k t => some (word5 0x9C000001 21 d 16 a 11 b 8 k 5 t)
  | .visect d a b k t => some (word5 0x9C000002 21 d 16 a 11 b 8 k 5 t)
  | .mxcfg f => some (word1 0xA0000000 20 f)
  | .mxgo t => some (word1 0xA0000001 14 t)
  | .mxz y n => some (word2 0xA0000002 11 y 8 n)
  | .mxrd f t => some (word2 0xA0000003 20 f 14 t)
  | .mxwr f => some (word1 0xA0000004 20 f)
  | .mxsp s => some (word1 0xA0000005 8 s)
  | .mxrectForm f t => some (word2 0xA0000006 20 f 14 t)
  | .mxrectFree f t => some (word2 0xA0000026 20 f 14 t)
  | .oclaim t n => some (word2 0xA4000000 14 t 8 n)
  | .orel f => some (word1 0xA4000001 20 f)
  | .ofill f t => some (word2 0xA4000002 20 f 14 t)
  | .semp s => some (word1 0xA4000003 8 s)
  | .semv s => some (word1 0xA4000004 8 s)
  | .qnt f t r => some (word3 0xA8000000 20 f 14 t 5 r)
  | .trc f l r => some (word3 0xAC000000 20 f 8 l 5 r)
  | .reward f t s c => some (word4 0xAC000001 20 f 14 t 8 s 5 c)
  | .plreg f t s => some (word3 0xAC000002 20 f 14 t 8 s)
  | .pldrop f t s => some (word3 0xAC000003 20 f 14 t 8 s)
  | .evsend f n => some (word2 0xB0000000 20 f 5 n)
  | .waitev t => some (word1 0xB0000001 14 t)
  | .stepadv f t => some (word2 0xB0000002 20 f 14 t)
  | .nrn f => some (word1 0xB0000003 20 f)
  | .dring f t => some (word2 0xB0000004 20 f 14 t)
  | .dqdecl f t => some (word2 0xB4000000 20 f 14 t)
  | .dqpush f t h => some (word3 0xB4000001 20 f 14 t 8 h)
  | .dqpop f t h => some (word3 0xB4000002 20 f 14 t 8 h)
  | .dqcons t h => some (word2 0xB4000003 14 t 8 h)
  | .dqarr f t h => some (word3 0xB4000004 20 f 14 t 8 h)
  | .dqlook f h => some (word2 0xB4000005 20 f 8 h)
  | .dqjoin f t h => some (word3 0xB4000006 20 f 14 t 8 h)
  | .dqclose f t h => some (word3 0xB4000007 20 f 14 t 8 h)
  | .dqfront t h => some (word2 0xB4000008 14 t 8 h)
  | .yieldEnd _ _ => none
  | .txinvPage _ _ => none
  | .txinvProcess _ => none
  | .txinvAll => none
  | .txinvCompletion _ => none
  | .waitingDqpopService _ => none
  | .waitingDqpushService _ => none
  | .clusterAssignment _ _ => none
  | .clusterRelease _ => none
  | .launchRecordAcceptance _ => none
  | .priorityAging _ => none
  | .launchReserving _ => none
  | .taskPlacement _ => none
  | .childStart _ => none
  | .stealProbe _ => none
  | .forkRecruitment _ => none
  | .stageTaskPlacement _ _ _ => none
  | .pipelineOccupancyCheck _ _ => none
  | .taskRetirement _ _ => none
  | .heldMessageDelivery _ _ => none
  | .preemptionRequest _ _ => none
  | .slotStateSave _ _ => none
  | .resumption _ => none
  | .tokenCancellation _ => none
  | .watchdogReport _ _ => none
  | .qsendDelivery _ => none
  | .messageDelivery _ => none
  | .msendwRetry _ => none
  | .pendingValueArrival _ => none
  | .statusTrap _ _ => none
  | .nullService _ => none
  | .mapPage _ => none
  | .unmapPage _ => none
  | .noSuchService _ => none
  | .controlCoreRestart _ => none
  | .storeAtHome _ => none
  | .waitwPoll _ => none
  | .storeAcknowledge _ => none
  | .acquireCompletion _ => none
  | .fullEmptyAtOwner _ => none
  | .atomicAtOwner _ => none
  | .atomicReply _ => none
  | .raddAtCombiner _ => none
  | .nibSumReceipt _ => none
  | .copyEngineAcceptance _ => none
  | .copyCompletion _ => none
  | .stationTranslation _ _ => none
  | .walkCompletion _ _ => none
  | .remoteCallArrival _ => none
  | .routineStart _ => none
  | .routineBudgetExpiry _ => none
  | .replyArrival _ => none
  | .replyAcknowledgement _ => none
  | .rcTimeoutExpiry _ => none
  | .mxOperationStart _ _ => none
  | .subarrayWake _ _ => none
  | .subarrayGating _ _ _ => none
  | .mxOperationCompletion _ => none
  | .ofillCompletion _ => none
  | .qntAcceptance _ => none
  | .qntCommandStart _ => none
  | .qntCommandCompletion _ => none
  | .trcAdmission _ => none
  | .rewardArming _ _ => none
  | .rewardPassStart _ => none
  | .rewardPassEnd _ => none
  | .rewardCompletion _ => none
  | .stepTick _ => none
  | .eventDeposit _ => none
  | .waitevWake _ _ => none
  | .requestAcceptance _ => none
  | .escapeWaitExpiry _ => none
  | .packetReceipt _ _ _ => none
  | .packetAcknowledgement _ _ => none
  | .linkRetrain _ => none
  | .linkTrainingEnd _ => none
  | .ringRegistration _ _ => none
  | .ringHeadWrite _ _ _ => none
  | .hostMemoryRead _ _ _ => none
  | .hostMemoryWrite _ _ _ => none
  | .firmwareImage _ _ _ _ => none
  | .attestationReport _ => none
  | .telemetryRead _ _ => none
  | .managementSettingWrite _ _ => none
  | .throttleLevelChange _ _ => none
  | .thermalShutdown _ => none
  | .bringUp _ _ _ => none
  | .illegalInstruction _ => none
  | .instructionFetchOutsideImage _ => none
  | .bindCompletion _ => none

/-- The X word before an instruction's own word, where the instruction is an X pair (R78): 0xF800_0000 + ext26. -/
def encodeExt : Instr → Option Word
  | .addiX _ _ _ e => some (word1 0xF8000000 0 e)
  | .andiX _ _ _ e => some (word1 0xF8000000 0 e)
  | .oriX _ _ _ e => some (word1 0xF8000000 0 e)
  | .xoriX _ _ _ e => some (word1 0xF8000000 0 e)
  | .shliX _ _ _ => some (word0 0xF8000000)
  | .shriX _ _ _ => some (word0 0xF8000000)
  | .sariX _ _ _ => some (word0 0xF8000000)
  | .sltiX _ _ _ e => some (word1 0xF8000000 0 e)
  | .sltniX _ _ _ e => some (word1 0xF8000000 0 e)
  | .muliX _ _ _ e => some (word1 0xF8000000 0 e)
  | .liX _ _ e => some (word1 0xF8000000 0 e)
  | .lihX _ _ e => some (word1 0xF8000000 0 e)
  | .leaX _ _ _ e => some (word1 0xF8000000 0 e)
  | _ => none

/-- The four bytes of a word in memory (R8). -/
def bytesOfWord (w : Word) : List Byte := bytesOf 4 w.toNat

/-- The encoder: the bytes of an instruction, its X word first where it has one; no bytes for an event of the part. -/
def encode (i : Instr) : List Byte :=
  match encodeExt i, encodeWord i with
  | some x, some w => bytesOfWord x ++ bytesOfWord w
  | none, some w => bytesOfWord w
  | _, none => []

/-- The number of 32-bit words of an instruction: 2 for an X pair (R78), else 1. -/
def Instr.words (i : Instr) : Nat := if (encodeExt i).isSome then 2 else 1

/-- The word a trap on the instruction reports in xval (R82, R279): the instruction's own word, of an X pair the second. -/
def Instr.word (i : Instr) : Word := (encodeWord i).getD 0

end Sys2Proof
end

