-- ==== Sys2Proof/Machine/Legal.lean ====
section
/-! DEFINITION. The static checks of a word: the reserved field values that make it an illegal instruction (R82, R127 and each
entry's own reserved values), whatever the state. An event of the part has no word and is always well formed. -/

namespace Sys2Proof

/-- A constant operand in integer context names entry 0 to 31 (R73). -/
def constOk (c : BitVec 1) (b : BitVec 6) : Bool := c == 0 || b.ult 32

/-- An atomic's ordering and return (R257). -/
def atomOk (d : BitVec 6) (n : BitVec 1) (o : BitVec 2) : Bool := o != 3 && !(n == 1 && (d != 0 || o == 1))

/-- A k field holds 0 to 7 (R184). -/
def kField (n : BitVec 5) : Bool := n.ult 8

/-- VCVT's destination, SAT bit and rounding field (R205, R207). -/
def vcvtOk (s : BitVec 1) (e : BitVec 4) (t r : BitVec 3) : Bool :=
  let fpSrc := t.toNat ≥ 4
  let intDst := e.toNat < 4 ∨ (8 ≤ e.toNat ∧ e.toNat < 12)
  r != 6 && decide (e.toNat < 14) && decide (e.toNat ≠ t.toNat)
    && !(s == 1 && (decide (fpSrc ∧ intDst) || decide (¬ fpSrc ∧ ¬ intDst)))

/-- VPACK's type and rounding field (R208). -/
def vpackOk (t r : BitVec 3) : Bool := t != 3 && t != 7 && (if t.ult 4 then r == 0 else r != 6)

/-- VUNPK's type, extension and FP8 source (R209). -/
def vunpkOk (e : BitVec 2) (z : BitVec 1) (t : BitVec 3) : Bool :=
  t != 3 && t != 7 && e != 3 && (e == 0 || t == 0) && (z == 0 || (t.ult 4 && e == 0))

/-- LDM and STM's registers (R249). -/
def multiOk (t b : BitVec 6) (c : BitVec 5) : Bool :=
  t != 0 && b != 0 && !(decide (t.toNat ≤ b.toNat) && decide (b.toNat ≤ t.toNat + c.toNat))

/-- No reserved field value (R82). -/
def legal (i : Instr) : Bool :=
  match i with
  | .add _ _ b _ c => constOk c b
  | .sub _ _ b _ c => constOk c b
  | .mul _ _ b _ c => constOk c b
  | .mulh _ _ b _ c => constOk c b
  | .mulhn _ _ b _ c => constOk c b
  | .div _ _ b _ c => constOk c b
  | .divn _ _ b _ c => constOk c b
  | .rem _ _ b _ c => constOk c b
  | .remn _ _ b _ c => constOk c b
  | .and _ _ b _ c => constOk c b
  | .or _ _ b _ c => constOk c b
  | .xor _ _ b _ c => constOk c b
  | .andn _ _ b _ c => constOk c b
  | .shl _ _ b _ c => constOk c b
  | .shr _ _ b _ c => constOk c b
  | .sar _ _ b _ c => constOk c b
  | .rol _ _ b _ c => constOk c b
  | .min _ _ b _ c => constOk c b
  | .max _ _ b _ c => constOk c b
  | .minn _ _ b _ c => constOk c b
  | .maxn _ _ b _ c => constOk c b
  | .slt _ _ b _ c => constOk c b
  | .sltn _ _ b _ c => constOk c b
  | .seq _ _ b _ c => constOk c b
  | .sext _ _ b _ c => constOk c b
  | .zext _ _ b _ c => constOk c b
  | .madd _ _ b _ c => constOk c b
  | .sel _ _ b _ c => constOk c b
  | .loop _ _ _ l => l != 0
  | .loopi _ _ _ l => l != 0
  | .rpt _ _ _ _ _ v => v != 3
  | .ld _ _ s x _ => !(s == 3 && x == 1)
  | .ldm t b c _ => multiOk t b c
  | .stm t b c _ => multiOk t b c
  | .ldfe _ b _ => b != 0
  | .ldff _ b _ => b != 0
  | .stfe _ b _ => b != 0
  | .stf _ b _ => b != 0
  | .waitw _ b _ => b != 0
  | .aadd d _ _ _ n o => atomOk d n o
  | .aand d _ _ _ n o => atomOk d n o
  | .aor d _ _ _ n o => atomOk d n o
  | .axor d _ _ _ n o => atomOk d n o
  | .amin d _ _ _ n o => atomOk d n o
  | .amax d _ _ _ n o => atomOk d n o
  | .aminn d _ _ _ n o => atomOk d n o
  | .amaxn d _ _ _ n o => atomOk d n o
  | .aswp d _ _ _ n o => atomOk d n o
  | .acas d _ _ _ n o => atomOk d n o && n == 0
  | .faadd d _ _ _ n o => atomOk d n o
  | .famin d _ _ _ n o => atomOk d n o
  | .famax d _ _ _ n o => atomOk d n o
  | .radd a _ _ => a != 0
  | .fence _ s => s.ult 6
  | .acq d => d != 0
  | .rel d => d != 0
  | .bind d => d != 0
  | .unbind d => d != 0
  | .phnew _ m => m != 0
  | .phjoin _ m => m != 0
  | .qsend f _ => f != 0
  | .qpeek f p => f != 0 && (p == 56 || p == 57 || p == 58 || p == 59 || p == 63)
  | .msend f _ n => f != 0 && (n == 2 || n == 4)
  | .msendw f _ n => f != 0 && (n == 2 || n == 4)
  | .spawn f => f != 0
  | .fork f => f != 0
  | .joinc f => f != 0
  | .mxcfg f => f != 0
  | .mxwr f => f != 0
  | .orel f => f != 0
  | .evsend f _ => f != 0
  | .nrn f => f != 0
  | .trc f l r => f != 0 && l.ult 13 && r != 6
  | .launch f _ => f != 0
  | .pipedecl f _ => f != 0
  | .pipego f _ => f != 0
  | .cpy f _ => f != 0
  | .cpys f _ => f != 0
  | .mxrectForm f _ => f != 0
  | .mxrectFree f _ => f != 0
  | .ofill f _ => f != 0
  | .stepadv f _ => f != 0
  | .dring f _ => f != 0
  | .dqdecl f _ => f != 0
  | .pipewait f _ _ => f != 0
  | .cpyt f _ _ => f != 0
  | .cpytSet f _ _ => f != 0
  | .qnt f _ _ => f != 0
  | .plreg f _ _ => f != 0
  | .pldrop f _ _ => f != 0
  | .reward f _ _ _ => f != 0
  | .cpyd f _ o => f != 0 && 4 ≤ o.toNat && o.toNat < 8
  | .view s _ => s != 3
  | .lclaim _ r => decide (r.toNat ≤ 64)
  | .rcall _ _ n _ => decide (n.toNat ≤ 8)
  | .rret m => decide (m.toNat ≤ 4)
  | .vadd _ _ _ _ t _ => t.ult 4
  | .vsub _ _ _ _ t _ => t.ult 4
  | .vmul _ _ _ _ t _ => t.ult 4
  | .vmulh _ _ _ _ t => t.ult 4
  | .vmin _ _ _ _ t => t.ult 4
  | .vmax _ _ _ _ t => t.ult 4
  | .vminn _ _ _ _ t => t.ult 4
  | .vmaxn _ _ _ _ t => t.ult 4
  | .vand _ _ _ _ t => t.ult 4
  | .vor _ _ _ _ t => t.ult 4
  | .vxor _ _ _ _ t => t.ult 4
  | .vshl _ _ _ _ t => t.ult 4
  | .vshr _ _ _ _ t => t.ult 4
  | .vsar _ _ _ _ t => t.ult 4
  | .vabs _ _ _ t _ => t.ult 4
  | .vfadd _ _ _ _ t _ => !t.ult 4
  | .vfsub _ _ _ _ t _ => !t.ult 4
  | .vfmul _ _ _ _ t _ => !t.ult 4
  | .vfdiv _ _ _ _ t _ => !t.ult 4
  | .vfma _ _ _ _ t _ => !t.ult 4
  | .vfms _ _ _ _ t _ => !t.ult 4
  | .vfnma _ _ _ _ t _ => !t.ult 4
  | .vfmin _ _ _ _ t => !t.ult 4
  | .vfmax _ _ _ _ t => !t.ult 4
  | .vfsqrt _ _ _ t _ => !t.ult 4
  | .vfabs _ _ _ t => !t.ult 4
  | .vfneg _ _ _ t => !t.ult 4
  | .vfclass _ _ _ t => !t.ult 4
  | .vceq d _ _ _ t => kField d && t.ult 4
  | .vcne d _ _ _ t => kField d && t.ult 4
  | .vclt d _ _ _ t => kField d && t.ult 4
  | .vcle d _ _ _ t => kField d && t.ult 4
  | .vfceq d _ _ _ t => kField d && !t.ult 4
  | .vfclt d _ _ _ t => kField d && !t.ult 4
  | .vfcle d _ _ _ t => kField d && !t.ult 4
  | .kand d a b => kField d && kField a && kField b
  | .kor d a b => kField d && kField a && kField b
  | .kxor d a b => kField d && kField a && kField b
  | .knot d a => kField d && kField a
  | .kmovK d a => kField d && kField a
  | .kpop _ a => kField a
  | .kfirst _ a => kField a
  | .kmovG _ a => kField a
  | .kmovKg d _ => kField d
  | .vbcastConstant _ c _ t => if t.ult 4 then c.ult 32 else c.ult 62
  | .vcvt _ _ s e _ t r => vcvtOk s e t r
  | .vpack _ _ _ _ t r => vpackOk t r
  | .vunpk _ _ e z _ _ t => vunpkOk e z t
  | .vldx _ _ _ _ t => t.toNat % 4 ≥ 2
  | .vstx _ _ _ _ t => t.toNat % 4 ≥ 2
  | .vstxc _ _ _ k t => t.toNat % 4 ≥ 2 && k != 0
  | .vti _ _ _ _ t => !t.ult 4 && t != 7
  | .visect _ _ _ _ t => t == 2 || t == 3
  | .mxz y n => y != 3 && !(y == 1 && n.toNat % 2 == 1)
  | .mxrd f t => f != 0 && t != 0
  | .oclaim t n => t != 0 && 1 ≤ n.toNat && n.toNat ≤ 16
  | .dqpush f _ h => f != 0 && h != 0
  | .dqpop f t h => f != 0 && t != 0 && h != 0
  | .dqcons _ h => h != 0
  | .dqarr f _ h => f != 0 && h != 0
  | .dqlook f h => f != 0 && h != 0
  | .dqjoin f t h => f != 0 && t != 0 && h != 0
  | .dqclose f _ h => f != 0 && h != 0
  | .dqfront t h => t != 0 && h != 0
  | _ => true

end Sys2Proof
end

