-- ==== Sys2Proof/Machine/Blocks.lean ====
section
/-! DEFINITION. The block-scaled formats: E8M0 scales (R37), BS8 blocks and runs (R38, R39), PEF8 granules (R41 to R44), and the
storage formats of R224. -/

namespace Sys2Proof.Machine

/-- Element bytes of a format code, by log2 (R224, R276); PEF8 and raw data have none. -/
def codeLog (fmt : Nat) : Option Nat :=
  if fmt = 1 ∨ fmt = 2 ∨ fmt = 3 ∨ fmt = 9 then some 0 else if fmt = 5 ∨ fmt = 6 then some 1 else if fmt = 7 then some 2 else if fmt = 8 then some 3 else none

/-- The value of an element of a format that needs no scale (R224). -/
def codeValue (fmt x : Nat) : XNum :=
  match fmt with
  | 1 => fp8e4.decode x
  | 2 => fp8e5.decode x
  | 5 => bf16.decode x
  | 6 => fp16.decode x
  | 7 => fp32.decode x
  | 8 => fp64.decode x
  | _ => XNum.ofInt false (asSigned 8 x) 0

/-- A BS8 element under its scale (R37, R38). -/
def bs8Value (scale x : Nat) : XNum := if scale = 0xFF then .nan false else (fp8e4.decode x).scale ((scale : Int) - 127)

/-- A page holds runs at multiples of 2,112; its last 64 bytes hold none (R39, R417). -/
def runStart (a : Nat) : Bool := a % 65536 % 2112 == 0 && decide (a % 65536 < 65472)

/-- The first byte of run r counted from the run at a (R39). -/
def runAt (a r : Nat) : Nat :=
  let g := a % 65536 / 2112 + r
  (a / 65536 + g / 31) * 65536 + g % 31 * 2112

/-- The scale byte of block b, and element j of it, counted from the run at a (R39). -/
def bs8Scale (a b : Nat) : Nat := runAt a (b / 64) + b % 64
def bs8Elem (a b j : Nat) : Nat := runAt a (b / 64) + 64 + 32 * (b % 64) + j

/-! ## PEF8 (R41 to R44) -/

/-- The token at bit p of the token area: its length and its delta; none is the zero run (R42). -/
def pefToken (area p : Nat) : Nat × Option Nat :=
  let b := fun i => area / 2 ^ (p + i) % 2
  if b 0 = 0 then (1, some 0)
  else if b 1 = 0 then (2, some 1)
  else if b 2 = 0 then (3, some 2)
  else if b 3 = 0 then (4, some 3)
  else
    let s := 4 * b 4 + 2 * b 5 + b 6
    (7, if s = 7 then none else some (4 + s))

/-- The elements from i on, from bit p on; none for a malformed granule (R43). -/
def pefGo (g scale emax : Nat) : Nat → Nat → Nat → Option (List XNum)
  | 0, _, _ => some []
  | f + 1, p, i =>
    if 64 ≤ i then some []
    else
      let t := pefToken (g / 2 ^ 272) p
      let nib := g / 2 ^ (16 + 4 * i) % 16
      if 240 < p + t.1 then none
      else match t.2 with
        | none => if 63 < i + nib then none else (pefGo g scale emax f (p + t.1) (i + nib + 1)).map (fun l => List.replicate (nib + 1) (.zero false) ++ l)
        | some d =>
          if emax < d then none
          else (pefGo g scale emax f (p + t.1) (i + 1)).map (fun l => bs8Value scale (nib / 8 * 128 + (emax - d) * 8 + nib % 8) :: l)

/-- decode_pef8 (R43): 64 values. -/
def decodePef8 (g : Nat) : List XNum :=
  let nans := List.replicate 64 (XNum.nan false)
  if g / 2 ^ 12 % 16 ≠ 0 ∨ g % 256 = 0xFF then nans
  else (pefGo g (g % 256) (g / 2 ^ 8 % 16) 64 0 0).getD nans

/-- The exponent field of an FP8E4 pattern, and whether the pattern is a zero. -/
def e4Exp (q : Nat) : Nat := q / 8 % 16
def e4Zero (q : Nat) : Bool := q % 128 == 0

/-- The length of a nonzero element's token (R42). -/
def pefCost (d : Nat) : Nat := if d < 4 then d + 1 else 7

/-- Zeros at the head of a list, n at most. -/
def zerosAt : Nat → List Nat → Nat
  | 0, _ => 0
  | _, [] => 0
  | n + 1, q :: l => if e4Zero q then zerosAt n l + 1 else 0

/-- bits(q) of R44. -/
def pefBits (emax : Nat) : Nat → List Nat → Nat
  | 0, _ => 0
  | _, [] => 0
  | f + 1, q :: l => if e4Zero q then 7 + pefBits emax f (l.drop (zerosAt 15 l)) else pefCost (emax - e4Exp q) + pefBits emax f l

/-- The nonzero element of largest delta, the highest of equals, set to +0 (R44), also one of delta 0 where no other is left: there the model
follows the pseudocode of R44 and not its text (log 93). -/
def pefFlush (emax : Nat) (q : List Nat) : List Nat :=
  let best := (List.range q.length).foldl (fun (b : Option Nat) i =>
    if e4Zero (q.getD i 0) then b
    else match b with
      | none => some i
      | some j => if emax - e4Exp (q.getD j 0) ≤ emax - e4Exp (q.getD i 0) then some i else b) none
  match best with
  | none => q
  | some i => q.set i 0

def pefFlushGo (emax : Nat) : Nat → List Nat → List Nat
  | 0, q => q
  | f + 1, q => if 240 < pefBits emax 64 q then pefFlushGo emax f (pefFlush emax q) else q

/-- fit_pef8 (R44): the elements kept, every zero as +0, and emax. -/
def fitPef8 (q : List Nat) : List Nat × Nat :=
  let emax := q.foldl (fun m x => if e4Zero x then m else max m (e4Exp x)) 0
  let q := q.map (fun x => if e4Zero x ∨ 10 < emax - e4Exp x then 0 else x)
  (pefFlushGo emax 64 q, emax)

/-- The code of a token, its first bit lowest (R42). -/
def pefCode : Option Nat → Nat × Nat
  | none => (7, 127)
  | some d => if d < 4 then (d + 1, 2 ^ d - 1) else (7, 15 + 16 * ((d - 4) / 4 % 2) + 32 * ((d - 4) / 2 % 2) + 64 * ((d - 4) % 2))

/-- Tokens and nibbles of the elements from i on, from bit p on (R42, R44). -/
def pefEncodeGo (emax : Nat) : Nat → Nat → Nat → List Nat → Nat × Nat
  | 0, _, _, _ => (0, 0)
  | _, _, _, [] => (0, 0)
  | f + 1, p, i, q :: l =>
    if e4Zero q then
      let n := zerosAt 15 l
      let r := pefEncodeGo emax f (p + 7) (i + n + 1) (l.drop n)
      (r.1 + 127 * 2 ^ p, r.2 + n * 2 ^ (4 * i))
    else
      let c := pefCode (some (emax - e4Exp q))
      let r := pefEncodeGo emax f (p + c.1) (i + 1) l
      (r.1 + c.2 * 2 ^ p, r.2 + (q / 128 % 2 * 8 + q % 8) * 2 ^ (4 * i))

/-- The granule of 64 FP8E4 patterns under a scale (R41, R44). -/
def encodePef8 (scale : Nat) (q : List Nat) : Nat :=
  let f := fitPef8 q
  let e := pefEncodeGo f.2 64 0 0 f.1
  scale + f.2 * 2 ^ 8 + e.2 * 2 ^ 16 + e.1 * 2 ^ 272

end Sys2Proof.Machine
end

