-- ==== Sys2Proof/Config.lean ====
section
/-! DEFINITION. What one implementation fixes and the spec leaves open: the free values. A free value is an opaque
constant applied to the counter `State.free`, which the step that uses one advances. Nothing in Lean can evaluate it. -/

namespace Sys2Proof.Config

/-- The free values, one for each count of `State.free` (log 2). -/
opaque freeWord : Nat → BitVec 64

/-- The flits a replay buffer holds, and those of a packet, by its number on its channel: an empty buffer has room for any packet
(R300, log 68). -/
opaque replayFlits : Nat
opaque freeFlits : Nat → Fin (replayFlits + 1)

def packetFlits (n : Nat) : Nat := (freeFlits n).val

theorem packetFlits_le (n : Nat) : packetFlits n ≤ replayFlits := Nat.le_of_lt_succ (freeFlits n).isLt

end Sys2Proof.Config
end

