-- ==== Sys2Proof/Machine/Memory.lean ====
section
/-! DEFINITION. Byte memories and tables as plain data in one canonical form. A memory is a list of address and byte pairs,
addresses strictly rising, no byte 0: an address that is not listed reads 0. A table is a list of key and value pairs, keys
strictly rising; a key that is not listed reads as the default the reader names. -/

namespace Sys2Proof.Machine

/-- A byte memory (Host.Cell pairs). -/
abbrev Mem := List Host.Cell

/-- The byte at an address; 0 where none is listed (log 1). -/
def Mem.get : Mem → Nat → Byte
  | [], _ => 0
  | (k, v) :: m, a => if k = a then v else Mem.get m a

/-- Every listed address is above `lo` (where there is one), addresses rise, and no listed byte is 0. -/
def Mem.wfFrom : Option Nat → Mem → Bool
  | _, [] => true
  | lo, (k, v) :: m => (match lo with | none => true | some l => decide (l < k)) && v != 0 && Mem.wfFrom (some k) m

/-- The canonical form of a memory. -/
def Mem.wf (m : Mem) : Bool := Mem.wfFrom none m

/-- A byte written; writing 0 removes the entry, so the canonical form stays. -/
def Mem.set : Mem → Nat → Byte → Mem
  | [], a, b => if b = 0 then [] else [(a, b)]
  | (k, v) :: m, a, b =>
    if a < k then (if b = 0 then (k, v) :: m else (a, b) :: (k, v) :: m)
    else if a = k then (if b = 0 then m else (k, b) :: m)
    else (k, v) :: Mem.set m a b

/-- mem[a, n], little-endian (R8, R9). -/
def Mem.read (m : Mem) : Nat → Nat → Nat
  | _, 0 => 0
  | a, n + 1 => (m.get a).toNat + 256 * Mem.read m (a + 1) n

/-- mem[a, n] := v, little-endian, the low 8n bits of v (R8, R9). -/
def Mem.write (m : Mem) : Nat → Nat → Nat → Mem
  | _, 0, _ => m
  | a, n + 1, v => Mem.write (m.set a (BitVec.ofNat 8 v)) (a + 1) n (v / 256)

/-- The bytes of a range. -/
def Mem.bytes (m : Mem) : Nat → Nat → List Byte
  | _, 0 => []
  | a, n + 1 => m.get a :: Mem.bytes m (a + 1) n

/-- Bytes written in ascending address order. -/
def Mem.store (m : Mem) : Nat → List Byte → Mem
  | _, [] => m
  | a, b :: l => Mem.store (m.set a b) (a + 1) l

/-- Every byte of [lo, hi) set to 0. -/
def Mem.clear (lo hi : Nat) (m : Mem) : Mem := m.filter (fun c => decide (c.1 < lo ∨ hi ≤ c.1))

/-- [dlo, dlo + n) of a memory takes the bytes of [lo, lo + n) of another. -/
def Mem.copyFrom (dst : Mem) (dlo : Nat) (src : Mem) (lo n : Nat) : Mem :=
  dst.filter (fun c => decide (c.1 < dlo)) ++ (src.filter (fun c => decide (lo ≤ c.1 ∧ c.1 < lo + n))).map (fun c => (c.1 - lo + dlo, c.2))
    ++ dst.filter (fun c => decide (dlo + n ≤ c.1))

/-- A table with Nat keys. -/
abbrev Tab (α : Type) := List (Nat × α)

def Tab.get? {α : Type} : Tab α → Nat → Option α
  | [], _ => none
  | (k, v) :: t, a => if k = a then some v else Tab.get? t a

def Tab.getD {α : Type} (t : Tab α) (a : Nat) (d : α) : α := (Tab.get? t a).getD d

def Tab.set {α : Type} : Tab α → Nat → α → Tab α
  | [], a, b => [(a, b)]
  | (k, v) :: t, a, b =>
    if a < k then (a, b) :: (k, v) :: t else if a = k then (k, b) :: t else (k, v) :: Tab.set t a b

def Tab.erase {α : Type} : Tab α → Nat → Tab α
  | [], _ => []
  | (k, v) :: t, a => if k = a then t else (k, v) :: Tab.erase t a

/-- A sorted set of numbers. -/
def insertNat (a : Nat) : List Nat → List Nat
  | [] => [a]
  | k :: l => if a < k then a :: k :: l else if a = k then k :: l else k :: insertNat a l

end Sys2Proof.Machine
end

