-- ==== Sys2Proof/Machine/State.lean ====
section
/-! DEFINITION. The state of the part as plain data: harts (task slots, handler slots, nibs, control cores), cores, panels,
clusters, processes, launches, stations, links, rings and the planes; the operations in flight; and the model's own agenda. -/

namespace Sys2Proof.Machine

/-- Why a slot waits (R106). -/
inductive Wait where
  | fullEmpty | port | inbox | pending | phaser | event | word | shadow | semaphore | gate | step | fence | binding
  | queue | request | release | acquire | tile | drain
  deriving DecidableEq, Repr

/-- A hardware loop entry (R140). -/
structure LoopEntry where
  start : Reg64
  last : Reg64
  left : Reg64
  ren : Bool
  chk : Bool
  deriving DecidableEq, Repr

/-- A stage task's place: its pipeline, its stage and the records delivered to it (R164). -/
structure StageRef where
  pipe : Nat
  stage : Nat
  popped : Nat
  deriving DecidableEq, Repr

/-- The routine a handler slot or nib runs: its call, its caller's process, watch flag and token (R330, R339, R369). -/
structure RoutineRef where
  op : Nat
  entry : Reg64
  pid : BitVec 16
  lid : Word
  cluster : Nat
  watch : Bool
  ctok : Word
  began : Nat
  /-- The bytes its stores have written so far, as address and number, by their homes: an operation that ends meanwhile does not write them again (R234). -/
  wrote : List (Nat × Nat) := []
  deriving DecidableEq, Repr

/-- A VLD or VST of a nib that is under way (R185, R214, R334; log 5): the register a load fills, with its element width, none for a store; the
bytes of an element; and the elements still to come, each with its number, its home, which is a byte of the nibs' local stores or 2^60 and up a
physical address, and the value a store writes. -/
structure Parts where
  dst : Option (Nat × Nat)
  size : Nat
  left : List (Nat × Nat × Nat)
  deriving DecidableEq, Repr

/-- One hart: a task slot, a handler slot, a nib's pipeline or a control core. -/
structure Slot where
  /-- Holds a task or a routine (R90, R91). -/
  live : Bool := false
  /-- The model's name of the task, fresh at each placement. -/
  uid : Nat := 0
  pid : BitVec 16 := 0
  pc : Reg64 := 0
  /-- The register window (R62) with its size and its offset in the core's register space (R98). -/
  win : Mem := []
  winSize : Nat := 0
  winOff : Nat := 0
  /-- View bases (R63) and the link cell (R64). -/
  gBase : Nat := 0
  kBase : Nat := 448
  vBase : Nat := 512
  link : Reg64 := 0
  /-- System registers of the slot (R177). -/
  fcr : Reg64 := 0
  srs : Reg64 := 0
  xstat : Reg64 := 0
  xvec : Reg64 := 0
  xcause : Reg64 := 0
  xpc : Reg64 := 0
  xval : Reg64 := 0
  rcTimeout : Nat := 2000
  tid : Word := 0
  lid : Word := 0
  ctok : Word := 0
  /-- The launch's or stage template's watch and sc flags (R92, R164). -/
  watch : Bool := false
  sc : Bool := false
  stage : Option StageRef := none
  routine : Option RoutineRef := none
  /-- Scratchpad reservation and phaser slots (R98). -/
  scratchOff : Nat := 0
  scratch : Nat := 0
  phasers : Nat := 0
  /-- Phasers still in the reservation (R266). -/
  phLeft : Nat := 0
  /-- Lane grant and lane request (R168, R179). -/
  grant : Nat := 0
  request : Nat := 0
  /-- Loop stack, top first (R140), and an RPT frame being run (R147). -/
  loops : List LoopEntry := []
  rptOn : Bool := false
  /-- Store-acknowledge counter (R242). -/
  acks : Nat := 0
  /-- Pending window words: window offset and operation (R125). -/
  pend : List (Nat × Nat) := []
  /-- Statuses waiting for their trap: cause and access address (R281). -/
  statusQ : List (Nat × Reg64) := []
  /-- Window offsets of register words whose residue is bad until they are written (R289). -/
  bad : List Nat := []
  /-- Port queues (R67, R68), inbox messages and messages held for it (R72, R415). -/
  q0 : List Reg64 := []
  q1 : List Reg64 := []
  q2 : List Reg64 := []
  q3 : List Reg64 := []
  vq0 : List Nat := []
  vq1 : List Nat := []
  inbox : List (List Reg64) := []
  held : List (List Reg64) := []
  /-- The next remote call id (R329). -/
  callId : BitVec 16 := 0
  /-- First clk at which the slot may issue after a YIELD (R107). -/
  notBefore : Nat := 0
  /-- Why and since when the slot waits (R106). -/
  waiting : Option (Wait × Nat) := none
  /-- The operation the waiting instruction has sent (R251, R252, R263, R311, R374). -/
  blocked : Option Nat := none
  /-- The waiting instruction has completed, and its back-edge, which renegotiates, comes at the slot's next turn (R141, R168). -/
  edge : Bool := false
  /-- The address of a PHNEXT or STEPADV that has signalled and waits, with its phase or step. -/
  midway : Option (Reg64 × Nat) := none
  /-- Retirement, or the drain of a pre-emption, has begun (R118, R119). -/
  retiring : Bool := false
  preempt : Bool := false
  /-- The clk at which that drain began (R106, R407). -/
  drainFrom : Nat := 0
  /-- A control core stopped by HALT (R176). -/
  halted : Bool := false
  /-- The vector access a nib is in the middle of (R185, R214). -/
  parts : Option Parts := none
  /-- Routine words held at a handler slot or in a nib's 8 KiB instruction buffer, newest first: process, address, word (R15, R16,
  R327). -/
  words : List (BitVec 16 × Nat × Word) := []
  deriving DecidableEq, Repr

/-- A child task of a deque (R108). -/
structure Child where
  entry : Reg64
  args : List Reg64
  lid : Word
  tid : Word
  deriving DecidableEq, Repr

/-- A delay ring (R319, R320). -/
structure Ring where
  base : Nat
  n : Nat
  d : Nat
  fade : Nat
  theta : Nat
  vreset : Nat
  ph : Nat
  lid : Word
  deriving DecidableEq, Repr

/-- The state of a core beside its slots. -/
structure CoreState where
  /-- Deque, youngest first (R108), and the steal LFSR (R110). -/
  deque : List Child := []
  lfsr : BitVec 16 := 0
  probeDue : Nat := 0
  /-- The clk at which a probe last looked at this core's deque (R110). -/
  probedAt : Option Nat := none
  /-- The last task slot to issue, and the clk of the core's last issue (R105). -/
  lastSlot : Nat := 3
  issuedAt : Option Nat := none
  /-- Slots waiting for a request buffer slot, in order (R403). -/
  bufWait : List Nat := []
  ring : Option Ring := none
  /-- Event queue, oldest first (R323), and notices dropped. -/
  notices : List Reg64 := []
  noticeDrops : Nat := 0
  deriving DecidableEq, Repr

/-- An operand slot (R344): tag, orientation (row length of column blocks; 0 for row blocks), claim and release. -/
structure OperandSlot where
  fmt : Nat := 0
  h : Nat := 0
  claim : Option Nat := none
  releasing : Bool := false
  deriving DecidableEq, Repr

/-- The accumulator formats of R353. -/
inductive TileTag where
  | fp32 | fp64 | i32
  deriving DecidableEq, Repr

/-- An accumulator tile's tag and invalid mark (R342). -/
structure Tile where
  tag : TileTag := .fp32
  invalid : Bool := false
  deriving DecidableEq, Repr

/-- The state of a panel (R342); operand, scale and tile bytes lie in `State.opMem` and `State.accMem`. -/
structure Panel where
  slots : Tab OperandSlot := []
  tiles : Tab Tile := []
  sems : Tab Nat := []
  w0 : Reg64 := 0
  w1 : Reg64 := 0
  mslot : Nat := 0
  /-- The committed operation, and the started one. -/
  committed : Option Nat := none
  running : Option Nat := none
  /-- Awake sub-arrays, the clk at which the waking ones are awake, and the clk since which each is idle (R363). -/
  awake : List Nat := []
  waking : Option Nat := none
  idle : Tab Nat := []
  gateIdle : Nat := 2048
  /-- The last renegotiation of the octet's lanes: its clk, and 4·octet slot + task slot (R168). -/
  reneg : Option (Nat × Nat) := none
  deriving DecidableEq, Repr

/-- A fault record (R284). -/
structure FaultRecord where
  time : Nat
  seq : Nat
  tid : Word := 0
  ctok : Word := 0
  lid : Word := 0
  info : Reg64 := 0
  val : Reg64 := 0
  pc : Reg64 := 0
  unit : Nat := 0
  ukind : Nat := 0
  cid : Nat := 0xFFFF
  kind : Nat
  cause : Nat := 0
  status : Nat := 0
  slot : Nat := 7
  /-- The record is complete; written last. -/
  valid : Bool := false
  deriving DecidableEq, Repr

/-- A phaser member (R264). -/
structure Member where
  uid : Nat
  sigMode : Bool
  waitMode : Bool
  sig : Bool
  wp : Nat
  /-- Order of joining, over the part (R317). -/
  since : Nat
  deriving DecidableEq, Repr

/-- A step group (R314 to R318). -/
structure StepGroup where
  period : Nat
  nextTick : Nat
  late : Nat := 0
  discard : Nat := 0
  /-- The words of its advances by the new step, the last first. -/
  words : List (Nat × Reg64) := []
  deriving DecidableEq, Repr

structure Phaser where
  phase : Nat := 0
  creator : Nat
  /-- The creator has retired (R266). -/
  orphan : Bool := false
  members : List Member := []
  group : Option StepGroup := none
  /-- A signaller has left in this phase, which counts as its signal (R267). -/
  counted : Bool := false
  deriving DecidableEq, Repr

/-- A join cell (R113). -/
structure JoinCell where
  count : Nat
  lid : Word
  cont : Reg64
  deriving DecidableEq, Repr

/-- A combiner entry: address, format and the lanes, key 4·core + slot (R237). -/
structure CombEntry where
  addr : Nat
  /-- The physical address; none for a word of another part. -/
  phys : Option Nat
  fp64 : Bool
  lanes : Tab Nat
  deriving DecidableEq, Repr

/-- A delta record (R370). -/
structure Rec where
  key : Reg64
  vlo : Reg64
  vhi : Reg64
  mult : Word
  round : Word
  deriving DecidableEq, Repr

/-- An arrangement entry (R388). -/
structure ArrEntry where
  key : Reg64
  val : BitVec 128
  mult : Reg64
  deriving DecidableEq, Repr

/-- A delta queue (R375 to R386). -/
structure DQueue where
  lid : Word
  pid : BitVec 16
  cap : Nat
  consumers : Nat
  blot : Bool
  arrCap : Nat
  arr : List ArrEntry := []
  closes : List Nat
  recs : List Rec := []
  chunks : Nat := 0
  halted : Bool := false
  /-- Rounds that have left the queue, and round ends delivered of the oldest. -/
  drained : Nat := 0
  ends : Nat := 0
  /-- Holders of a round: task and round (R386). -/
  holders : List (Nat × Nat) := []
  deriving DecidableEq, Repr

/-- An item of a plain queue: a record or a round-end marker (R166). -/
inductive PlainItem where
  | record (r : Rec)
  | marker (round : Nat)
  deriving DecidableEq, Repr

structure PQueue where
  pipe : Nat
  cap : Nat
  items : List PlainItem := []
  close : Nat := 0
  popped : Nat := 0
  holders : List (Nat × Nat) := []
  deriving DecidableEq, Repr

/-- A queue descriptor of a pipeline, with the handle of its queue (R160). -/
structure PipeQueue where
  handle : Nat
  prod : Nat
  cons : Nat
  cap : Nat
  deriving DecidableEq, Repr

/-- A stage template's fields (R160). -/
structure StageTemplate where
  entry : Reg64
  args : Reg64
  window : Nat
  scratch : Nat
  phasers : Nat
  watch : Bool
  sc : Bool
  deriving DecidableEq, Repr

structure Pipe where
  /-- The launch and token its stage tasks bear, from PIPEGO on (R164). -/
  lid : Word
  token : Word
  pid : BitVec 16
  /-- The launch that declared the pipeline (R165). -/
  owner : Word
  cores : List Nat
  done : Nat
  queues : List PipeQueue
  stages : List StageTemplate
  started : Bool := false
  shares : List Nat := []
  move : Option (Nat × Nat) := none
  nextCheck : Nat := 0
  /-- Rounds complete, and rounds signalled on the done phaser, joined at PIPEGO (R392). -/
  rounds : Nat := 0
  signalled : Nat := 0
  joined : Bool := false
  deriving DecidableEq, Repr

/-- A frame of an instruction store: frame number, physical page and the launches that use it (R99). -/
structure Frame where
  n : Nat
  ppn : Nat
  users : List Word
  deriving DecidableEq, Repr

/-- A launch's code image in a cluster: first virtual page and the frame of each page (R99). -/
structure Image where
  lid : Word
  page : Nat
  frames : List Nat
  deriving DecidableEq, Repr

structure Cluster where
  pid : Option (BitVec 16) := none
  frames : List Frame := []
  images : List Image := []
  cells : Tab JoinCell := []
  phasers : Tab Phaser := []
  comb : List CombEntry := []
  dqs : Tab DQueue := []
  pqs : Tab PQueue := []
  pipes : Tab Pipe := []
  /-- Rectangles: id to forming task and member panels with the shape (R361). -/
  rects : Tab (Nat × Nat × Nat × Nat × Nat) := []
  /-- Quantisation engine: queue of operations, the one running, halt (R365, R368). -/
  qntQ : List Nat := []
  qntRun : Option Nat := none
  qntHalt : Bool := false
  /-- Error area, newest first, its last sequence number and overwrites (R283). -/
  errs : List FaultRecord := []
  errSeq : Nat := 0
  errOver : Nat := 0
  /-- WAITWs that found no monitor entry (R253). -/
  monFall : Nat := 0
  deriving DecidableEq, Repr

/-- A nib's slot sum for one cluster (R237). -/
structure NibSum where
  addr : Nat
  cluster : Nat
  fp64 : Bool
  val : Nat
  pid : BitVec 16
  phys : Nat
  deriving DecidableEq, Repr

structure Nib where
  lastPid : Option (BitVec 16) := none
  sums : List NibSum := []
  deriving DecidableEq, Repr

/-- A translation cache entry: page level 0, 1 or 2 (R294, R296). -/
structure TransEntry where
  pid : BitVec 16
  vpn : Nat
  level : Nat
  pte : Reg64
  deriving DecidableEq, Repr

/-- A table walk in flight (R296). -/
structure Walk where
  pid : BitVec 16
  va : Nat
  born : Nat
  deriving DecidableEq, Repr

structure Station where
  cache : List TransEntry := []
  walks : List Walk := []
  off : Bool := false
  deriving DecidableEq, Repr

/-- A range reserved with system software, with its attributes (R173). -/
structure VRange where
  base : Nat
  size : Nat
  attrs : Option Nat
  deriving DecidableEq, Repr

/-- A bound region (R228, R263). -/
structure Binding where
  base : Nat
  len : Nat
  obj : Reg64
  deriving DecidableEq, Repr

structure Process where
  root : Option Nat := none
  ranges : List VRange := []
  bindings : List Binding := []
  deriving DecidableEq, Repr

/-- Where a launch record came from (R101). -/
inductive Origin where
  | task (hart uid : Nat)
  | ring (die n : Nat)
  | firmware
  deriving DecidableEq, Repr

/-- A launch held by a command processor: its record (R92), what it has placed and waits for (R95 to R101). -/
structure Launch where
  lid : Word
  die : Nat
  pid : BitVec 16
  seq : Nat
  accepted : Nat
  entry : Reg64
  args : Reg64
  count : Nat
  token : Word
  pred0 : Word
  pred1 : Word
  clusters : Reg64
  window : Nat
  scratch : Nat
  phasers : Nat
  /-- Base priority. -/
  prio : Nat
  notify : Bool
  sc : Bool
  watch : Bool
  origin : Origin
  next : Nat := 0
  walk : Nat := 0
  /-- The clk at which the launch became eligible (R95), and the priority steps it has gained by age (R96). -/
  eligible : Option Nat := none
  aged : Nat := 0
  reserving : Bool := false
  waitFrom : Nat := 0
  cancelled : Bool := false
  ran : Nat := 0
  deriving DecidableEq, Repr

/-- A saved task: its slot state (R119, R287). -/
structure Saved where
  cid : Nat
  sl : Nat
  slot : Slot
  deriving DecidableEq, Repr

/-- A plastic region with its gate: armed REWARDs in order, the one whose pass runs (R302, R311). -/
structure Region where
  base : Nat
  count : Nat
  set : Nat
  pid : BitVec 16
  lid : Word
  armed : List Nat := []
  running : Option Nat := none
  deriving DecidableEq, Repr

/-- A stride-gather pattern, the same in all eight units (R276). -/
structure Pattern where
  desc : Nat
  pid : BitVec 16
  deriving DecidableEq, Repr

/-- The copy commands of R270. -/
inductive CopyCmd where
  | cpy (dst src : Reg64) (n : Nat)
  | cpys (dst src : Reg64) (rowBytes rows : Nat) (dstep sstep : Reg64)
  | cpyd (dst src : Reg64) (n : Nat) (fmt : Nat) (out : Nat)
  | cpyt (dst base origin extent : Reg64) (pat : Nat)
  | cpytSet (desc : Nat) (pat : Nat)
  deriving DecidableEq, Repr

/-- What an operation in flight does. -/
inductive OpKind where
  /-- A store's element writes not yet home: address, bytes, value (R222). -/
  | store (els : List (Nat × Nat × Nat))
  | fullEmpty (sel addr val : Nat)
  /-- A load on its way or held back (R214, R243): its parts still to be read, as address, bytes and first bit in the register's word or the
  entry; the bits read so far; and the width whose sign it extends, 64 for a scalar one that extends none, 0 for elements of a vector. -/
  | load (parts : List (Nat × Nat × Nat)) (got sx : Nat)
  /-- A VTILD that is held back: the table bytes it writes, their number, and its source (R216, R243). -/
  | table (dst len src : Nat)
  | waitw (addr val : Nat) (entry : Bool)
  /-- An atomic (R255): function code, width in bytes, address, operand, expected value, ordering, .NR, mode and draw. -/
  | atomic (fn size : Nat) (addr val exp : Reg64) (ord : Nat) (nr : Bool) (mode : Rnd) (srs : Reg64)
  | radd (addr : Reg64) (fp64 : Bool) (val : Nat)
  | acquire (obj : Reg64)
  | release (obj : Reg64)
  | bind (obj : Reg64) (base len : Nat)
  | unbind (base len : Nat)
  /-- A write of txinv waiting for its completion (R299). -/
  | txinv (scope : Nat) (pid : BitVec 16) (vpn : Nat)
  | qsend (core slot : Nat) (val : Reg64)
  /-- A message (R152): held until accepted, target core, slot and part, words. -/
  | msg (hold : Bool) (cid slot part : Nat) (words : List Reg64)
  | launch (words : List Reg64)
  | service (code : Nat) (args : List Reg64)
  | fork (lo len grain cont : Reg64) (regs : List Reg64)
  /-- A value that has been formed and travels to its register or the inbox. -/
  | value (v : Reg64) (words : List Reg64)
  /-- A PIPEDECL whose block is read once no acquire holds it back (R243). -/
  | declare (block : Reg64)
  /-- A SEMV, or an engine's post, whose slot has stores on their way: the count goes up once they are home (R240, R350). -/
  | semv (panel sem : Nat)
  | pipewait (pipe : Nat) (free : Bool)
  | copy (c : CopyCmd)
  | rcall (entry target : Reg64) (pay : List Reg64) (id : BitVec 16) (unit : Nat)
  /-- A matrix operation with, once started, the operand slots it reads, as 16·panel + slot; at stage 9 its shadow is withdrawn
  while its task is saved (R364). -/
  | mx (panel : Nat) (w0 w1 : Reg64) (mslot : Nat) (reads : List Nat)
  | ofill (panel : Nat) (ctl src : Reg64)
  /-- A QNT: its block's address, the words of the block once accepted, and the matrix operations whose tile it waits for; the
  tile's words then stand in the reply (R365, R367). -/
  | qnt (block : Nat) (restart : Bool) (words : List Reg64) (waits : List Nat)
  | trc (base pre post shape : Reg64) (fade : Nat) (mode : Rnd) (stamp region : Nat)
  | reward (set : Nat) (clr : Bool) (h : Nat) (stamp : Reg64) (toArm : List Nat)
  /-- An event with its group and sending step (R321), and the groups whose advance it holds back, with their steps (R315). -/
  | event (cid neuron val delay : Nat) (ntf : Bool) (group : Option Nat) (step : Nat) (holds : List (Nat × Nat))
  /-- A PLDROP that waits for the pass on a region to end (R304). -/
  | pldrop (base : Nat)
  /-- A WAITEV with its step group and the step at its issue (R323). -/
  | waitev (group : Option Nat) (step : Nat)
  | dqpush (h : Nat) (r : Rec)
  | dqpop (h : Nat) (f : Nat)
  deriving DecidableEq, Repr

/-- An operation in flight. `owner` is the hart that issued it, `task` the task, `off` the window offset of its result
register (none: to the inbox), `stage` its progress, `buf` and `call` the request buffer slot and call record it holds. -/
structure Op where
  id : Nat
  owner : Nat
  task : Nat
  pid : BitVec 16
  cluster : Nat
  pc : Reg64
  tid : Word := 0
  lid : Word
  ctok : Word
  watch : Bool := false
  major : Nat := 0
  sel : Nat := 0
  off : Option Nat := none
  /-- The result is discarded where no register takes it. -/
  mute : Bool := false
  stage : Nat := 0
  buf : Bool := false
  call : Bool := false
  acked : Bool := false
  born : Nat := 0
  /-- When its time is up; of a REWARD, its place in the order of first arming at linked regions, or 0 (log 91). -/
  due : Nat := 0
  /-- The die where its packet is, 4 + p for part p, and the clk since which it waits there (R402, R404). -/
  die : Nat := 0
  since : Nat := 0
  /-- Status, bytes or regions done, reply words, flags raised. -/
  status : Nat := 0
  done : Nat := 0
  /-- The outbound port a held load sends its value to: a scalar one by its number, a vector one as 64 + its number (R243). -/
  port : Nat := 0
  reply : List Reg64 := []
  flags : Nat := 0
  /-- The phasers its issuer was a member of: a REWARD that is not armed everywhere holds back their steps (R315). -/
  groups : List Nat := []
  kind : OpKind
  deriving DecidableEq, Repr

/-- A reply-cache entry (R339): the executing unit, the operation that stands for caller and call id, and the reply once it is sent. -/
structure CacheEntry where
  unit : Nat
  op : Nat
  reply : Option (Nat × List Reg64) := none
  deriving DecidableEq, Repr

/-- A sum on its way from a combiner to its nib (R237). -/
structure Forward where
  n : Nat
  sum : NibSum
  deriving DecidableEq, Repr

/-- A packet: its sequence number on its link and channel, and its 256-byte flits (R300). -/
structure Packet where
  seq : Nat
  flits : Nat
  /-- The operation whose request or response it carries; none for other traffic. -/
  op : Option Nat := none
  deriving DecidableEq, Repr

/-- One direction and virtual channel of a link (R300): the replay buffer, packets in flight, next numbers; the replays that have failed in
a row, and how many of the packets in flight are replays (R301). -/
structure Channel where
  nextSend : Nat := 0
  unacked : List Packet := []
  flight : List Packet := []
  expect : Nat := 0
  delivered : List Packet := []
  failed : Nat := 0
  replays : Nat := 0
  deriving DecidableEq, Repr

structure Link where
  training : Bool := false
  down : Bool := false
  chans : Tab Channel := []
  deriving DecidableEq, Repr

/-- The way to another part of the domain: the port of its first hop, and the parts that forward (R400). -/
structure PeerRoute where
  part : Nat
  port : Nat
  via : List Nat
  deriving DecidableEq, Repr

/-- The topology image that bring-up is given: whether its signature verifies, and the routes it fixes (R400). -/
structure Topology where
  sigOk : Bool := false
  routes : List PeerRoute := []
  deriving DecidableEq, Repr

/-- A launch ring (R397). -/
structure LaunchRing where
  die : Nat
  n : Nat
  base : Reg64
  stat : Reg64
  pid : BitVec 16
  s : Nat
  vec : Nat
  tail : Nat := 0
  stopped : Bool := false
  deriving DecidableEq, Repr

/-- What the part has sent to the host (R396). -/
inductive HostMsg where
  | interrupt (vec : Nat) (w0 w1 : Reg64)
  | readData (bytes : List Byte)
  | accessFault (va : Reg64)
  | writeDone
  | telemetry (v : Nat)
  | firmware (unit : Nat) (accepted : Bool)
  | attestation (words : List Reg64)
  | ready
  deriving DecidableEq, Repr

/-- A firmware image that was loaded (R409). -/
structure FwImage where
  unit : Nat
  version : Nat
  digest : BitVec 256
  deriving DecidableEq, Repr

/-- Who or what moves next: a core issues, a nib or control core runs, time passes, or an event of the part comes about. -/
inductive Turn where
  | core (cid : Nat)
  | nib (n : Nat)
  | control (n : Nat) (i : Instr)
  | tick (n : Nat)
  | event (i : Instr)
  deriving DecidableEq, Repr

/-- A soft error (R289 to R292): a residue mismatch at a hart's next instruction, in a register word at a window offset or in the
check of its result; in a scratchpad word, a granule of external memory by its physical number, a nib's local store, a cluster's buffer
at its next use; in the next word a hart fetches (`double`: of two bits); in the storage of a panel; in a granule that a station's next walk reads; or an event
of an engine that has no storage of its own here, by the number of its unit. `twice` and `double`: the second reading meets it again. -/
inductive SoftError where
  | residue (hart off : Nat) (twice word : Bool)
  | storage (addr : Nat) (double : Bool)
  | granule (n : Nat) (twice : Bool)
  | nibStore (nib off : Nat) (double : Bool)
  | buffer (cl : Nat) (double : Bool)
  | fetch (hart : Nat) (double twice : Bool)
  | panel (p : Nat) (double : Bool)
  | walk (station : Nat)
  | engine (unit : Nat)
  /-- The sender of a remote call sends it again, under its call id, after a transient fault on its way (R291): the call, by its operation. -/
  | call (op : Nat)
  deriving DecidableEq, Repr

/-- Why the machine stops. -/
inductive Fault where
  /-- Raised by `step` when the management plane has removed power (R410) and the next turn is no bring-up: nothing runs.
  Safe: no state follows. -/
  | poweredOff
  deriving DecidableEq, Repr

/-- Why an instruction has no meaning here. -/
inductive Refusal where
  /-- Raised by `exec` for an instruction the model does not model yet. Safe: no state follows. -/
  | notModelled (mnemonic : String)
  deriving DecidableEq, Repr

/-- The state of the part. -/
structure State where
  /-- Core clk since the part left reset (R24): counted from `State.reset` on (log 78). -/
  clk : Nat := 0
  /-- The hart that issues (the model's own). -/
  cur : Nat := 0
  agenda : List Turn := []
  /-- Count of the free values used (the model's own). -/
  free : Nat := 0
  nextId : Nat := 1
  powered : Bool := true
  ready : Bool := false
  shutdownCause : Option Nat := none
  harts : Tab Slot := []
  saved : List Saved := []
  cores : Tab CoreState := []
  panels : Tab Panel := []
  clusters : Tab Cluster := []
  nibs : Tab Nib := []
  stations : Tab Station := []
  procs : Tab Process := []
  launches : List Launch := []
  /-- Launch id sequence of each die (R94), cancelled tokens (R122). -/
  lidSeq : Tab Nat := []
  tokens : List Word := []
  ops : List Op := []
  forwards : List Forward := []
  regions : List Region := []
  patterns : Tab Pattern := []
  /-- Reply-cache entries (R339). -/
  replies : List CacheEntry := []
  /-- Scratchpads by on-chip offset, full words, external memory by physical address, nib local stores, interpolation
  tables, operand memory, accumulator stores, instruction-store frames. -/
  spm : Mem := []
  full : List Nat := []
  ext : Mem := []
  nibMem : Mem := []
  tblMem : Mem := []
  /-- Table images a VTILD has copied, seen from the next clk on: clk, core, address in `tblMem`, bytes (R216). -/
  tblWrites : List (Nat × Nat × Nat × List Byte) := []
  opMem : Mem := []
  accMem : Mem := []
  imem : Mem := []
  /-- Units out of service (R26, R293), by unit number. -/
  coresOut : List Nat := []
  panelsOut : List Nat := []
  clustersOut : List Nat := []
  stacksOut : List Nat := []
  nibsOut : List Nat := []
  /-- UCIe modules of the host link that failed training (R395). -/
  modulesOut : List Nat := []
  /-- Units that the next bring-up finds faulty, by their numbers in `State.unitLeaves` (R411, log 66). -/
  selfTest : List Nat := []
  /-- Values of bring-up (R27, R29). -/
  ports : BitVec 16 := 0
  domSize : BitVec 8 := 1
  domIndex : BitVec 5 := 0
  /-- The topology image of bring-up, and parts that other parts' links have cut off (R400, R401, log 67). -/
  topology : Topology := {}
  lostPeers : List Nat := []
  /-- Throttle level of each die, and the one to come (R24). -/
  throttle : Tab Nat := []
  throttleNext : Tab (Nat × Nat) := []
  throttleAt : Tab Nat := []
  rings : List LaunchRing := []
  outbox : List HostMsg := []
  links : Tab Link := []
  escapeWait : Nat := 128
  /-- Operations whose packet took the escape channel (R404). -/
  escaped : List Nat := []
  /-- Management plane: records outside clusters, event times of units, watchdog, settings, firmware (R283, R292, R407). -/
  mgmtErrs : List FaultRecord := []
  mgmtSeq : Nat := 0
  unitTimes : Tab (List Nat) := []
  watchdogPeriod : Nat := 18000000
  /-- Vectors of fault-record and watchdog notices (R398). -/
  faultVec : Nat := 0
  watchdogVec : Nat := 0
  watchdog : List (Nat × Nat × Word × Wait × Nat) := []
  powerLimit : Nat := 3000
  /-- The fused rollback counter (R409). -/
  rollback : Nat := 0
  /-- Units whose image was refused before the part came up (R409). -/
  refused : List Nat := []
  firmware : List FwImage := []
  /-- Free physical 64 KiB pages and table memory in the hands of system software (R173). -/
  freePages : List Nat := []
  freeTables : List Nat := []
  /-- Soft errors to come (log 11). -/
  softErrors : List SoftError := []
  /-- Processes that system software deschedules (R119, log 31). -/
  descheduled : List (BitVec 16) := []
  deriving DecidableEq, Repr

/-- The state right after reset: nothing placed, no cluster assigned (R411); the nibs' srs has its reset value (R330). -/
def State.reset : State := {}

end Sys2Proof.Machine
end

