-- ==== Sys2Proof/Machine/Ops.lean ====
section
/-! DEFINITION. The named operations over registers, memory, operations in flight and records, and taking a trap: every
meaning is written over these. -/

namespace Sys2Proof.Machine

/-! ## Numbers of units (R1, R2) -/

def hartOf (cid sl : Nat) : Nat := cid * 5 + sl
def nibHart (n : Nat) : Nat := 81920 + n
def ctlHart (n : Nat) : Nat := 82176 + n
def isCore (h : Nat) : Bool := decide (h < 81920)
def isTask (h : Nat) : Bool := decide (h < 81920 ∧ h % 5 < 4)
def isHandler (h : Nat) : Bool := decide (h < 81920 ∧ h % 5 = 4)
def isNib (h : Nat) : Bool := decide (81920 ≤ h ∧ h < 82176)
def isControl (h : Nat) : Bool := decide (82176 ≤ h)
def cidOf (h : Nat) : Nat := h / 5
def slOf (h : Nat) : Nat := h % 5
def clusterOf (h : Nat) : Nat := cidOf h / 256
def coreOf (h : Nat) : Nat := cidOf h % 256
def panelOf (h : Nat) : Nat := cidOf h / 8
def nibOf (h : Nat) : Nat := h - 81920
/-- The die of a hart (R1): a core's, a nib's by its stack, a control core's. -/
def dieOf (h : Nat) : Nat := if isNib h then nibOf h / 64 else if isControl h then (h - 82176) / 4 else cidOf h / 4096

/-- Bits lo+n-1:lo of a register. -/
def bits (x : Reg64) (lo n : Nat) : Nat := x.toNat / 2 ^ lo % 2 ^ n

/-- A register with bits lo+n-1:lo replaced. -/
def setBits (x : Reg64) (lo n v : Nat) : Reg64 :=
  BitVec.ofNat 64 (x.toNat - bits x lo n * 2 ^ lo + v % 2 ^ n * 2 ^ lo)

def r64 (n : Nat) : Reg64 := BitVec.ofNat 64 n

/-- sext(x, n) to 64 bits (R9). -/
def sextNat (n x : Nat) : Reg64 := BitVec.ofInt 64 (asSigned n x)

/-! ## Slots and units of the state -/

/-- The constant of the srs seeds (R49, R91, R330). -/
def seedXor : Reg64 := 0x9E3779B97F4A7C15

/-- A hart nothing has run on: the srs of R330 on a nib, privilege 1 of a handler slot and 2 of a control core (R178). -/
def Slot.initial (h : Nat) : Slot :=
  if isNib h then { srs := r64 (nibOf h * 2 ^ 32 + 0xFFFFFFFE) ^^^ seedXor, winSize := 8192 }
  else if isControl h then { live := true, winSize := 8192, xstat := 2 }
  else if isHandler h then { winSize := 256, xstat := 1 }
  else {}

def State.slot (s : State) (h : Nat) : Slot := (Tab.get? s.harts h).getD (Slot.initial h)
def State.setSlot (s : State) (h : Nat) (x : Slot) : State := { s with harts := Tab.set s.harts h x }
def State.modSlot (s : State) (h : Nat) (f : Slot → Slot) : State := s.setSlot h (f (s.slot h))
def State.me (s : State) : Slot := s.slot s.cur
def State.modMe (s : State) (f : Slot → Slot) : State := s.modSlot s.cur f
def State.core (s : State) (c : Nat) : CoreState := Tab.getD s.cores c {}
def State.modCore (s : State) (c : Nat) (f : CoreState → CoreState) : State := { s with cores := Tab.set s.cores c (f (s.core c)) }
def State.panel (s : State) (p : Nat) : Panel := Tab.getD s.panels p {}
def State.modPanel (s : State) (p : Nat) (f : Panel → Panel) : State := { s with panels := Tab.set s.panels p (f (s.panel p)) }
def State.cluster (s : State) (c : Nat) : Cluster := Tab.getD s.clusters c {}
def State.modCluster (s : State) (c : Nat) (f : Cluster → Cluster) : State :=
  { s with clusters := Tab.set s.clusters c (f (s.cluster c)) }
def State.nib (s : State) (n : Nat) : Nib := Tab.getD s.nibs n {}
def State.modNib (s : State) (n : Nat) (f : Nib → Nib) : State := { s with nibs := Tab.set s.nibs n (f (s.nib n)) }
def State.station (s : State) (n : Nat) : Station := Tab.getD s.stations n {}
def State.modStation (s : State) (n : Nat) (f : Station → Station) : State :=
  { s with stations := Tab.set s.stations n (f (s.station n)) }
def State.proc (s : State) (p : BitVec 16) : Process := Tab.getD s.procs p.toNat {}
def State.modProc (s : State) (p : BitVec 16) (f : Process → Process) : State :=
  { s with procs := Tab.set s.procs p.toNat (f (s.proc p)) }

/-- The process the hart works for: its cluster's, or its routine's caller's. -/
def State.pidOf (s : State) (h : Nat) : BitVec 16 :=
  match (s.slot h).routine with
  | some r => r.pid
  | none => ((s.cluster (clusterOf h)).pid).getD 0

/-- Time in ns since reset (R7, R284); a fraction is dropped, in the test of 64 ms too (R292; log 92, the model's choice). -/
def State.ns (s : State) : Nat := s.clk * 5 / 9

/-- A free value, and the counter advanced. -/
def State.freeVal (s : State) : Reg64 × State := (Config.freeWord s.free, { s with free := s.free + 1 })

def State.op? (s : State) (id : Nat) : Option Op := s.ops.find? (fun o => o.id == id)
def State.setOp (s : State) (o : Op) : State := { s with ops := s.ops.map (fun x => if x.id = o.id then o else x) }
def State.dropOp (s : State) (id : Nat) : State := { s with ops := s.ops.filter (fun x => x.id != id) }

/-- A new operation of the issuing hart; its identity is the one before the call. The spec puts a control core in no cluster: the operation
of one is served by engines, a buffer and a combiner of a cluster 64 of the model's own (log 8, the model's choice). -/
def State.post (s : State) (k : OpKind) (f : Op → Op) : State :=
  let h := s.cur
  let x := s.slot h
  let o : Op := f { id := s.nextId, owner := h, task := x.uid, pid := s.pidOf h, cluster := clusterOf h, pc := x.pc, tid := x.tid, lid := x.lid, ctok := x.ctok, watch := x.watch, born := s.clk, die := dieOf h, since := s.clk, kind := k }
  { s with ops := s.ops ++ [o], nextId := s.nextId + 1 }

/-! ## Register views (R63 to R66) -/

/-- Bytes [a, a + n) and [b, b + m) meet. -/
def overlaps (a n b m : Nat) : Bool := decide (a < b + m) && decide (b < a + n)

/-- The slot's bad words after window bytes are written: the words they lie in have a good residue again (R289). -/
def Slot.mended (x : Slot) (off n : Nat) : List Nat := x.bad.filter (fun b => !overlaps b 4 off n)
def Slot.mend (x : Slot) (off n : Nat) : Slot := { x with bad := x.mended off n }

def Slot.gOff (x : Slot) (n : Nat) : Nat := x.gBase + 8 * n
def Slot.kOff (x : Slot) (n : Nat) : Nat := x.kBase + 8 * n
def Slot.vOff (x : Slot) (n : Nat) : Nat := x.vBase + 256 * n

/-- A storage register g1 to g55; g0 reads 0 (R64). -/
def Slot.getG (x : Slot) (n : Nat) : Reg64 := if n = 0 then 0 else r64 (Mem.read x.win (x.gOff n) 8)
def Slot.putG (x : Slot) (n : Nat) (v : Reg64) : Slot :=
  if n = 0 then x else { x with win := Mem.write x.win (x.gOff n) 8 v.toNat, bad := x.mended (x.gOff n) 8 }
/-- A mask register; k0 reads all ones (R64). -/
def Slot.getK (x : Slot) (n : Nat) : Nat := if n = 0 then 2 ^ 64 - 1 else Mem.read x.win (x.kOff n) 8
def Slot.putK (x : Slot) (n : Nat) (v : Nat) : Slot :=
  if n = 0 then x else { x with win := Mem.write x.win (x.kOff n) 8 v, bad := x.mended (x.kOff n) 8 }
/-- A storage vector register as one number of 2048 bits. -/
def Slot.getV (x : Slot) (n : Nat) : Nat := Mem.read x.win (x.vOff n) 256
/-- The register's bytes replaced; which words that mends is its writer's to say. -/
def Slot.putV (x : Slot) (n : Nat) (v : Nat) : Slot := { x with win := Mem.write x.win (x.vOff n) 256 v }

/-- The link reference (R64): g54 where it lies inside the window, else the link cell. -/
def Slot.lnInside (x : Slot) : Bool := decide (x.gOff 54 + 8 ≤ x.winSize)
def Slot.getLn (x : Slot) : Reg64 := if x.lnInside then r64 (Mem.read x.win (x.gOff 54) 8) else x.link
def Slot.putLn (x : Slot) (v : Reg64) : Slot :=
  if x.lnInside then { x with win := Mem.write x.win (x.gOff 54) 8 v.toNat, bad := x.mended (x.gOff 54) 8 } else { x with link := v }

/-- Bytes of a register at a window offset take what arrives; the words they lie in have a good residue again (R289). -/
def Slot.arriveBytes (x : Slot) (off n v : Nat) : Slot := { x with win := Mem.write x.win off n v, bad := x.mended off n }
/-- A register word at a window offset takes the value that arrives. -/
def Slot.arrive (x : Slot) (off : Nat) (v : Reg64) : Slot := x.arriveBytes off 8 v.toNat

/-! ## Ports (R67 to R72) -/

/-- The hart and queue an outbound scalar port of a core's slot feeds. -/
def outTarget (h port : Nat) : Nat × Nat :=
  let cl := cidOf h / 256 * 256
  let c := coreOf h
  if port = 60 then (hartOf (cl + (c + 1) % 256) (slOf h), 0)
  else if port = 61 then (hartOf (cl + (c + 255) % 256) (slOf h), 1)
  else (hartOf (cidOf h) ((slOf h + 1) % 4), 2)

def Slot.queue (x : Slot) (q : Nat) : List Reg64 := if q = 0 then x.q0 else if q = 1 then x.q1 else if q = 2 then x.q2 else x.q3
def Slot.setQueue (x : Slot) (q : Nat) (l : List Reg64) : Slot :=
  if q = 0 then { x with q0 := l } else if q = 1 then { x with q1 := l } else if q = 2 then { x with q2 := l } else { x with q3 := l }

/-- The send window of an outbound scalar port (R69, R71). A control core stands in no cluster and has no neighbours: its outbound ports feed
no queue and always take an entry, which is lost (log 8, the model's choice). -/
def State.sendWindow (s : State) (h port : Nat) : Nat :=
  if isControl h then 4
  else
    let t := outTarget h port
    let x := s.slot t.1
    if x.live then 4 - (x.queue t.2).length else 0

/-- The hart an outbound vector port of a core's slot feeds, and whether it is its vq1 (R68). -/
def outVTarget (h port : Nat) : Nat × Bool :=
  let cl := cidOf h / 256 * 256
  let c := coreOf h
  if port = 30 then (hartOf (cl + (c + 1) % 256) (slOf h), false) else (hartOf (cl + (c + 255) % 256) (slOf h), true)

def State.sendVWindow (s : State) (h port : Nat) : Nat :=
  if isControl h then 2
  else
    let t := outVTarget h port
    let x := s.slot t.1
    if x.live then 2 - (if t.2 then x.vq1 else x.vq0).length else 0

/-- g[n] as the issuing hart reads it (R64, R69, R72). -/
def State.getG (s : State) (n : Nat) : Reg64 :=
  let x := s.me
  if n < 56 then x.getG n
  else if n < 60 then ((x.queue (n - 56)).head?).getD 0
  else if n < 63 then r64 (s.sendWindow s.cur n)
  else match x.inbox with
    | (w :: _) :: _ => w
    | _ => 0

/-- g[n] := v: a storage register, or an entry sent by an outbound port (R69), lost on a control core (log 8). -/
def State.putG (s : State) (n : Nat) (v : Reg64) : State :=
  if n < 56 then s.modMe (fun x => x.putG n v)
  else if n < 60 ∨ n = 63 ∨ isControl s.cur then s
  else
    let t := outTarget s.cur n
    s.modSlot t.1 (fun x => x.setQueue t.2 (x.queue t.2 ++ [v]))

def State.getK (s : State) (n : Nat) : Nat := s.me.getK n
def State.putK (s : State) (n v : Nat) : State := s.modMe (fun x => x.putK n v)

/-- v[n] as the issuing hart reads it: 2048 bits (R68). -/
def State.getV (s : State) (n : Nat) : Nat :=
  if n < 28 then s.me.getV n else if n = 28 then (s.me.vq0.head?).getD 0 else if n = 29 then (s.me.vq1.head?).getD 0 else 0

/-- One element of width w of a vector value. -/
def elem (w v i : Nat) : Nat := v / 2 ^ (w * i) % 2 ^ w

/-- A vector value with one element replaced. -/
def setElem (w v i x : Nat) : Nat := v - elem w v i * 2 ^ (w * i) + x % 2 ^ w * 2 ^ (w * i)

/-- Elements written to v[n]: into the register, or as an entry that is 0 elsewhere (R68, R184). -/
def State.putElems (s : State) (n w : Nat) (l : List (Nat × Nat)) : State :=
  let put := fun (v : Nat) => l.foldl (fun v p => setElem w v p.1 p.2) v
  if n < 28 then s.modMe (fun x => l.foldl (fun x p => x.mend (x.vOff n + p.1 * (w / 8)) (w / 8)) (x.putV n (put (x.getV n))))
  else if n < 30 ∨ isControl s.cur then s
  else
    let t := outVTarget s.cur n
    s.modSlot t.1 (fun x => if t.2 then { x with vq1 := x.vq1 ++ [put 0] } else { x with vq0 := x.vq0 ++ [put 0] })

/-! ## Privileged state in xstat (R178) -/

def Slot.tr (x : Slot) : Bool := x.xstat.getLsbD 7
def Slot.rptBit (x : Slot) : Bool := x.xstat.getLsbD 63
def Slot.rptJ (x : Slot) : Nat := bits x.xstat 55 8
def Slot.rptI (x : Slot) : Nat := bits x.xstat 51 4
def Slot.ldmJ (x : Slot) : Nat := bits x.xstat 32 11
def Slot.priv (x : Slot) : Nat := bits x.xstat 0 2

/-! ## Fault records (R283, R284) -/

/-- An interrupt message to the host (R398). -/
def State.interrupt (s : State) (vec : Nat) (w0 w1 : Reg64) : State := { s with outbox := s.outbox ++ [.interrupt vec w0 w1] }

/-- A notice of the management plane, whose words the spec does not give (R398): free values (log 2). -/
def State.mgmtNotice (s : State) (vec : Nat) : State := ({ s with free := s.free + 2 } : State).interrupt vec (Config.freeWord s.free) (Config.freeWord (s.free + 1))

/-- A record about a unit outside any cluster (R283), and its notice. -/
def State.recordMgmt (s : State) (r : FaultRecord) : State :=
  let q := if s.mgmtSeq = 0xFFFFFFFF then 1 else s.mgmtSeq + 1
  ({ s with mgmtSeq := q, mgmtErrs := { r with time := s.ns, seq := q, valid := true } :: s.mgmtErrs } : State).mgmtNotice s.faultVec

/-- The kind of a hart in a fault record, and its number within that kind (R1, R284): a core for a slot, a nib, the command processor of
a control core. R1 numbers cores and panels within a cluster and gives command processors no number; a record holds them numbered over the
part, a command processor by its die (log 69, the model's choice). -/
def unitOfHart (h : Nat) : Nat × Nat :=
  if isNib h then (6, nibOf h) else if isControl h then (10, (h - 82176) / 4) else (if isHandler h then 1 else 0, cidOf h)

/-- The record of what a control core issued: no core and no slot, and its command processor where the unit would be a core or an engine of a
cluster (R284, log 8). -/
def FaultRecord.ofControl (r : FaultRecord) : FaultRecord :=
  let u := if ([0, 2, 12] : List Nat).contains r.ukind then unitOfHart (hartOf r.cid r.slot) else (r.ukind, r.unit)
  { r with unit := u.2, ukind := u.1, cid := 0xFFFF, slot := 7 }

/-- A record in a cluster's error area, and its notice (R283, R398); of what a control core issued, with the management plane. -/
def State.record (s : State) (cl : Nat) (r : FaultRecord) : State :=
  if 64 ≤ cl then s.recordMgmt r.ofControl
  else
    (s.modCluster cl (fun c =>
      let q := if c.errSeq = 0xFFFFFFFF then 1 else c.errSeq + 1
      let l := { r with time := s.ns, seq := q, valid := true } :: c.errs
      { c with errSeq := q, errs := l.take 1024, errOver := if 1024 < l.length then c.errOver + 1 else c.errOver })).mgmtNotice s.faultVec

def Slot.recordOf (x : Slot) (h kind cause : Nat) (val pc : Reg64) : FaultRecord :=
  { time := 0, seq := 0, tid := x.tid, ctok := x.ctok, lid := x.lid, val := val, pc := pc, unit := (unitOfHart h).2, ukind := (unitOfHart h).1, cid := if isCore h then cidOf h else 0xFFFF, kind := kind, cause := cause, slot := if isCore h then slOf h else 7 }

/-! ## Messages and results (R128, R415) -/

def inboxRoom (h : Nat) (x : Slot) : Bool := decide (x.inbox.length < (if isHandler h then 32 else 16))

/-- A message of kind 0, 2 or 3 for a task: into its inbox, or held in order; discarded when the task is gone. -/
def State.deliverMsg (s : State) (h uid : Nat) (words : List Reg64) : State :=
  let x := s.slot h
  if x.live ∧ x.uid = uid then
    s.setSlot h (if x.held = [] ∧ inboxRoom h x then { x with inbox := x.inbox ++ [words] } else { x with held := x.held ++ [words] })
  else { s with saved := s.saved.map (fun v => if v.slot.uid = uid then { v with slot := { v.slot with held := v.slot.held ++ [words] } } else v) }

/-- Word 0 of a completion message (R128); `low` holds info in bits 39:8 and status in bits 7:0. -/
def completionWord (words major sel low : Nat) : Reg64 :=
  r64 (3 * 2 ^ 60 + words * 2 ^ 56 + major * 2 ^ 50 + sel * 2 ^ 45 + low % 2 ^ 40)

/-- The slot of a task, in its slot or saved, changed. -/
def State.modTask (s : State) (h uid : Nat) (f : Slot → Slot) : State :=
  let x := s.slot h
  if x.live ∧ x.uid = uid then s.setSlot h (f x)
  else { s with saved := s.saved.map (fun v => if v.slot.uid = uid then { v with slot := f v.slot } else v) }

/-- The value of an operation arrives: in its pending register, or, with no register, as a completion message with the value's
bits 39:0 and further words (R125, R128). -/
def State.resolve (s : State) (o : Op) (v : Reg64) (more : List Reg64) : State :=
  match o.off with
  | some off =>
    s.modTask o.owner o.task (fun x => { (x.arrive off v) with pend := x.pend.filter (fun p => p.2 != o.id) })
  | none =>
    if o.mute then s
    else s.deliverMsg o.owner o.task (completionWord (1 + more.length) o.major o.sel v.toNat :: more)

/-- A result register made pending on the operation just posted. -/
def State.pendOn (s : State) (t : Nat) (id : Nat) : State :=
  if t = 0 then s else s.modMe (fun x => { x with pend := x.pend ++ [(x.gOff t, id)] })

/-- An operation posted with the result register t (0: to the inbox), its register pending (R125, R127). -/
def State.postTo (s : State) (t : Nat) (k : OpKind) (f : Op → Op) : State :=
  let off := if t = 0 then none else some (s.me.gOff t)
  (s.post k (fun o => f { o with off := off })).pendOn t s.nextId

/-! ## Scratchpad and monitors (R222, R252) -/

/-- A write over bytes [a, a + n) of the scratchpads ends the storage errors in the 64-bit words they lie in (R290, log 11). -/
def State.rewritten (s : State) (a n : Nat) : State :=
  { s with softErrors := s.softErrors.filter (fun e => match e with | .storage b _ => !overlaps (b / 8 * 8) 8 a n | _ => true) }

/-- Bytes written at their scratchpad home. -/
def State.writeSpm (s : State) (a n v : Nat) : State := { s.rewritten a n with spm := Mem.write s.spm a n v }

/-- The scratchpad as an operation's place in program order sees it: the homes under its slot's earlier stores (R223). -/
def State.viewBefore (s : State) (o : Op) : Mem :=
  s.ops.foldl (fun m p => match p.kind with
    | .store els => if p.owner = o.owner ∧ p.task = o.task ∧ p.id < o.id then els.foldl (fun m e => Mem.write m e.1 e.2.1 e.2.2) m else m
    | _ => m) s.spm

/-- The scratchpad as a slot sees it: its own stores in program order over the homes (R223). -/
def State.view (s : State) (h : Nat) : Mem :=
  let uid := (s.slot h).uid
  s.ops.foldl (fun m o =>
    match o.kind with
    | .store els => if o.owner = h ∧ o.task = uid then els.foldl (fun m e => Mem.write m e.1 e.2.1 e.2.2) m else m
    | _ => m) s.spm

/-- An address is in the on-chip window (R220, R221). -/
def onChip (a : Nat) : Bool := decide (a < 0x40000000)
def clusterOfAddr (a : Nat) : Nat := a / 2 ^ 24
def coreOfAddr (a : Nat) : Nat := a / 2 ^ 16
/-- The channel of a virtual address, which is its nib (R297). -/
def channelOf (va : Nat) : Nat := va / 65536 % 256
/-- The station of a channel (R13). -/
def stationOf (va : Nat) : Nat := channelOf va / 8

/-- The address with the peer form of the own part taken off, and whether it may be used at all (R220): reserved bits and
unknown parts fail. The second part says which other part it names. -/
def State.address (s : State) (a : Reg64) : Option (Nat × Option Nat) :=
  let off := bits a 0 48
  if bits a 54 10 ≠ 0 then none
  else if bits a 53 1 = 0 then (if bits a 48 5 = 0 then some (off, none) else none)
  else if bits a 48 5 = s.domIndex.toNat then some (off, none)
  else if bits a 48 5 < s.domSize.toNat then some (off, some (bits a 48 5))
  else none

/-- The cluster is assigned to the process (R18). -/
def State.holds (s : State) (pid : BitVec 16) (cl : Nat) : Bool := decide (cl < 64) && (s.cluster cl).pid == some pid

/-! ## Full/empty words (R235) and lists of bytes -/

def State.isFull (s : State) (a : Nat) : Bool := s.full.contains a
def State.setFull (s : State) (a : Nat) (b : Bool) : State :=
  { s with full := if b then insertNat a s.full else s.full.filter (fun x => x != a) }

/-- The value of little-endian bytes (R8). -/
def natOfBytes : List Byte → Nat
  | [] => 0
  | b :: l => b.toNat + 256 * natOfBytes l

/-! ## Lanes (R121, R168, R179) -/

/-- One round of the share rule: each demand not yet met takes one unit while units last. -/
def shareRound : List Nat → List Nat → Nat → List Nat × Nat
  | a :: as, d :: ds, u =>
    if a < d ∧ 0 < u then let r := shareRound as ds (u - 1); ((a + 1) :: r.1, r.2)
    else let r := shareRound as ds u; (a :: r.1, r.2)
  | as, _, u => (as, u)

/-- The share rule of R168; each round of the sixteen units hands out at least one. -/
def shareGo : Nat → List Nat → List Nat → Nat → List Nat
  | 0, a, _, _ => a
  | f + 1, a, d, u => let r := shareRound a d u; shareGo f r.1 d r.2

def share (demands : List Nat) (units : Nat) : List Nat := shareGo (units + 1) (demands.map (fun _ => 0)) demands units

/-- The request of a task slot that counts in the shares, in units of 4 lanes (R168). -/
def State.demand (s : State) (h : Nat) : Nat := let x := s.slot h; if x.live then x.request / 4 else 0

def State.grantUnits (s : State) (h : Nat) : Nat := let x := s.slot h; if x.live then x.grant / 4 else 0

/-- A sum over the numbers below n. -/
def sumBelow (n : Nat) (f : Nat → Nat) : Nat := ((List.range n).map f).foldl (fun a b => a + b) 0

/-- A renegotiation of hart h (R168): its new grant; the others keep theirs. A control core stands in no octet and shares no inkwell: it is
granted what it asks for (log 8, the model's choice). -/
def State.newGrant (s : State) (h : Nat) : Nat :=
  if isControl h then 4 * s.demand h else
  let base := panelOf h * 8
  let coreShares := share ((List.range 8).map (fun c => sumBelow 4 (fun i => s.demand (hartOf (base + c) i)))) 16
  let mine := cidOf h % 8
  let slotShares := share ((List.range 4).map (fun i => s.demand (hartOf (cidOf h) i))) (coreShares.getD mine 0)
  let used := sumBelow 8 (fun c => sumBelow 4 (fun i => s.grantUnits (hartOf (base + c) i)))
  4 * min (s.demand h) (min (slotShares.getD (slOf h) 0) (s.grantUnits h + (16 - used)))

/-- The place of a slot in the order of renegotiations (R168). -/
def renegKey (h : Nat) : Nat := cidOf h % 8 * 4 + slOf h

def State.renegotiate (s : State) (h : Nat) : State :=
  if isNib h then s else if isControl h then s.modSlot h (fun x => { x with grant := s.newGrant h }) else (s.modSlot h (fun x => { x with grant := s.newGrant h })).modPanel (panelOf h) (fun p => { p with reneg := some (s.clk, renegKey h) })

/-- A slot of a later place has renegotiated in this clk: this one's turn is over (R168). -/
def State.renegLate (s : State) (h : Nat) : Bool := (s.panel (panelOf h)).reneg.any (fun r => r.1 == s.clk && decide (renegKey h < r.2))

/-! ## Taking a trap, and returning from one (R171, R172, R280, R333, R416) -/

/-- A trap of a task slot that goes to xvec (R171): the registers it saves and where the pc goes. -/
def Slot.enterTrap (x : Slot) (cause : Nat) (val pc : Reg64) : Slot :=
  { x with xcause := r64 cause, xpc := pc, xval := val, xstat := setBits x.xstat 7 1 1, pc := x.xvec, rptOn := false, waiting := none, blocked := none }

/-- The task's retirement begins: issue stops in the slot (R118). -/
def Slot.beginRetire (clk : Nat) (x : Slot) : Slot := { x with retiring := true, drainFrom := clk, waiting := none, blocked := none, edge := false, rptOn := false }

/-- The reply status of a routine that meets a cause, and the first detail word (R333, R416). -/
def routineStatus (cause : Nat) (val : Reg64) (iw : Word) : Nat × Reg64 :=
  if cause = 2 ∨ cause = 3 ∨ cause = 4 ∨ cause = 8 ∨ cause = 9 ∨ cause = 0xD then (cause, val)
  else (1, iw.zeroExtend 64)

/-- A routine ends at a handler slot or nib with a reply: the unit is free for the next one (R331, R333, R336). -/
def State.endRoutine (s : State) (h status : Nat) (words : List Reg64) : State :=
  let x := s.slot h
  match x.routine with
  | none => s
  | some r =>
    let s := s.setSlot h { x with live := false, routine := none, waiting := none, blocked := none, rptOn := false, parts := none }
    let s : State := { s with replies := s.replies.map (fun e => if e.op = r.op then { e with reply := some (status, words) } else e) }
    match s.op? r.op with
    | none => s
    | some o => if o.stage = 2 then s.setOp { o with stage := 3, since := s.clk, status := status, reply := words } else s

/-- A routine stopped by a cause: its reply carries the detail words (R333). -/
def State.stopRoutine (s : State) (h cause : Nat) (val pc : Reg64) (iw : Word) : State :=
  match (s.slot h).routine with
  | none => s
  | some r =>
    let st := routineStatus cause val iw
    s.endRoutine h st.1 [st.2, r64 ((pc - r.entry).toNat % 2 ^ 32 * 2 ^ 32)]

/-- A trap of a cause with its xval at an instruction of hart h whose address is pc and whose word is iw: a task slot enters its
handler, or, with xvec 0 or in a handler already, writes a kind-1 record and begins to retire; a routine ends; a control core
writes a record (R171, R280, R285). -/
def State.deliver (s : State) (h cause : Nat) (val pc : Reg64) (iw : Word) : State :=
  let x := s.slot h
  if isTask h then
    if x.xvec ≠ 0 ∧ ¬ x.tr then s.setSlot h (x.enterTrap cause val pc)
    else (s.record (clusterOf h) (x.recordOf h 1 cause val pc)).setSlot h (x.beginRetire s.clk)
  else if isControl h then s.recordMgmt (x.recordOf h 1 cause val pc)
  else s.stopRoutine h cause val pc iw

/-- The return of ERET (R172): the pc is xpc, and an RPT frame in progress goes on (R148). -/
def Slot.returnTrap (x : Slot) : Slot :=
  { x with xstat := setBits x.xstat 7 1 0, pc := x.xpc, rptOn := x.rptBit }

/-! ## The next instruction (R141, R147) -/

def State.isCancelled (s : State) (t : Word) : Bool := t != 0 && s.tokens.contains t

/-- A task's token is cancelled, or its launch is treated so for itself alone (R122, R286, R293); nothing cancels a routine (R337). -/
def State.taskDead (s : State) (x : Slot) : Bool := x.routine.isNone && (s.isCancelled x.ctok || s.launches.any (fun l => l.lid == x.lid && l.cancelled))

/-- The back-edge test of R141 at the last word of a completed instruction, with the pc otherwise next; three entries deep at
most (R140). -/
def State.backEdge : Nat → State → Nat → Reg64 → Reg64 → State
  | 0, s, h, _, next => s.modSlot h (fun x => { x with pc := next })
  | f + 1, s, h, last, next =>
    let x := s.slot h
    match x.loops with
    | [] => s.modSlot h (fun x => { x with pc := next })
    | t :: rest =>
      if t.last ≠ last then s.modSlot h (fun x => { x with pc := next })
      else if t.left - 1 = 0 then State.backEdge f (s.setSlot h { x with loops := rest }) h last next
      else
        let s := s.setSlot h { x with loops := { t with left := t.left - 1 } :: rest, pc := t.start }
        if t.chk ∧ s.taskDead x then s.deliver h 0xA (x.ctok.zeroExtend 64) t.start 0
        else if t.ren then s.renegotiate h
        else s

/-- The waits of an instruction that completes end (R106). -/
def Slot.resume (x : Slot) : Slot :=
  { x with waiting := none, blocked := none, midway := x.midway.filter (fun m => m.1 != x.pc) }

/-- The instruction of `len` bytes at hart h's pc completes in sequence: the back-edge test, then the next pc. -/
def State.advance (s : State) (h len : Nat) : State :=
  let x := s.slot h
  (s.setSlot h x.resume).backEdge 4 h (x.pc + r64 len - 4) (x.pc + r64 len)

/-- A waiting instruction has completed: its slot goes on after it. Where the back-edge would renegotiate after a slot of a later place has
in this clk, it is left to the slot's next turn (R168). -/
def State.goOn (s : State) (h : Nat) : State :=
  let x := s.slot h
  if x.loops.any (fun e => e.ren && e.last == x.pc) && s.renegLate h then s.setSlot h { x.resume with edge := true } else s.advance h 4

/-- The back-edge that was left is taken, once it may be. -/
def State.takeEdge (s : State) (h : Nat) : State :=
  if (s.slot h).edge && !s.renegLate h then (s.modSlot h (fun x => { x with edge := false })).advance h 4 else s

/-- A blocking operation ends: its slot goes on after the instruction that waited for it. -/
def State.unblock (s : State) (o : Op) : State :=
  let x := s.slot o.owner
  let s := s.dropOp o.id
  if x.live ∧ x.blocked = some o.id then s.goOn o.owner else s

/-! ## Phasers (R264 to R268, R314 to R318) -/

/-- The phaser an id names (R264). -/
def State.phaser? (s : State) (id : Nat) : Option Phaser := Tab.get? (s.cluster (id / 512)).phasers (id % 512)
def State.setPhaser (s : State) (id : Nat) (p : Phaser) : State :=
  s.modCluster (id / 512) (fun c => { c with phasers := Tab.set c.phasers (id % 512) p })
/-- The phaser is gone, and nothing holds back a later one of its number (R315). -/
def State.erasePhaser (s : State) (id : Nat) : State :=
  let drop := fun (o : Op) => { o with groups := o.groups.filter (fun g => g != id), kind := match o.kind with | .event c n v d t g u holds => .event c n v d t g u (holds.filter (fun h => h.1 != id)) | k => k }
  ({ s with ops := s.ops.map drop } : State).modCluster (id / 512) (fun c => { c with phasers := Tab.erase c.phasers (id % 512) })
def Phaser.member? (p : Phaser) (uid : Nat) : Option Member := p.members.find? (fun m => m.uid == uid)
def Phaser.modMember (p : Phaser) (uid : Nat) (f : Member → Member) : Phaser :=
  { p with members := p.members.map (fun m => if m.uid = uid then f m else m) }

/-- The phase completes: n := n + 1, every sig cleared (R268); a step group also forms the word of its advance (R318). -/
def Phaser.next (p : Phaser) : Phaser :=
  let n := p.phase + 1
  { p with phase := n, counted := false, members := p.members.map (fun m => { m with sig := false }), group := p.group.map (fun g => { g with words := (n, r64 (n % 2 ^ 32 + min g.late 0xFFFF * 2 ^ 32 + min g.discard 0xFFFF * 2 ^ 48)) :: g.words, late := 0, discard := 0 }) }

/-- An operation of a member holds back the advance of a strict step group (R315): an event sent in this step or an earlier one, or a REWARD
that is not armed at every region of its set, whether or not its issuer is a member still. What a process issued holds back no group of another
process's cluster (R18). -/
def Op.holdsStep (o : Op) (id : Nat) (p : Phaser) : Bool :=
  match o.kind with
  | .event _ _ _ _ _ _ _ holds => holds.any (fun h => h.1 == id && decide (h.2 ≤ p.phase))
  | .reward _ _ _ _ arm => !arm.isEmpty && o.groups.contains id
  | _ => false

def State.stepFree (s : State) (id : Nat) (p : Phaser) : Bool := s.ops.all (fun o => !(s.holds o.pid (id / 512) && o.holdsStep id p))

/-- Phase completion where every signalling member has signalled (R268); `forced`, or counted in the phaser, when the last signaller leaves
(R267). A deadline group advances by its ticks only (R316). -/
def State.completeOnce (s : State) (id : Nat) (forced : Bool) : State :=
  match s.phaser? id with
  | none => s
  | some p =>
    let sg := p.members.filter (fun m => m.sigMode)
    if sg.all (fun m => m.sig) ∧ (sg ≠ [] ∨ forced ∨ p.counted) then
      match p.group with
      | none => s.setPhaser id p.next
      | some g => if g.period = 0 ∧ s.stepFree id p then s.setPhaser id p.next else s
    else s

/-- The identity of a pipeline's controller as a phaser member. -/
def ctlUid (cl pipe : Nat) : Nat := 2 ^ 64 + cl * 16 + pipe

/-- The pipeline controllers on a phaser signal the next round they owe, each once its last signal's phase has completed (R392). -/
def State.signalCtl (s : State) (id : Nat) : State :=
  match s.phaser? id with
  | none => s
  | some p =>
    p.members.foldl (fun s m =>
      if m.uid < 2 ^ 64 ∨ m.sig then s
      else
        let cl := (m.uid - 2 ^ 64) / 16
        let n := (m.uid - 2 ^ 64) % 16
        match Tab.get? (s.cluster cl).pipes n with
        | none => s
        | some q =>
          if q.signalled < q.rounds then
            (s.modCluster cl (fun c => { c with pipes := Tab.set c.pipes n { q with signalled := q.signalled + 1 } })).setPhaser id (((s.phaser? id).getD p).modMember m.uid (fun m => { m with sig := true }))
          else s) s

/-- Signals the pipeline controllers owe. -/
def State.owed (s : State) : Nat :=
  s.clusters.foldl (fun n c => c.2.pipes.foldl (fun n p => n + (p.2.rounds - p.2.signalled)) n) 0

/-- Phases complete while controllers owe signals. -/
def State.completeGo : Nat → State → Nat → Bool → State
  | 0, s, _, _ => s
  | f + 1, s, id, forced =>
    let t := s.completeOnce id forced
    if (s.phaser? id).map (fun p => p.phase) = (t.phaser? id).map (fun p => p.phase) then t
    else
      let u := t.signalCtl id
      if u.owed = t.owed then t else State.completeGo f u id false

def State.completePhase (s : State) (id : Nat) (forced : Bool) : State := s.completeGo (s.owed + 1) id forced

/-- A task leaves a phaser: a signaller that has not signalled counts as signalling (R267); an orphan without members is freed
(R266). -/
def State.leavePhaser (s : State) (id uid : Nat) : State :=
  match s.phaser? id with
  | none => s
  | some p =>
    let s := s.setPhaser id { p with members := p.members.filter (fun m => m.uid != uid), counted := p.counted || (p.member? uid).any (fun m => m.sigMode) }
    let s := match p.member? uid with
      | some m => if m.sigMode ∧ ¬ m.sig then s.completePhase id true else s
      | none => s
    match s.phaser? id with
    | some p => if p.orphan ∧ p.members = [] then s.erasePhaser id else s
    | none => s

/-- A task that ends leaves every phaser, and those it created outlive it only while they have members (R118, R266). -/
def State.leaveAll (s : State) (uid : Nat) : State :=
  let ids := s.clusters.foldl (fun l c => l ++ c.2.phasers.map (fun p => c.1 * 512 + p.1)) []
  ids.foldl (fun s id =>
    match s.phaser? id with
    | none => s
    | some p =>
      let s := if p.creator = uid then s.setPhaser id { p with orphan := true } else s
      s.leavePhaser id uid) s

/-- Strict step groups whose advance an ended operation held back (R315). -/
def State.pokeGroups (s : State) : State :=
  let ids := s.clusters.foldl (fun l c => l ++ (c.2.phasers.filter (fun p => p.2.group.isSome)).map (fun p => c.1 * 512 + p.1)) []
  ids.foldl (fun s id => s.completePhase id false) s

/-- The phasers a task is a member of. -/
def State.phasersOf (s : State) (uid : Nat) : List Nat :=
  s.clusters.flatMap (fun c => (c.2.phasers.filter (fun p => (p.2.member? uid).isSome)).map (fun p => c.1 * 512 + p.1))

/-- A slot's step group: the one its task has been a member of longest (R317), as the phaser's id. -/
def State.stepGroup (s : State) (uid : Nat) : Option Nat :=
  let l := s.clusters.foldl (fun l c => l ++ c.2.phasers.filterMap (fun p =>
    match p.2.group, p.2.member? uid with
    | some _, some m => some (m.since, c.1 * 512 + p.1)
    | _, _ => none)) []
  (l.foldl (fun (b : Option (Nat × Nat)) x => match b with | none => some x | some y => if x.1 < y.1 then some x else b) none).map (fun x => x.2)

/-- The step register (R317). -/
def State.stepOf (s : State) (uid : Nat) : Nat :=
  match s.stepGroup uid with
  | none => 0
  | some id => match s.phaser? id with | some p => p.phase | none => 0

end Sys2Proof.Machine
end

