-- ==== Sys2Proof/Machine/Rounds.lean ====
section
/-! DEFINITION. Queues and pipelines as the rest of the part sees them: what they hold, the rounds complete (R165, R392), and their
end (R99, R165, R377). -/

namespace Sys2Proof.Machine

/-- The release frontier F (R379). -/
def DQueue.front (q : DQueue) : Nat := q.closes.foldl min (q.closes.headD 0)
def DQueue.storage (q : DQueue) : Nat := q.cap + 64 * q.chunks

/-- Chunks go back to the pool while occupancy allows (R378). -/
def DQueue.giveBack (q : DQueue) : DQueue :=
  { q with chunks := min q.chunks ((q.recs.length + 63 - q.cap) / 64) }

/-- Nothing is left in the queue (R165). -/
def DQueue.empty (q : DQueue) : Bool := q.recs.isEmpty && decide (q.front ≤ q.drained)

/-- Round r is complete at the queue: released, every record and round end of it delivered, and no task holds one (R392). -/
def DQueue.roundDone (q : DQueue) (r : Nat) : Bool := decide (r < q.drained) && !q.recs.any (fun x => x.round.toNat == r) && !q.holders.any (fun h => h.2 == r)
def PQueue.roundDone (q : PQueue) (r : Nat) : Bool :=
  decide (r < q.popped) && !q.items.any (fun i => match i with | .record x => x.round.toNat == r | .marker _ => false) && !q.holders.any (fun h => h.2 == r)

/-! ## Queues of the state, by handle bits 6:0 (R371) -/

def State.dq? (s : State) (cl h : Nat) : Option DQueue := if h < 64 then Tab.get? (s.cluster cl).dqs h else none
def State.pq? (s : State) (cl h : Nat) : Option PQueue := if 64 ≤ h ∧ h < 128 then Tab.get? (s.cluster cl).pqs (h - 64) else none
def State.setDq (s : State) (cl h : Nat) (q : DQueue) : State := s.modCluster cl (fun c => { c with dqs := Tab.set c.dqs h q })
def State.setPq (s : State) (cl h : Nat) (q : PQueue) : State := s.modCluster cl (fun c => { c with pqs := Tab.set c.pqs (h - 64) q })

/-- The task stops holding rounds of a queue (R386). -/
def State.unhold (s : State) (cl h uid : Nat) : State :=
  match s.dq? cl h, s.pq? cl h with
  | some q, _ => s.setDq cl h { q with holders := q.holders.filter (fun x => x.1 != uid) }
  | none, some q => s.setPq cl h { q with holders := q.holders.filter (fun x => x.1 != uid) }
  | none, none => s

/-- The task that retires stops holding everywhere (R394). -/
def State.unholdAll (s : State) (uid : Nat) : State :=
  { s with clusters := s.clusters.map (fun c => (c.1, { c.2 with dqs := c.2.dqs.map (fun q => (q.1, { q.2 with holders := q.2.holders.filter (fun x => x.1 != uid) })), pqs := c.2.pqs.map (fun q => (q.1, { q.2 with holders := q.2.holders.filter (fun x => x.1 != uid) })) })) }

/-- A status of a DQ instruction (R373), or of PIPEWAIT, reaches its register or, when nonzero, the inbox; the slot goes on. -/
def State.finish (s : State) (o : Op) (v : Nat) : State :=
  (s.resolve { o with mute := o.mute || (o.off.isNone && v % 256 == 0) } (r64 v) []).unblock o

/-- A launch's image leaves a cluster: its frames fall free, unless others use them (R99). -/
def Cluster.dropLaunch (c : Cluster) (lid : Word) : Cluster :=
  { c with
    frames := (c.frames.map (fun f => { f with users := f.users.filter (fun u => u != lid) })).filter (fun f => !f.users.isEmpty)
    images := c.images.filter (fun i => i.lid != lid) }

/-- A launch has a task in a cluster, running, saved or in a deque, or a pipeline there (R99). -/
def State.usesImage (s : State) (cl : Nat) (lid : Word) : Bool :=
  s.harts.any (fun p => isTask p.1 && clusterOf p.1 == cl && p.2.live && p.2.lid == lid) || s.saved.any (fun v => v.cid / 256 == cl && v.slot.lid == lid)
    || s.cores.any (fun c => c.1 / 256 == cl && c.2.deque.any (fun d => d.lid == lid))
    || (s.cluster cl).pipes.any (fun p => p.2.owner == lid || p.2.lid == lid)

/-- The image goes when its last user in the cluster is gone (R99). -/
def State.dropImage (s : State) (cl : Nat) (lid : Word) : State :=
  if s.usesImage cl lid then s else s.modCluster cl (fun c => c.dropLaunch lid)

/-- The stage tasks of a pipeline that is freed are no stage's any more: none of them counts for a later pipeline of the same handle (R165). -/
def State.unstage (s : State) (cl n : Nat) : State :=
  let off := fun (x : Slot) => if x.stage.any (fun r => r.pipe == n) then { x with stage := none } else x
  { s with harts := s.harts.map (fun p => if isTask p.1 ∧ clusterOf p.1 = cl then (p.1, off p.2) else p), saved := s.saved.map (fun v => if v.cid / 256 = cl then { v with slot := off v.slot } else v) }

/-- A pipeline is freed with its plain queues; a PIPEWAIT on it completes with a status (R165, R392). -/
def State.freePipe (s : State) (cl n status : Nat) : State :=
  let p := Tab.get? (s.cluster cl).pipes n
  let s := ((s.unstage cl n).modCluster cl (fun c => { c with pipes := Tab.erase c.pipes n, pqs := c.pqs.filter (fun q => q.2.pipe != n) })).leaveAll (ctlUid cl n)
  let s := s.ops.foldl (fun s o =>
    match o.kind with
    | .pipewait p _ => if o.cluster = cl ∧ p = n then s.setOp { o with kind := .value (r64 status) [] } else s
    | .dqpush hd _ | .dqpop hd _ =>
      if o.cluster = cl ∧ hd / 64 % 2 = 1 ∧ (Tab.get? (s.cluster cl).pqs (hd % 64)).isNone then s.finish o 6 else s
    | _ => s) s
  match p with
  | some p => (s.dropImage cl p.owner).dropImage cl p.lid
  | none => s

/-- A delta queue is freed, and every pipeline that names it with it (R377, R165); every waiting DQ instruction on it completes with status
6. -/
def State.freeQueue (s : State) (cl n : Nat) : State :=
  let s := (s.cluster cl).pipes.foldl (fun s p => if p.2.queues.any (fun q => q.handle == n) then s.freePipe cl p.1 1 else s) s
  let s := s.modCluster cl (fun c => { c with dqs := Tab.erase c.dqs n })
  s.ops.foldl (fun s o =>
    match o.kind with
    | .dqpush hd _ | .dqpop hd _ => if o.cluster = cl ∧ hd = n then s.finish o 6 else s
    | _ => s) s

/-! ## Pipelines: rounds and idleness (R165, R392) -/

def State.queueDone (s : State) (cl r : Nat) (q : PipeQueue) : Bool :=
  match s.dq? cl q.handle, s.pq? cl q.handle with
  | some d, _ => d.roundDone r
  | none, some p => p.roundDone r
  | none, none => false

def State.queueEmpty (s : State) (cl : Nat) (q : PipeQueue) : Bool :=
  match s.dq? cl q.handle, s.pq? cl q.handle with
  | some d, _ => d.empty
  | none, some p => p.items.isEmpty
  | none, none => true

/-- Tasks of a pipeline's stage, running or saved; of every stage with `none`. -/
def State.stageTasks (s : State) (cl pipe : Nat) (stage : Option Nat) : Nat :=
  let mine := fun (x : Slot) => match x.stage with | some r => r.pipe == pipe && (stage.isNone || stage == some r.stage) | none => false
  (s.harts.filter (fun p => isTask p.1 && clusterOf p.1 == cl && p.2.live && mine p.2)).length + (s.saved.filter (fun v => v.cid / 256 == cl && mine v.slot)).length

/-- Rounds that are complete now (R392). -/
def State.roundsGo (s : State) (cl : Nat) (qs : List PipeQueue) : Nat → Nat → Nat
  | 0, r => r
  | f + 1, r => if qs ≠ [] ∧ qs.all (s.queueDone cl r) then State.roundsGo s cl qs f (r + 1) else r

/-- The controller of a pipeline looks again (R165, R392): complete rounds are counted and signalled, and with the pipeline idle
its PIPEWAITs end. -/
def State.pokePipe (s : State) (cl n : Nat) : State :=
  match Tab.get? (s.cluster cl).pipes n with
  | none => s
  | some p =>
    let most := p.queues.foldl (fun m q => match s.dq? cl q.handle, s.pq? cl q.handle with | some d, _ => max m d.drained | none, some d => max m d.popped | none, none => m) 0
    let r := s.roundsGo cl p.queues (most + 1) p.rounds
    let s := if r = p.rounds then s else s.modCluster cl (fun c => { c with pipes := Tab.set c.pipes n { p with rounds := r } })
    let s := if p.joined then let t := s.signalCtl p.done; (if t.owed = s.owed then s else t.completePhase p.done false) else s
    let waits := s.ops.filter (fun o => o.cluster == cl && (match o.kind with | .pipewait q _ => q == n | _ => false))
    if waits ≠ [] ∧ s.stageTasks cl n none = 0 ∧ p.queues.all (s.queueEmpty cl) then
      let free := waits.any (fun o => match o.kind with | .pipewait _ f => f | _ => false)
      let s := waits.foldl (fun s o => s.setOp { o with kind := .value 0 [] }) s
      if free then s.freePipe cl n 0 else s
    else s

def State.pokePipes (s : State) (cl : Nat) : State := (s.cluster cl).pipes.foldl (fun s p => s.pokePipe cl p.1) s

end Sys2Proof.Machine
end

