-- ==== Sys2Proof/Machine/Tiles.lean ====
section
/-! DEFINITION. The storage of panels (R342, R344), and how a QNT takes a tile (R343, R366 to R368). -/

namespace Sys2Proof.Machine

/-! ## Addresses -/

/-- The offset of an address the checks have let through. -/
def offset (a : Reg64) : Nat := bits a 0 48

/-- An address as one number: the own part's offset, or 2^53 and up for another part; 2^54 names nothing (R220). -/
def State.keyOf (s : State) (a : Reg64) : Nat :=
  match s.address a with
  | some (off, none) => off
  | some (off, some p) => 2 ^ 53 + p * 2 ^ 48 + off
  | none => 2 ^ 54

/-! ## Panel storage (R342, R344) -/

def slotBase (p n : Nat) : Nat := (p * 16 + n) * 16896
def scaleBase (p n : Nat) : Nat := slotBase p n + 16384
def tileBase (p n : Nat) : Nat := (p * 8 + n) * 16384

def Panel.slot (x : Panel) (n : Nat) : OperandSlot := Tab.getD x.slots n {}
def Panel.tile (x : Panel) (n : Nat) : Tile := Tab.getD x.tiles n {}
def Panel.sem (x : Panel) (n : Nat) : Nat := Tab.getD x.sems n 0
def Panel.setTile (x : Panel) (n : Nat) (t : Tile) : Panel := { x with tiles := Tab.set x.tiles n t }

/-- A tile takes a format, valid; an FP64 tile takes its odd neighbour too (R342, R359). -/
def Panel.retag (x : Panel) (n : Nat) (t : TileTag) : Panel :=
  let x := x.setTile n { tag := t }
  if t = .fp64 then x.setTile (n + 1) { tag := t } else x

/-- Claimed, and not being released (R344). -/
def OperandSlot.claimed (q : OperandSlot) : Bool := q.claim.isSome && !q.releasing

def Panel.tileWidth (t : TileTag) : Nat := if t = .fp64 then 8 else 4

/-- Element (i, j) of a tile under a format. -/
def tileAt (p n : Nat) (t : TileTag) (q : Nat) : Nat := tileBase p n + Panel.tileWidth t * q

/-! ## Rectangles (R352, R361) -/

def mxRect (w1 : Reg64) : Nat := bits w1 8 8

/-- The members of a rectangle with their places (u, v), as panels of the part. -/
def rectMembers (cl : Nat) (r : Nat × Nat × Nat × Nat × Nat) : List (Nat × Nat × Nat) :=
  (List.range r.2.2.2.1).flatMap (fun u => (List.range r.2.2.2.2).map (fun v => (cl * 32 + (r.2.1 + u) * 8 + r.2.2.1 + v, u, v)))

/-- The rectangle of an id that contains a panel. -/
def State.rectOf (s : State) (p id : Nat) : Option (Nat × Nat × Nat × Nat × Nat) :=
  match Tab.get? (s.cluster (p / 32)).rects id with
  | some r => if (rectMembers (p / 32) r).any (fun m => m.1 == p) then some r else none
  | none => none

/-! ## The tile of a QNT -/

/-- The words of a tile, as a QNT takes them: 4,096 elements, after its tag and mark (R367). -/
def State.tileWords (s : State) (p n : Nat) : List Reg64 :=
  let t := (s.panel p).tile n
  (if t.invalid then 3 else if t.tag = .fp32 then 0 else 4) :: (List.range 4096).map (fun q => r64 (Mem.read s.accMem (tileAt p n .fp32 q) 4))

/-! ## The block (R366) -/

structure QntBlock where
  dst : Reg64
  stride : Nat
  sadr : Reg64
  cols : Nat
  rows : Nat
  tile : Nat
  panel : Nat
  rnd : Nat
  ofmt : Nat
  sfmt : Nat
  pad : Bool
  deriving DecidableEq, Repr

def QntBlock.ofWords (w : List Reg64) : QntBlock :=
  let c := w.getD 0 0
  ⟨w.getD 3 0, (w.getD 2 0).toNat, w.getD 1 0, bits c 40 8, bits c 32 8, bits c 24 3, bits c 16 5, bits c 12 3, bits c 8 4, bits c 4 4, bits c 0 1 == 1⟩

/-- A reserved bit or a reserved code (code 8). -/
def qntReserved (w : List Reg64) : Bool :=
  let c := w.getD 0 0
  let q := QntBlock.ofWords w
  (List.range 4).any (fun i => w.getD (4 + i) 0 != 0) || bits c 48 16 != 0 || bits c 27 5 != 0 || bits c 21 3 != 0 || bits c 15 1 != 0 || bits c 1 3 != 0
    || decide (4 < q.rnd) || (q.ofmt != 3 && q.ofmt != 4) || (if q.pad then q.sfmt != 7 && q.sfmt != 5 else q.sfmt != 0 || q.stride != 0 || q.sadr != 0)

def QntBlock.size (q : QntBlock) : Nat := if q.sfmt = 5 then 2 else 4

/-- A shape, alignment or source out of range (code 9): the source lies in the issuing cluster's scratchpads. -/
def State.qntRange (s : State) (cl : Nat) (pid : BitVec 16) (q : QntBlock) : Bool :=
  let src := s.keyOf q.sadr
  let last := src + (q.rows - 1) * q.stride + q.cols * q.size
  (if q.ofmt = 3 then q.cols != 32 && q.cols != 64 else q.cols != 64) || decide (q.rows = 0) || decide (64 < q.rows)
    || (if q.ofmt = 3 then !runStart (offset q.dst) else offset q.dst % 64 != 0)
    || (q.pad && (q.sadr.toNat % q.size != 0 || q.stride % q.size != 0 || !onChip src || clusterOfAddr src != cl || decide ((cl + 1) * 2 ^ 24 < last) || !s.holds pid cl))
    || (!q.pad && s.panelsOut.contains (cl * 32 + q.panel))

/-- The code of a command's block and tile (R368): the tile's own where it has one, from the words the command took. -/
def State.qntCode (s : State) (cl : Nat) (pid : BitVec 16) (w reply : List Reg64) : Nat :=
  if qntReserved w then 8 else if s.qntRange cl pid (QntBlock.ofWords w) then 9 else if (QntBlock.ofWords w).pad then 0 else (reply.headD 0).toNat

/-- A command takes its tile, in its place in the panel order, and marks it where the command is in error (R343, R368). -/
def State.qntTakes (s : State) (cl : Nat) (o : Op) (w : List Reg64) : State :=
  let q := QntBlock.ofWords w
  let p := cl * 32 + q.panel
  let words := s.tileWords p q.tile
  let s := s.setOp { o with reply := words }
  if s.qntCode cl o.pid w words = 0 ∨ s.panelsOut.contains p then s else s.modPanel p (fun x => x.setTile q.tile { (x.tile q.tile) with invalid := true })

/-- A running QNT that waited for an operation goes on when the last of them has ended (R367). -/
def State.qntAfter (s : State) (cl id : Nat) : State :=
  match (s.cluster cl).qntRun.bind s.op? with
  | some o => match o.kind with
    | .qnt b r words waits =>
      if ¬ waits.contains id then s
      else
        let l := waits.filter (fun x => x != id)
        let o := { o with kind := .qnt b r words l }
        if l = [] then s.qntTakes cl o words else s.setOp o
    | _ => s
  | none => s

end Sys2Proof.Machine
end

