-- ==== Sys2Proof/Machine/Life.lean ====
section
/-! DEFINITION. The end of tasks and launches, cancellation, and the trap with its watch (R95, R101, R118, R122, R369). -/

namespace Sys2Proof.Machine

/-! ## The end of a task (R118, R346, R364) -/

/-- An operand slot is read by a started operation, or an OFILL into it is in flight (R343, R346). -/
def State.slotBusy (s : State) (p n : Nat) : Bool :=
  s.ops.any (fun o => match o.kind with
    | .mx _ _ _ _ reads => reads.contains (16 * p + n)
    | .ofill q ctl _ => q == p && bits ctl 0 4 == n
    | _ => false)

/-- Releasing slots that nothing uses any more become free (R346). -/
def State.sweepSlots (s : State) (p : Nat) : State :=
  s.modPanel p (fun x => { x with slots := x.slots.map (fun q => if q.2.releasing ∧ ¬ s.slotBusy p q.1 then (q.1, { q.2 with claim := none, releasing := false }) else q) })

/-- A committed or running operation of a rectangle (R361, R364). -/
def State.rectBusy (s : State) (cl id : Nat) : Bool :=
  s.ops.any (fun o => match o.kind with | .mx p _ w1 _ _ => p / 32 == cl && bits w1 8 8 == id && o.stage != 9 | _ => false)

/-- The task is in a slot or saved. -/
def State.exists (s : State) (uid : Nat) : Bool := s.harts.any (fun p => p.2.live && p.2.uid == uid) || s.saved.any (fun v => v.slot.uid == uid)

/-- Rectangles whose task is gone dissolve once none of their operations is left (R364). -/
def State.sweepRects (s : State) (cl : Nat) : State :=
  s.modCluster cl (fun c => { c with rects := c.rects.filter (fun r => s.exists r.2.1 || s.rectBusy cl r.1) })

/-- A share moves when a task of the donor stage exits (R116). -/
def Pipe.exit (p : Pipe) (stage : Nat) : Pipe :=
  match p.move with
  | some (d, r) => if d = stage then { p with shares := p.shares.mapIdx (fun i n => if i = d then n - 1 else if i = r then n + 1 else n), move := none } else p
  | none => p

/-- Shadows withdrawn from a task that goes never run (R364); a QNT that waited for one takes its tile (R367). -/
def State.dropShadows (s : State) (cl uid : Nat) : State :=
  let gone := fun (o : Op) => o.task == uid && o.stage == 9 && (match o.kind with | .mx _ _ _ _ _ => true | _ => false)
  (s.ops.filter gone).foldl (fun s o => s.qntAfter cl o.id) { s with ops := s.ops.filter (fun o => !gone o) }

/-- What ends with a task that has left its slot and is not saved (R118, R264, R364, R386). -/
def State.endTask (s : State) (cid uid : Nat) (x : Slot) : State :=
  let cl := cid / 256
  let s := ((s.leaveAll uid).unholdAll uid).dropShadows cl uid
  let s := (s.modPanel (cid / 8) (fun p => { p with slots := p.slots.map (fun q => if q.2.claim = some uid then (q.1, { q.2 with releasing := true }) else q) })).sweepSlots (cid / 8)
  let s := s.sweepRects cl
  let s := match x.stage with
    | some r => s.modCluster cl (fun c => { c with pipes := c.pipes.map (fun (p : Nat × Pipe) => if p.1 = r.pipe then (p.1, p.2.exit r.stage) else p) })
    | none => s
  (s.dropImage cl x.lid).pokePipes cl

/-! ## Retirement of launches and cancellation (R95, R101, R122) -/

def State.launchDead (s : State) (l : Launch) : Bool := l.cancelled || s.isCancelled l.token

/-- Some task of the launch runs, is saved or waits in a deque. -/
def State.hasTasks (s : State) (lid : Word) : Bool :=
  s.harts.any (fun p => isTask p.1 && p.2.live && p.2.lid == lid) || s.saved.any (fun v => v.slot.lid == lid)
    || s.cores.any (fun c => c.2.deque.any (fun d => d.lid == lid))

/-- The completion notice of R101. -/
def State.notice (s : State) (l : Launch) (status : Nat) : State :=
  let w0 := r64 (l.lid.toNat + status * 2 ^ 32)
  let w1 := r64 l.ran
  if ¬ l.notify then s
  else match l.origin with
    | .task h uid => s.deliverMsg h uid [w0, w1]
    | .ring die n =>
      match s.rings.find? (fun r => r.die == die && r.n == n) with
      | some r => s.interrupt r.vec w0 w1
      | none => s
    | .firmware => s

/-- Plastic regions leave the tables (R303); PLDROPs that waited for one are done. -/
def State.keepRegions (s : State) (keep : Region → Bool) : State :=
  let l := s.regions.filter keep
  { s with regions := l, ops := s.ops.map (fun o => match o.kind with | .pldrop b => if l.any (fun r => r.base == b) then o else { o with kind := .value 0 [] } | _ => o) }

/-- A launch retires (R101), and what lives with it is freed (R99, R165, R303, R320, R377). -/
def State.retireLaunch (s : State) (l : Launch) : State :=
  let s := s.keepRegions (fun r => r.lid != l.lid)
  let s : State := { s with launches := s.launches.filter (fun x => x.lid != l.lid), cores := s.cores.map (fun c => (c.1, { c.2 with ring := c.2.ring.filter (fun r => r.lid != l.lid) })) }
  let s := s.clusters.foldl (fun s c =>
    let s := c.2.pipes.foldl (fun s p => if p.2.owner = l.lid then s.freePipe c.1 p.1 1 else s) s
    let s := c.2.dqs.foldl (fun s q => if q.2.lid = l.lid then s.freeQueue c.1 q.1 else s) s
    s.modCluster c.1 (fun c => c.dropLaunch l.lid)) s
  s.notice l (if s.launchDead l then 1 else 0)

def State.held (s : State) (lid : Word) : Bool := s.launches.any (fun l => l.lid == lid)

/-- A launch becomes eligible (R95). -/
def State.makeEligible (s : State) (l : Launch) : Launch :=
  if l.eligible.isNone ∧ ¬ s.launchDead l ∧ (l.pred0 = 0 ∨ ¬ s.held l.pred0) ∧ (l.pred1 = 0 ∨ ¬ s.held l.pred1) then
    { l with eligible := some s.clk, waitFrom := s.clk }
  else l

def State.canRetire (s : State) (l : Launch) : Bool :=
  !s.hasTasks l.lid && (s.launchDead l || (l.eligible.isSome && decide (l.count ≤ l.next)))

/-- Eligibility and retirement evaluated until nothing changes (R95, R101). -/
def State.settleGo : Nat → State → State
  | 0, s => s
  | f + 1, s =>
    let s : State := { s with launches := s.launches.map s.makeEligible }
    match s.launches.find? s.canRetire with
    | none => s
    | some l => State.settleGo f (s.retireLaunch l)

def State.settle (s : State) : State := s.settleGo (s.launches.length + 1)

/-- Saved tasks that are cancelled retire directly (R122). -/
def State.dropSaved (s : State) : State :=
  let gone := s.saved.filter (fun v => s.taskDead v.slot)
  let s : State := { s with saved := s.saved.filter (fun v => !s.taskDead v.slot) }
  gone.foldl (fun s v => s.endTask v.cid v.slot.uid v.slot) s

/-- A token is cancelled (R122): queued launches are not placed, saved tasks bearing it retire, launches retire when none of
their tasks is left. Token 0 is never cancelled. -/
def State.cancelToken (s : State) (t : Word) : State :=
  if t = 0 then s
  else ({ s with tokens := if s.tokens.contains t then s.tokens else s.tokens ++ [t] } : State).dropSaved.settle

/-- A launch is treated as cancelled, for itself alone (R286, R293). -/
def State.cancelLaunch (s : State) (lid : Word) : State :=
  ({ s with launches := s.launches.map (fun l => if l.lid = lid then { l with cancelled := true } else l) } : State).dropSaved.settle

/-- A trap with the effects of the non-finite watch (R369, R416): cause 0x09 also cancels the token of the task, or of the
routine's caller. -/
def State.trapAt (s : State) (h cause : Nat) (val pc : Reg64) (iw : Word) : State :=
  let x := s.slot h
  let t := match x.routine with | some r => r.ctok | none => x.ctok
  let s := s.deliver h cause val pc iw
  if cause = 9 ∧ x.watch then s.cancelToken t else s

/-- A write that left a monitored word different, as its slot sees the word (R223), completes its WAITW (R252). -/
def State.wakeMonitors (s : State) : State :=
  s.ops.foldl (fun s o =>
    match o.kind with
    | .waitw a v true => if o.stage = 1 ∧ Mem.read (s.viewBefore o) a 8 ≠ v then s.unblock o else s
    | _ => s) s

/-- Scratchpad bytes written at their homes, and the monitors they wake (R252). -/
def State.writeSpms (s : State) (l : List (Nat × Nat × Nat)) : State := (l.foldl (fun s e => s.writeSpm e.1 e.2.1 e.2.2) s).wakeMonitors

/-- A change of a request buffer wait: the operation's slot leaves the buffer. -/
def State.bufUsed (s : State) (cid : Nat) : Nat := (s.ops.filter (fun o => o.buf && isCore o.owner && cidOf o.owner == cid)).length
/-- Call records of a slot in use: of calls and atomics under way, and of replies held for its inbox (R329, R335, R341). -/
def State.callsUsed (s : State) (h : Nat) : Nat :=
  (s.ops.filter (fun o => o.call && o.owner == h)).length + ((s.slot h).held.filter (fun m => (m.headD 0).toNat / 2 ^ 60 == 2)).length

end Sys2Proof.Machine
end

