-- ==== Sys2Proof/Machine/Service.lean ====
section
/-! DEFINITION. Units that leave service: the times of their events, and what becomes of work in flight (R26, R292, R293). -/

namespace Sys2Proof.Machine

/-- A core is out of service: it has left itself, or its cluster has (R293, log 73). A global core id above 16383 names no core (R2). -/
def State.coreOut (s : State) (cid : Nat) : Bool := decide (16384 ≤ cid) || s.coresOut.contains cid || s.clustersOut.contains (cid / 256)

/-- A launch with work on units that leave is marked cancelled (R293). -/
def State.cancelAll (s : State) (lids : List Word) : State := lids.foldl (fun s l => s.cancelLaunch l) s

/-- The kind-5 record of a unit of a cluster (R285). -/
def State.leaveRecord (s : State) (cl ukind unit : Nat) : State := s.record cl { time := 0, seq := 0, unit := unit, ukind := ukind, kind := 5 }

/-- A routine is stopped because its unit left service (R293, R336): status 0x0F, detail 3. -/
def State.dropRoutine (s : State) (h : Nat) : State :=
  match (s.slot h).routine with
  | some r => s.endRoutine h 0xF [3, r64 (((s.slot h).pc - r.entry).toNat % 2 ^ 32 * 2 ^ 32)]
  | none => s

/-! ## What a nib writes (R237, R334) -/

/-- A nib folds the cluster sums it holds for an address into memory, clusters in ascending order (R237). -/
def foldSums : List NibSum → Nat → Nat
  | [], v => v
  | q :: l, v =>
    let f := if q.fp64 then fp64 else fp32
    foldSums l (f.round .rne false 0 (exactSum false [f.decode v, f.decode q.val]).1).bits

/-- Insertion in order of cluster number. -/
def insertSum (q : NibSum) : List NibSum → List NibSum
  | [] => [q]
  | p :: l => if q.cluster < p.cluster then q :: p :: l else p :: insertSum q l

/-- The fold of R237 at every address that bytes [p, p+n) of physical memory touch, before an access to them. -/
def State.foldAt (s : State) (p n : Nat) : State :=
  let hits := fun (q : NibSum) => overlaps q.phys (if q.fp64 then 8 else 4) p n
  s.nibs.foldl (fun s nb =>
    let mine := nb.2.sums.filter hits
    let s := s.modNib nb.1 (fun x => { x with sums := x.sums.filter (fun q => !hits q) })
    (mine.foldl (fun l q => insertSum q l) []).foldl (fun s q =>
      let k := if q.fp64 then 8 else 4
      { s with ext := Mem.write s.ext q.phys k (foldSums [q] (Mem.read s.ext q.phys k)) }) s) s

/-- A write at a home, a byte of the nibs' local stores or 2^60 and up a physical address: there the nib's sums are folded first (R237), and a
storage error in the words of a local store that it writes ends (R290). -/
def State.putHome (s : State) (a n v : Nat) : State :=
  if 2 ^ 60 ≤ a then let s := s.foldAt (a - 2 ^ 60) n; { s with ext := Mem.write s.ext (a - 2 ^ 60) n v }
  else { s with nibMem := Mem.write s.nibMem a n v, softErrors := s.softErrors.filter (fun e => match e with | .nibStore k b _ => !overlaps (k * 65536 + b / 8 * 8) 8 a n | _ => true) }

/-- A nib that leaves service in the middle of a vector store has made it whole (R185). -/
def State.finishStore (s : State) (h : Nat) : State :=
  match (s.slot h).parts with
  | some q => if q.dst.isNone then q.left.foldl (fun s p => s.putHome p.2.1 q.size p.2.2) s else s
  | none => s

/-! ## Units that leave service (R293) -/

/-- Regions of a core are skipped by every REWARD that has not finished with them: status 0x0F (R313). -/
def State.skipRegions (s : State) (c : Nat) : State :=
  let l := s.regions.filter (fun r => coreOfAddr r.base == c)
  let hit := fun (o : Op) => match o.kind with | .reward _ _ _ _ arm => l.any (fun r => r.armed.contains o.id || arm.contains r.base) | _ => false
  ({ s with ops := s.ops.map (fun o => if hit o then { o with status := 0xF } else o) } : State).keepRegions (fun r => coreOfAddr r.base != c)

/-- A task of a core that leaves retires, with a kind-5 record (R293). -/
def State.retireOnLeave (s : State) (h : Nat) : State :=
  let x := s.slot h
  let s := s.record (clusterOf h) (x.recordOf h 5 0 0 x.pc)
  let s := match x.blocked with | some id => s.dropOp id | none => s
  s.modSlot h (Slot.beginRetire s.clk)

/-- A core leaves service (R293). -/
def State.coreLeaves (s : State) (c : Nat) : State :=
  if s.coresOut.contains c then s
  else
    let run := (s.harts.filter (fun (p : Nat × Slot) => isTask p.1 && cidOf p.1 == c && p.2.live)).map (fun p => (p.1, p.2.lid))
    let kept := s.saved.filter (fun v => v.cid == c)
    let kids := (s.core c).deque
    let s := ({ s with coresOut := insertNat c s.coresOut, saved := s.saved.filter (fun v => v.cid != c) } : State).leaveRecord (c / 256) 13 c
    let s := run.foldl (fun s p => s.retireOnLeave p.1) s
    let s := kept.foldl (fun s v => (s.record (c / 256) (v.slot.recordOf (hartOf c v.sl) 5 0 0 v.slot.pc)).endTask c v.slot.uid v.slot) s
    let s := (s.dropRoutine (hartOf c 4)).skipRegions c
    let s := s.modCore c (fun x => { x with deque := [], ring := none })
    let s := kids.foldl (fun s d => s.dropImage (c / 256) d.lid) s
    (s.cancelAll (run.map (fun p => p.2) ++ kept.map (fun v => v.slot.lid))).settle

/-- A matrix operation of a panel that leaves completes with status 0x10; the spec gives no code for it: a free value (log 2). -/
def State.dropMx (s : State) (p : Nat) : State :=
  s.ops.foldl (fun s o =>
    match o.kind with
    | .mx q _ _ _ _ =>
      if q = p then
        let f := s.freeVal
        let code := f.1.toNat % 2 ^ 31
        let s := f.2.record o.cluster { time := 0, seq := 0, tid := o.tid, ctok := o.ctok, lid := o.lid, info := r64 code, pc := o.pc, unit := p, ukind := 4, cid := cidOf o.owner, kind := 3, cause := 0x10, status := 0x10, slot := slOf o.owner }
        ((s.resolve o (r64 (code * 256 + 0x10)) []).dropOp o.id).qntAfter (p / 32) o.id
      else s
    | _ => s) s

/-- A panel leaves service, with its cores (R293). -/
def State.panelLeaves (s : State) (p ukind : Nat) : State :=
  if s.panelsOut.contains p then s
  else
    let s := (({ s with panelsOut := insertNat p s.panelsOut } : State).leaveRecord (p / 32) ukind p).dropMx p
    let s := (s.modPanel p (fun x => { x with committed := none, running := none })).sweepRects (p / 32)
    (List.range 8).foldl (fun s i => s.coreLeaves (p * 8 + i)) s

/-- A nib leaves service: calls and atomics to its channel complete with status 0x0F (R293). -/
def State.nibLeaves (s : State) (n : Nat) : State :=
  if s.nibsOut.contains n then s
  else
    let s := ({ s with nibsOut := insertNat n s.nibsOut } : State).recordMgmt { time := 0, seq := 0, unit := n, ukind := 6, kind := 5 }
    let s := (s.finishStore (nibHart n)).dropRoutine (nibHart n)
    let mine := fun (a : Reg64) => match s.address a with | some (off, none) => decide (0x40000000 ≤ off) && off / 65536 % 256 == n | _ => false
    { s with ops := s.ops.map (fun o => match o.kind with
        | .rcall _ _ _ _ u => if u = nibHart n ∧ o.stage < 3 then { o with stage := 3, buf := false, die := dieOf o.owner, status := 0xF, reply := [3, r64 (0xFFFFFFFF * 2 ^ 32)] } else o
        | .atomic _ _ a _ _ _ _ _ _ => if mine a = true ∧ o.stage = 0 then { o with stage := 1, buf := false, die := dieOf o.owner, status := 0xF, reply := [0] } else o
        | _ => o) }

/-- An engine of a cluster leaves service, and the cluster with it (R293): every launch with a task there, running, saved or in a
deque, is marked cancelled. Its plastic regions stay in their sets (R303; log 73, the model's choice). -/
def State.clusterLeaves (s : State) (cl ukind : Nat) : State :=
  if s.clustersOut.contains cl then s
  else
    let run := (s.harts.filter (fun (p : Nat × Slot) => isTask p.1 && clusterOf p.1 == cl && p.2.live)).map (fun p => p.2.lid)
    let kept := (s.saved.filter (fun v => v.cid / 256 == cl)).map (fun v => v.slot.lid)
    let kids := (s.cores.filter (fun (c : Nat × CoreState) => c.1 / 256 == cl)).flatMap (fun c => c.2.deque.map (fun d => d.lid))
    (({ s with clustersOut := insertNat cl s.clustersOut } : State).leaveRecord cl ukind cl).cancelAll (run ++ kept ++ kids)

/-- A station's cache is turned off (R293). -/
def State.stationOff (s : State) (n : Nat) : State :=
  { s with stations := Tab.set s.stations n { (Tab.getD s.stations n {}) with cache := [], off := true } }

/-- The ends of die link l, of the routers at one position of two dies, as die×8 + router (R12): links 8i to 8i + 7 join the i-th pair of
dies. Links 48 to 63 are the Wepin ports (R400). -/
def linkEnds (l : Nat) : Nat × Nat :=
  let d : Nat × Nat := [(0, 1), (0, 2), (0, 3), (1, 2), (1, 3), (2, 3)].getD (l / 8) (0, 0)
  (d.1 * 8 + l % 8, d.2 * 8 + l % 8)

/-- The record of a link's event (R284, R285): the near end's router as its unit, the far router as its info. A port's unit is 32 + its
number (log 69). `back` names the second end as the near one. -/
def State.linkRecord (s : State) (l kind : Nat) (back : Bool) : State :=
  let e := linkEnds l
  if 48 ≤ l then s.recordMgmt { time := 0, seq := 0, unit := 32 + (l - 48), ukind := 8, kind := kind }
  else s.recordMgmt { time := 0, seq := 0, unit := if back then e.2 else e.1, info := r64 (if back then e.1 else e.2), ukind := 8, kind := kind }

/-- A die link or a port leaves service (R26, R27, R293): what its buffers held goes out again by the way through a third die (R404), and
a port's bit in cap.ports clears. -/
def State.linkLeaves (s : State) (l : Nat) : State :=
  let x := Tab.getD s.links l {}
  if x.down then s
  else ({ s with links := Tab.set s.links l { x with down := true, chans := [] }, ports := if 48 ≤ l then s.ports &&& ~~~(BitVec.ofNat 16 (2 ^ (l - 48))) else s.ports } : State).linkRecord l 5 false

/-- A stack leaves service (R26, R411). Its kind-5 record bears ukind 9, a stack channel's, and the stack's own number 0 to 7: R284 has no kind for a
stack and R293 no row (log 69, the model's choice). -/
def State.stackLeaves (s : State) (t : Nat) : State :=
  if s.stacksOut.contains t then s
  else ({ s with stacksOut := insertNat t s.stacksOut } : State).recordMgmt { time := 0, seq := 0, unit := t, ukind := 9, kind := 5 }

/-! ## Events of units (R292) -/

/-- The numbers of the units that events are counted for and that leave service: 0 core c, 16384 + panel (its matrix engine and operand
memory), 18432 + nib, 18688 + link, 18752 + cluster (its copy engine), 18816 + station, 18848, 18912 and 18976 + cluster (its
quantisation engine, sync engine and delta-queue controller), 19040 + panel (its inkwell), 21088 + stack, 21096 + UCIe module. -/
def State.unitLeaves (s : State) (u : Nat) : State :=
  if u < 16384 then s.coreLeaves u
  else if u < 18432 then s.panelLeaves (u - 16384) 4
  else if u < 18688 then s.nibLeaves (u - 18432)
  else if u < 18752 then s.linkLeaves (u - 18688)
  else if u < 18816 then s.clusterLeaves (u - 18752) 2
  else if u < 18848 then s.stationOff (u - 18816)
  else if u < 18912 then s.clusterLeaves (u - 18848) 3
  else if u < 18976 then s.clusterLeaves (u - 18912) 11
  else if u < 19040 then s.clusterLeaves (u - 18976) 12
  else if u < 21088 then s.panelLeaves (u - 19040) 5
  else if u < 21096 then s.stackLeaves (u - 21088)
  else if u < 21098 then { s with modulesOut := insertNat (u - 21096) s.modulesOut }
  else s

/-- The cluster of an engine that has no storage of its own in the state, with its kind and its number in a record (R284). -/
def engineOf (u : Nat) : Option (Nat × Nat × Nat) :=
  if 18752 ≤ u ∧ u < 18816 then some (u - 18752, 2, u - 18752)
  else if 18848 ≤ u ∧ u < 18912 then some (u - 18848, 3, u - 18848)
  else if 18912 ≤ u ∧ u < 18976 then some (u - 18912, 11, u - 18912)
  else if 18976 ≤ u ∧ u < 19040 then some (u - 18976, 12, u - 18976)
  else if 19040 ≤ u ∧ u < 21088 then some ((u - 19040) / 32, 5, u - 19040)
  else none

/-- A fourth event less than 64 ms after the first of the four: the fault is lasting (R292). -/
def State.lasting (s : State) (u : Nat) : Bool :=
  match Tab.getD s.unitTimes u [] with
  | [a, _, _, d] => decide (a - d < 64000000)
  | _ => false

/-- One event of a unit: the times of its last four are kept, and a lasting fault takes it out of service (R26, R292). -/
def State.noteUnit (s : State) (u : Nat) : State :=
  let s : State := { s with unitTimes := Tab.set s.unitTimes u ((s.ns :: Tab.getD s.unitTimes u []).take 4) }
  if s.lasting u then s.unitLeaves u else s

/-- One event of an engine of a cluster, whose first is unit `base`; the model's own cluster 64 of the control cores has no numbered engine
that could leave service (log 8). -/
def State.noteEngine (s : State) (base cl : Nat) : State := if cl < 64 then s.noteUnit (base + cl) else s

/-! ## Storage errors (R290) -/

/-- A double-bit error in a 64-bit word of the scratchpads that bytes [a, a + n) meet: the first of those bytes in it. -/
def State.eccDouble (s : State) (a n : Nat) : Option Nat :=
  s.softErrors.findSome? (fun e => match e with | .storage b true => if overlaps (b / 8 * 8) 8 a n then some (max a (b / 8 * 8)) else none | _ => none)

/-- The kind-4 record of a scratchpad word (R285). -/
def State.spmRecord (s : State) (b : Nat) : State :=
  s.record (b / 2 ^ 24) { time := 0, seq := 0, val := r64 b, unit := b / 2 ^ 16, ukind := 13, kind := 4, cause := 8 }

/-- The single-bit errors in those words are corrected in place, each with its record and an event of the core (R290, R292). -/
def State.eccCorrect (s : State) (a n : Nat) : State :=
  let hit := fun (e : SoftError) => match e with | .storage b false => overlaps (b / 8 * 8) 8 a n | _ => false
  let l := s.softErrors.filter hit
  l.foldl (fun s e => match e with | .storage b _ => (s.spmRecord b).noteUnit (b / 2 ^ 16) | _ => s) { s with softErrors := s.softErrors.filter (fun e => !hit e) }

/-- The granules of physical bytes [p, p + n) with an error (R290). -/
def State.granuleBad (s : State) (p n : Nat) : Bool :=
  s.softErrors.any (fun e => match e with | .granule g _ => overlaps (64 * g) 64 p n | _ => false)

/-- Granules of external memory read by what reads them no second time (R290): each error has its record (R285), and one that a second reading
would not meet is gone. Whether there was one. No replay, it counts no event of its own. -/
def State.granulesRead (s : State) (p n : Nat) : State × Bool :=
  let hit := fun (e : SoftError) => match e with | .granule g _ => overlaps (64 * g) 64 p n | _ => false
  let l := s.softErrors.filter hit
  (l.foldl (fun s e => match e with | .granule g _ => s.recordMgmt { time := 0, seq := 0, val := r64 (64 * g), unit := g / 1024 % 256, ukind := 9, kind := 4, cause := 8 } | _ => s)
    { s with softErrors := s.softErrors.filter (fun e => !(hit e && (match e with | .granule _ tw => !tw | _ => false))) }, !l.isEmpty)

/-- Events of a cluster's engines, met before the next instruction of a hart of the cluster (R291, R292, log 11): of each a kind-4 record
and its count. -/
def State.engineEvents (s : State) (cl : Nat) : State :=
  let mine := fun (e : SoftError) => match e with | .engine u => (engineOf u).any (fun x => x.1 == cl) | _ => false
  let l := s.softErrors.filter mine
  l.foldl (fun s e => match e with
    | .engine u => match engineOf u with
      | some x => (s.record cl { time := 0, seq := 0, unit := x.2.2, ukind := x.2.1, kind := 4, cause := 8 }).noteUnit u
      | none => s
    | _ => s) { s with softErrors := s.softErrors.filter (fun e => !mine e) }

end Sys2Proof.Machine
end

