-- ==== Sys2Proof/Machine/Network.lean ====
section
/-! DEFINITION. The networks: the units that own an address (R325), links between dies and to other parts with their packets (R12, R300,
R301, R400), and the way of an operation's request and response (R402, R404). -/

namespace Sys2Proof.Machine

/-! ## Units that own an address (R325) -/

/-- The executing unit of an own-part offset: a core's handler slot, or a nib, as a hart. -/
def unitOf (off : Nat) : Nat := if onChip off then hartOf (coreOfAddr off) 4 else nibHart (channelOf off)

/-- The executing unit of an address: a hart of this part, or 2^20 + 32·x + p for unit x of part p. -/
def State.callUnit (s : State) (target : Reg64) : Nat :=
  match s.address target with
  | some (off, none) => unitOf off
  | some (off, some p) => 2 ^ 20 + 32 * unitOf off + p
  | none => 2 ^ 20

/-- The part of a unit that is not in this part. -/
def peerOf (u : Nat) : Nat := (u - 2 ^ 20) % 32

/-! ## Routes (R12, R400, R401, R404) -/

def State.link (s : State) (l : Nat) : Link := Tab.getD s.links l {}
def State.setLink (s : State) (l : Nat) (x : Link) : State := { s with links := Tab.set s.links l x }
def Link.chan (x : Link) (vc : Nat) : Channel := Tab.getD x.chans vc {}
def Link.setChan (x : Link) (vc : Nat) (c : Channel) : Link := { x with chans := Tab.set x.chans vc c }

/-- The die link between two dies at one router position (R12). -/
def dieLink (a b pos : Nat) : Nat :=
  8 * (([(0, 1), (0, 2), (0, 3), (1, 2), (1, 3), (2, 3)] : List (Nat × Nat)).findIdx (fun d => d == (min a b, max a b))) + pos

/-- The link between two dies at a position is in service. -/
def State.dieLinkIn (s : State) (a b pos : Nat) : Bool := !(s.link (dieLink a b pos)).down

/-- A die c between a and b at whose router of the same position a packet goes on when the link from a to b has left service (R404). -/
def State.detour (s : State) (a b pos c : Nat) : Bool := c != a && c != b && decide (c < 4) && s.dieLinkIn a c pos && s.dieLinkIn c b pos

/-- Some way leads from die a to die b (R404). -/
def State.joined (s : State) (a b : Nat) : Bool :=
  a == b || (List.range 8).any (fun k => s.dieLinkIn a b k || (List.range 4).any (fun c => s.detour a b k c))

/-- The route to another part, fixed for the life of the domain (R400). -/
def State.route (s : State) (p : Nat) : Option PeerRoute := s.topology.routes.find? (fun r => r.part == p)

/-- Another part can be reached (R401): it is in the domain, the port of its route is in service, and no part on the way is lost. -/
def State.peerIn (s : State) (p : Nat) : Bool :=
  decide (p < s.domSize.toNat) && match s.route p with
    | none => false
    | some r => s.ports.getLsbD r.port && !(s.link (48 + r.port)).down && !(p :: r.via).any s.lostPeers.contains

/-- A unit can be reached from a hart (R340): over no link that is down, or in a part that can be reached. -/
def State.canReach (s : State) (h u : Nat) : Bool :=
  if u < 2 ^ 20 then s.joined (dieOf h) (dieOf u)
  else s.peerIn (peerOf u) && match s.route (peerOf u) with | some r => s.joined (dieOf h) (r.port / 4) | none => false

/-- The unit of this part has left service (R293). -/
def State.unitOut (s : State) (u : Nat) : Bool := if isNib u then s.nibsOut.contains (nibOf u) else s.coreOut (cidOf u)

/-- A unit takes requests: one of this part in service (R293), or one of a part that can be reached (R401). -/
def State.unitTakes (s : State) (u : Nat) : Bool := if u < 2 ^ 20 then !s.unitOut u else s.peerIn (peerOf u)

/-! ## Where an operation's packet goes (R402) -/

/-- The place of a unit: a die, or 4 + p for part p. -/
def placeOf (u : Nat) : Nat := if 2 ^ 20 ≤ u then 4 + peerOf u else dieOf u

/-- Where the packet of an operation has to get to: its unit's place for the request, its issuer's die for the response. -/
def State.packetTo (s : State) (o : Op) : Nat :=
  match o.kind with
  | .atomic _ _ a _ _ _ _ _ _ => if o.stage = 0 then placeOf (s.callUnit a) else dieOf o.owner
  | .rcall _ _ _ _ u => if o.stage < 3 then placeOf u else dieOf o.owner
  | .msg _ cid _ part _ => if part = s.domIndex.toNat then cid / 4096 else 4 + part
  | _ => o.die

/-- The packet is where its operation needs it. -/
def State.arrived (s : State) (o : Op) : Bool := o.die == s.packetTo o

/-- It is a response. -/
def Op.responds (o : Op) : Bool :=
  match o.kind with
  | .atomic _ _ _ _ _ _ _ _ _ => decide (1 ≤ o.stage)
  | .rcall _ _ _ _ _ => decide (3 ≤ o.stage)
  | _ => false

/-- The die on the way from a place to another at which a packet crosses a port, or the destination itself. -/
def State.exitDie (s : State) (dst : Nat) : Nat := if dst < 4 then dst else match s.route (dst - 4) with | some r => r.port / 4 | none => 4

/-- The places a link and direction join: from, to; for a port the part beyond it that the packet is for. -/
def linkFrom (l : Nat) (back : Bool) : Nat := let e := linkEnds l; (if back then e.2 else e.1) / 8
def linkTo (l : Nat) (back : Bool) : Nat := linkFrom l !back

/-- Virtual channels 0 to 3 of a link's direction are request, response, escape request and escape response (R402); 4 to 7 are those of
the other direction. -/
def backOf (vc : Nat) : Bool := decide (4 ≤ vc)

/-- The place to which the packet of an operation gets over a link on a virtual channel; none where it does not go that way, as to a part that
cannot be reached (R401). -/
def State.hop (s : State) (o : Op) (l vc : Nat) : Option Nat :=
  let dst := s.packetTo o
  let class_ := (if o.responds then 1 else 0) + (if s.escaped.contains o.id then 2 else 0)
  if o.die = dst ∨ vc % 4 ≠ class_ then none
  else if 48 ≤ l then
    let w := l - 48
    if backOf vc then (if 4 ≤ o.die ∧ (s.route (o.die - 4)).any (fun r => r.port == w) then some (w / 4) else none)
    else if 4 ≤ dst ∧ s.peerIn (dst - 4) ∧ o.die = w / 4 ∧ (s.route (dst - 4)).any (fun r => r.port == w) then some dst else none
  else
    let a := linkFrom l (backOf vc)
    let b := linkTo l (backOf vc)
    let d := s.exitDie dst
    if o.die ≠ a ∨ d = a then none
    else if b = d ∨ (¬ s.dieLinkIn a d (l % 8) ∧ s.detour a d (l % 8) b) then some b
    else none

/-! ## Packets (R300, R301) -/

/-- A link carries packets: one of the 48 between dies (R12) or the 16 of Wepin ports (R400), in service and trained. -/
def State.linkUp (s : State) (l vc : Nat) : Bool := decide (l < 64) && decide (vc < 8) && !(s.link l).training && !(s.link l).down

/-- Flits of packets. -/
def flitsOf (l : List Packet) : Nat := l.foldl (fun n p => n + p.flits) 0

/-- The packet of the operation is on some link, not yet received. -/
def State.onLink (s : State) (id : Nat) : Bool :=
  s.links.any (fun l => l.2.chans.any (fun c => c.2.unacked.any (fun p => p.op == some id && decide (c.2.expect ≤ p.seq))))

/-- The operation whose packet a link takes next on a channel: the first of those that go that way. -/
def State.nextPacket (s : State) (l vc : Nat) : Option Nat := (s.ops.find? (fun o => (s.hop o l vc).isSome && !s.onLink o.id)).map (fun o => o.id)

/-- The sender injects its next packet where none is in flight and its replay buffer has room for it; the packet stays there until it is
acknowledged (R300). -/
def Channel.inject (c : Channel) (op : Option Nat) : Channel :=
  let p : Packet := ⟨c.nextSend, Config.packetFlits c.nextSend, op⟩
  if c.flight = [] ∧ flitsOf c.unacked + p.flits ≤ Config.replayFlits then { c with nextSend := c.nextSend + 1, unacked := c.unacked ++ [p], flight := [p] } else c

/-- A packet all of whose flits come with good CRCs is accepted when it has the next number; one accepted already is discarded (R300).
The packet accepted, if any. -/
def Channel.receive (c : Channel) : Channel × Option Packet :=
  match c.flight with
  | [] => (c, none)
  | q :: rest =>
    let c := { c with flight := rest, failed := 0, replays := c.replays - 1 }
    if q.seq = c.expect then ({ c with expect := q.seq + 1, delivered := c.delivered ++ [q] }, some q) else (c, none)

/-- A failed CRC: a replay has failed, or the first sending of the packet, which is replayed now (R300, R301). -/
def Channel.fail (c : Channel) : Channel := { c with failed := if c.replays = 0 then c.failed else c.failed + 1, replays := max 1 c.replays }

/-- The operation of a packet that a link has delivered is one place further; a packet that has got where it was to go has left the escape
channel, and its response waits anew (R404). -/
def State.moveOn (s : State) (l vc : Nat) (p : Option Packet) : State :=
  match p.bind (fun p => p.op.bind s.op?) with
  | some o => match s.hop o l vc with
    | some d => { s with ops := s.ops.map (fun q => if q.id = o.id then { q with die := d, since := s.clk } else q), escaped := if d = s.packetTo o then s.escaped.filter (fun i => i != o.id) else s.escaped }
    | none => s
  | none => s

/-- A packet reaches its receiver (R300): a failed CRC makes the sender replay it whole, which counts for the link (R291); after 16
failed replays in a row only a retrain goes on (R301). -/
def execPacketReceipt (link vc : Nat) (crcOk : Bool) (s : State) : Host.Outcome State Fault Refusal :=
  .next (
    let x := s.link link
    let c := (x.chan vc).inject (s.nextPacket link vc)
    if ¬ s.linkUp link vc ∨ 16 ≤ (x.chan vc).failed then s
    else if crcOk then (s.setLink link (x.setChan vc c.receive.1)).moveOn link vc c.receive.2
    else if c.flight = [] then s
    else ((s.setLink link (x.setChan vc c.fail)).linkRecord link 6 (backOf vc)).noteUnit (18688 + link))

/-- The receiver acknowledges the oldest packet it has accepted, which leaves the replay buffer (R300). -/
def execPacketAcknowledgement (link vc : Nat) (s : State) : Host.Outcome State Fault Refusal :=
  .next (
    let x := s.link link
    let c := x.chan vc
    match c.unacked with
    | q :: rest => if s.linkUp link vc ∧ q.seq < c.expect then s.setLink link (x.setChan vc { c with unacked := rest }) else s
    | [] => s)

/-- A link retrains: flits in flight are discarded, and the retrain counts for the link (R301). -/
def execLinkRetrain (link : Nat) (s : State) : Host.Outcome State Fault Refusal :=
  .next (
    let x := s.link link
    if 64 ≤ link ∨ x.training ∨ x.down then s
    else ((s.setLink link { x with training := true, chans := x.chans.map (fun (c : Nat × Channel) => (c.1, { c.2 with flight := [], replays := 0 })) }).linkRecord link 6 false).noteUnit (18688 + link))

/-- Training ends, and every sender replays from its oldest unacknowledged packet (R301). -/
def execLinkTrainingEnd (link : Nat) (s : State) : Host.Outcome State Fault Refusal :=
  .next (
    let x := s.link link
    if ¬ x.training then s
    else s.setLink link { x with training := false, chans := x.chans.map (fun (c : Nat × Channel) => (c.1, { c.2 with flight := c.2.unacked, failed := 0, replays := c.2.unacked.length })) })

/-- A packet that has waited the escape wait on its die without an output takes the escape channel of its class (R404, log 70). -/
def execEscapeWaitExpiry (op : Nat) (s : State) : Host.Outcome State Fault Refusal :=
  .next (match s.op? op with
    | some o => if o.die ≠ s.packetTo o ∧ ¬ s.onLink op ∧ o.since + s.escapeWait ≤ s.clk then { s with escaped := insertNat op (s.escaped.filter (fun i => (s.op? i).isSome)) } else s
    | none => s)

end Sys2Proof.Machine
end

