-- ==== Sys2Proof/Machine/Operands.lean ====
section
/-! DEFINITION. The operands of every instruction: the registers it names, in field order, and what naming them asks at issue
(R63 to R70, R125 to R127, R184). -/

namespace Sys2Proof.Machine

/-- A register of one of the three views (R63). -/
inductive RegName where
  | g (n : Nat)
  | k (n : Nat)
  | v (n : Nat)
  deriving DecidableEq, Repr

/-- An operand: the register, whether it is written (else read), and whether it may be a port. -/
structure Opd where
  reg : RegName
  write : Bool
  port : Bool
  deriving DecidableEq, Repr

def gs (n : BitVec 6) : Opd := ⟨.g n.toNat, false, true⟩
def gd (n : BitVec 6) : Opd := ⟨.g n.toNat, true, true⟩
/-- A g field that may name no port. -/
def gsn (n : BitVec 6) : Opd := ⟨.g n.toNat, false, false⟩
def gdn (n : BitVec 6) : Opd := ⟨.g n.toNat, true, false⟩
/-- A g field of a vector word: g0 to g31 (R184). -/
def gs5 (n : BitVec 5) : Opd := ⟨.g n.toNat, false, false⟩
def gd5 (n : BitVec 5) : Opd := ⟨.g n.toNat, true, false⟩
def vs (n : BitVec 5) : Opd := ⟨.v n.toNat, false, true⟩
def vd (n : BitVec 5) : Opd := ⟨.v n.toNat, true, true⟩
def ks (n : BitVec 3) : Opd := ⟨.k n.toNat, false, false⟩
def ks5 (n : BitVec 5) : Opd := ⟨.k n.toNat, false, false⟩
def kd5 (n : BitVec 5) : Opd := ⟨.k n.toNat, true, false⟩
/-- The group g[f] to g[f+L-1] (R127). -/
def grp (f : BitVec 6) (l : Nat) : List Opd := (List.range l).map (fun i => ⟨.g (f.toNat + i), false, false⟩)
/-- Registers of a group by their places in it. -/
def inGrp (f : BitVec 6) (l : List Nat) : List Opd := l.map (fun i => ⟨.g (f.toNat + i), false, false⟩)
def grpd (f : BitVec 6) (l : Nat) : List Opd := (List.range l).map (fun i => ⟨.g (f.toNat + i), true, false⟩)
/-- The b operand of an ALU word: a register unless cst is set (R129). -/
def bOpd (c : BitVec 1) (b : BitVec 6) : List Opd := if c = 0 then [gs b] else []

/-- The operands of an instruction, in the order in which they are looked at (log 18): the register of the destination field first, then the
others in field order. -/
def opds (i : Instr) : List Opd :=
  match i with
  | .add d a b _ c => gd d :: gs a :: bOpd c b
  | .sub d a b _ c => gd d :: gs a :: bOpd c b
  | .mul d a b _ c => gd d :: gs a :: bOpd c b
  | .mulh d a b _ c => gd d :: gs a :: bOpd c b
  | .mulhn d a b _ c => gd d :: gs a :: bOpd c b
  | .div d a b _ c => gd d :: gs a :: bOpd c b
  | .divn d a b _ c => gd d :: gs a :: bOpd c b
  | .rem d a b _ c => gd d :: gs a :: bOpd c b
  | .remn d a b _ c => gd d :: gs a :: bOpd c b
  | .and d a b _ c => gd d :: gs a :: bOpd c b
  | .or d a b _ c => gd d :: gs a :: bOpd c b
  | .xor d a b _ c => gd d :: gs a :: bOpd c b
  | .andn d a b _ c => gd d :: gs a :: bOpd c b
  | .shl d a b _ c => gd d :: gs a :: bOpd c b
  | .shr d a b _ c => gd d :: gs a :: bOpd c b
  | .sar d a b _ c => gd d :: gs a :: bOpd c b
  | .rol d a b _ c => gd d :: gs a :: bOpd c b
  | .min d a b _ c => gd d :: gs a :: bOpd c b
  | .max d a b _ c => gd d :: gs a :: bOpd c b
  | .minn d a b _ c => gd d :: gs a :: bOpd c b
  | .maxn d a b _ c => gd d :: gs a :: bOpd c b
  | .slt d a b _ c => gd d :: gs a :: bOpd c b
  | .sltn d a b _ c => gd d :: gs a :: bOpd c b
  | .seq d a b _ c => gd d :: gs a :: bOpd c b
  | .sext d a b _ c => gd d :: gs a :: bOpd c b
  | .zext d a b _ c => gd d :: gs a :: bOpd c b
  | .madd d a b _ c => gdn d :: gsn d :: gs a :: bOpd c b
  | .sel d a b _ c => gdn d :: gsn d :: gs a :: bOpd c b
  | .clz d a _ => [gd d, gs a]
  | .ctz d a _ => [gd d, gs a]
  | .pop d a _ => [gd d, gs a]
  | .brev d a _ => [gd d, gs a]
  | .bswap d a _ => [gd d, gs a]
  | .addi d a _ => [gd d, gs a]
  | .andi d a _ => [gd d, gs a]
  | .ori d a _ => [gd d, gs a]
  | .xori d a _ => [gd d, gs a]
  | .slti d a _ => [gd d, gs a]
  | .sltni d a _ => [gd d, gs a]
  | .muli d a _ => [gd d, gs a]
  | .shli d a _ => [gd d, gs a]
  | .shri d a _ => [gd d, gs a]
  | .sari d a _ => [gd d, gs a]
  | .shliX d a _ => [gd d, gs a]
  | .shriX d a _ => [gd d, gs a]
  | .sariX d a _ => [gd d, gs a]
  | .addiX d a _ _ => [gd d, gs a]
  | .andiX d a _ _ => [gd d, gs a]
  | .oriX d a _ _ => [gd d, gs a]
  | .xoriX d a _ _ => [gd d, gs a]
  | .sltiX d a _ _ => [gd d, gs a]
  | .sltniX d a _ _ => [gd d, gs a]
  | .muliX d a _ _ => [gd d, gs a]
  | .li d _ => [gd d]
  | .liX d _ _ => [gd d]
  | .lih d _ => [gd d, gs d]
  | .lihX d _ _ => [gd d, gs d]
  | .lea d a _ => [gd d, gs a]
  | .leaX d a _ _ => [gd d, gs a]
  | .beq a b _ => [gs a, gs b]
  | .bne a b _ => [gs a, gs b]
  | .blt a b _ => [gs a, gs b]
  | .bge a b _ => [gs a, gs b]
  | .bltn a b _ => [gs a, gs b]
  | .bgen a b _ => [gs a, gs b]
  | .bez a _ => [gs a]
  | .bnz a _ => [gs a]
  | .jr a => [gs a]
  | .callr a => [gs a]
  | .loop _ _ a _ => [gs a]
  | .ld t b _ _ _ => [gd t, gsn b]
  | .st t b _ _ => [gs t, gsn b]
  | .ldm t b c _ => grpd t (c.toNat + 1) ++ [gsn b]
  | .stm t b c _ => grp t (c.toNat + 1) ++ [gsn b]
  | .ldfe t b _ => [gdn t, gsn b]
  | .ldff t b _ => [gdn t, gsn b]
  | .stfe t b _ => [gsn t, gsn b]
  | .stf t b _ => [gsn t, gsn b]
  | .waitw t b _ => [gsn t, gsn b]
  | .aadd d a b _ _ _ => [gdn d, gsn a, gsn b]
  | .aand d a b _ _ _ => [gdn d, gsn a, gsn b]
  | .aor d a b _ _ _ => [gdn d, gsn a, gsn b]
  | .axor d a b _ _ _ => [gdn d, gsn a, gsn b]
  | .amin d a b _ _ _ => [gdn d, gsn a, gsn b]
  | .amax d a b _ _ _ => [gdn d, gsn a, gsn b]
  | .aminn d a b _ _ _ => [gdn d, gsn a, gsn b]
  | .amaxn d a b _ _ _ => [gdn d, gsn a, gsn b]
  | .aswp d a b _ _ _ => [gdn d, gsn a, gsn b]
  | .acas d a b _ _ _ => [gdn d, gsn d, gsn a, gsn b]
  | .faadd d a b _ _ _ => [gdn d, gsn a, gsn b]
  | .famin d a b _ _ _ => [gdn d, gsn a, gsn b]
  | .famax d a b _ _ _ => [gdn d, gsn a, gsn b]
  | .radd a b _ => [gsn a, gsn b]
  | .acq d => [gs d]
  | .rel d => [gs d]
  | .bind d => grp d 3
  | .unbind d => grp d 2
  | .phnew d _ => [gd d]
  | .phjoin d _ => [gs d]
  | .phleave d => [gs d]
  | .phsig d => [gs d]
  | .phwait d => [gs d]
  | .phnext d => [gs d]
  | .phfree d => [gs d]
  | .qsend f t => grp f 2 ++ [gdn t]
  | .qpeek f _ => grpd f 2
  | .msend f t n => grp f (n.toNat + 1) ++ [gdn t]
  | .msendw f t n => grp f (n.toNat + 1) ++ [gdn t]
  | .spawn f => grp f 5 ++ grpd 1 4
  | .fork f => grp f 4 ++ grp 4 5 ++ grpd 1 3
  | .joinc f => grp f 1
  | .launch f t => grp f 8 ++ [gdn t]
  | .pipedecl f t => grp f 1 ++ [gdn t]
  | .pipego f t => grp f 1 ++ [gdn t]
  | .pipewait f t _ => grp f 1 ++ [gdn t]
  | .viewRegister d => [gs d]
  | .lclaim d _ => [gd d]
  | .lclaimRegister d => [gd d, gs d]
  | .lrn d => [gd d]
  | .cpy f t => grp f 3 ++ [gdn t]
  | .cpyt f t _ => grp f 4 ++ [gdn t]
  | .cpytSet f t _ => grp f 1 ++ [gdn t]
  | .cpyd f t _ => grp f 4 ++ [gdn t]
  | .cpys f t => grp f 6 ++ [gdn t]
  | .rcall f t n _ => grp f (n.toNat + 2) ++ [gdn t]
  | .rret m => grp 1 m.toNat
  | .trap d c => gdn d :: (if c.ult 0x800 then grp 1 8 else [])
  | .sysr d _ => [gd d]
  | .sysw d _ => [gs d]
  | .vadd d a b k _ _ => [vd d, vs a, vs b, ks k]
  | .vsub d a b k _ _ => [vd d, vs a, vs b, ks k]
  | .vmul d a b k _ _ => [vd d, vs a, vs b, ks k]
  | .vfadd d a b k _ _ => [vd d, vs a, vs b, ks k]
  | .vfsub d a b k _ _ => [vd d, vs a, vs b, ks k]
  | .vfmul d a b k _ _ => [vd d, vs a, vs b, ks k]
  | .vfdiv d a b k _ _ => [vd d, vs a, vs b, ks k]
  | .vmulh d a b k _ => [vd d, vs a, vs b, ks k]
  | .vmin d a b k _ => [vd d, vs a, vs b, ks k]
  | .vmax d a b k _ => [vd d, vs a, vs b, ks k]
  | .vminn d a b k _ => [vd d, vs a, vs b, ks k]
  | .vmaxn d a b k _ => [vd d, vs a, vs b, ks k]
  | .vand d a b k _ => [vd d, vs a, vs b, ks k]
  | .vor d a b k _ => [vd d, vs a, vs b, ks k]
  | .vxor d a b k _ => [vd d, vs a, vs b, ks k]
  | .vshl d a b k _ => [vd d, vs a, vs b, ks k]
  | .vshr d a b k _ => [vd d, vs a, vs b, ks k]
  | .vsar d a b k _ => [vd d, vs a, vs b, ks k]
  | .vfmin d a b k _ => [vd d, vs a, vs b, ks k]
  | .vfmax d a b k _ => [vd d, vs a, vs b, ks k]
  | .vabs d a k _ _ => [vd d, vs a, ks k]
  | .vfma d a b k _ _ => [vd d, ⟨.v d.toNat, false, false⟩, vs a, vs b, ks k]
  | .vfms d a b k _ _ => [vd d, ⟨.v d.toNat, false, false⟩, vs a, vs b, ks k]
  | .vfnma d a b k _ _ => [vd d, ⟨.v d.toNat, false, false⟩, vs a, vs b, ks k]
  | .vfsqrt d a k _ _ => [vd d, vs a, ks k]
  | .vfabs d a k _ => [vd d, vs a, ks k]
  | .vfneg d a k _ => [vd d, vs a, ks k]
  | .vfclass d a k _ => [vd d, vs a, ks k]
  | .vceq d a b k _ => [kd5 d, vs a, vs b, ks k]
  | .vcne d a b k _ => [kd5 d, vs a, vs b, ks k]
  | .vclt d a b k _ => [kd5 d, vs a, vs b, ks k]
  | .vcle d a b k _ => [kd5 d, vs a, vs b, ks k]
  | .vfceq d a b k _ => [kd5 d, vs a, vs b, ks k]
  | .vfclt d a b k _ => [kd5 d, vs a, vs b, ks k]
  | .vfcle d a b k _ => [kd5 d, vs a, vs b, ks k]
  | .kand d a b => [kd5 d, ks5 a, ks5 b]
  | .kor d a b => [kd5 d, ks5 a, ks5 b]
  | .kxor d a b => [kd5 d, ks5 a, ks5 b]
  | .knot d a => [kd5 d, ks5 a]
  | .kmovK d a => [kd5 d, ks5 a]
  | .kpop d a => [gd5 d, ks5 a]
  | .kfirst d a => [gd5 d, ks5 a]
  | .kmovG d a => [gd5 d, ks5 a]
  | .kmovKg d a => [kd5 d, gs5 a]
  | .vbcast d a k _ => [vd d, gs5 a, ks k]
  | .vbcastConstant d _ k _ => [vd d, ⟨.k k.toNat, false, false⟩]
  | .vslideup d a b k _ => [vd d, vs a, gs5 b, ks k]
  | .vslidedn d a b k _ => [vd d, vs a, gs5 b, ks k]
  | .vperm d a b k _ => [vd d, vs a, vs b, ks k]
  | .vmerge d a b k _ => [vd d, vs a, vs b, ks k]
  | .vcomp d a k _ => [vd d, vs a, ks k]
  | .vexpd d a k _ => [vd d, vs a, ks k]
  | .vmov d a k _ => [vd d, vs a, ks k]
  | .vrsum d a k _ => [vd d, vs a, ks k]
  | .vrtsum d a k _ => [vd d, vs a, ks k]
  | .vrmax d a k _ => [vd d, vs a, ks k]
  | .vrmin d a k _ => [vd d, vs a, ks k]
  | .vextr d a b _ => [gd5 d, vs a, gs5 b]
  | .vins d a b k _ => [vd d, gs5 a, gs5 b, ks k]
  | .vcvt d a _ _ k _ _ => [vd d, vs a, ks k]
  | .vpack d a b k _ _ => [vd d, vs a, vs b, ks k]
  | .vunpk d a _ _ _ k _ => [vd d, vs a, ks k]
  | .vld d a b k _ => [vd d, gs5 a, gs5 b, ks k]
  | .vlds d a b k _ => [vd d, gs5 a, gs5 b, ks k]
  | .vst d a b k _ => [vs d, gs5 a, gs5 b, ks k]
  | .vsts d a b k _ => [vs d, gs5 a, gs5 b, ks k]
  | .vldx d a b k _ => [vd d, gs5 a, vs b, ks k]
  | .vstx d a b k _ => [vs d, gs5 a, vs b, ks k]
  | .vstxc d a b k _ => [vs d, gs5 a, vs b, ks k, ⟨.k k.toNat, true, false⟩]
  | .vtild d a b => [gs5 d, gs5 a, gs5 b]
  | .vti d a b k _ => [vd d, vs a, gs5 b, ks k]
  | .visect d a b k _ => [vd d, vs a, vs b, ks k]
  | .mxcfg f => grp f 2
  | .mxgo t => [gdn t]
  | .mxrd f t => grp f 2 ++ [gdn t]
  | .mxwr f => grp f 2
  | .mxrectForm f t => grp f 1 ++ [gdn t]
  | .mxrectFree f t => grp f 1 ++ [gdn t]
  | .oclaim t _ => [gdn t]
  | .orel f => grp f 1
  | .ofill f t => grp f 2 ++ [gdn t]
  | .qnt f t _ => grp f 1 ++ [gdn t]
  | .trc f _ _ => grp f 4
  | .reward f t _ _ => grp f 3 ++ [gdn t]
  | .plreg f t _ => grp f 2 ++ [gdn t]
  | .pldrop f t _ => grp f 1 ++ [gdn t]
  | .evsend f _ => grp f 2
  | .waitev t => [gdn t]
  | .stepadv f t => grp f 1 ++ [gdn t]
  | .nrn f => grp f 2
  | .dring f t => grp f 3 ++ [gdn t]
  | .dqdecl f t => grp f 1 ++ [gdn t]
  | .dqpush f t h => grp f 4 ++ [gdn t, gsn h]
  | .dqpop f t h => grpd f 4 ++ [gdn t, gsn h]
  | .dqcons t h => [gdn t, gsn h]
  | .dqarr f t h => grp f 4 ++ [gdn t, gsn h]
  | .dqlook f h => grp f 5 ++ [gsn h]
  | .dqjoin f t h => grp f 4 ++ [gdn t, gsn h]
  | .dqclose f t h => grp f 2 ++ [gdn t, gsn h]
  | .dqfront t h => [gdn t, gsn h]
  | _ => []

/-! ## Fetch (R99, R138) -/

/-- The instruction-store byte address of a code address in a cluster, where the launch's image covers it. -/
def State.codeAt (s : State) (cl : Nat) (lid : Word) (a : Reg64) : Option Nat :=
  match (s.cluster cl).images.find? (fun i => i.lid == lid) with
  | none => none
  | some im =>
    if a.toNat / 65536 < im.page then none
    else match im.frames[a.toNat / 65536 - im.page]? with
      | none => none
      | some f => some ((cl * 16 + f) * 65536 + a.toNat % 65536)

/-- The cluster and launch whose image a hart fetches from: a routine's are its caller's (R327). -/
def State.codeOf (s : State) (h : Nat) : Nat × Word :=
  let x := s.slot h
  match x.routine with
  | some r => (r.cluster, r.lid)
  | none => (clusterOf h, x.lid)

/-- A routine's word that its unit holds, tagged by process and address (R15, R16, R327). -/
def Slot.heldWord (x : Slot) (a : Reg64) : Option Word :=
  match x.routine with
  | some r => (x.words.find? (fun w => w.1 == r.pid && w.2.1 == a.toNat)).map (fun w => w.2.2)
  | none => none

/-- The code word at an address as a hart fetches it (R99, R138, R327). -/
def State.wordAt (s : State) (h : Nat) (a : Reg64) : Option Word :=
  match (s.slot h).heldWord a with
  | some w => some w
  | none =>
    let c := s.codeOf h
    (s.codeAt c.1 c.2 a).map (fun p => BitVec.ofNat 32 (Mem.read s.imem p 4))

/-- The word a routine fetches is held at its unit from then on: a nib's buffer holds 2,048 of them (R15, R327). -/
def State.holdWord (s : State) (h : Nat) : State :=
  let x := s.slot h
  match x.routine, x.heldWord x.pc, s.wordAt h x.pc with
  | some r, none, some w => s.setSlot h { x with words := ((r.pid, x.pc.toNat, w) :: x.words).take 2048 }
  | _, _, _ => s

/-! ## RPT fields (R144, R145) -/

structure Rpt where
  len : Nat
  reps : Nat
  sd : Nat
  sa : Nat
  sb : Nat
  view : Nat
  deriving DecidableEq, Repr

def Rpt.ofWord (w : Word) : Rpt := ⟨sel 22 4 w + 1, sel 14 8 w + 1, sel 10 4 w, sel 6 4 w, sel 2 4 w, sel 0 2 w⟩

/-- A word with the field lo+n-1:lo advanced by k, within the field's n bits: a 5-bit g field that grows past g31 goes on from g0 (log 61,
the model's choice). -/
def addField (w : Word) (lo n k : Nat) : Word :=
  BitVec.ofNat 32 (w.toNat - sel lo n w * 2 ^ lo + (sel lo n w + k) % 2 ^ n * 2 ^ lo)

def isVWord (w : Word) : Bool := sel 26 6 w == 0x20 || sel 26 6 w == 0x21 || sel 26 6 w == 0x23 || sel 26 6 w == 0x25
def isBcastC (w : Word) : Bool := sel 26 6 w == 0x23 && sel 0 5 w == 16

/-- The staggered fields of a body word: low bit, width and step (R145). In a V word that holds no register in bits 20:16 or 15:11 the
bits are staggered like a register's: R145 names the fields va and vb and excepts one word alone (log 61, the model's choice). -/
def Rpt.fields (r : Rpt) (w : Word) : List (Nat × Nat × Nat) :=
  if r.view = 0 then
    if sel 26 6 w = 1 then [(20, 6, r.sd), (14, 6, r.sa)] ++ (if sel 6 1 w = 0 then [(8, 6, r.sb)] else [])
    else if sel 26 6 w = 2 then [(20, 6, r.sd), (14, 6, r.sa)]
    else []
  else if isVWord w then
    if r.view = 1 then [(21, 5, r.sd), (16, 5, r.sa)] ++ (if isBcastC w then [] else [(11, 5, r.sb)])
    else [if isBcastC w then (8, 2, r.sd) else (8, 3, r.sd)]
  else []

/-- A body word with its fields staggered for replay j. -/
def Rpt.stagger (r : Rpt) (w : Word) (j : Nat) : Word := (r.fields w).foldl (fun v f => addField v f.1 f.2.1 (j * f.2.2)) w

/-- The word hart h executes at its pc, staggered inside an RPT frame (R147). -/
def State.bodyWord (s : State) (h : Nat) (w : Word) : Word :=
  let x := s.slot h
  if x.rptOn then
    match s.wordAt h (x.pc - r64 (4 * (x.rptI + 1))) with
    | some p => (Rpt.ofWord p).stagger w x.rptJ
    | none => w
  else w

/-! ## Checks at issue (R83) -/

def Instr.majorOf (i : Instr) : Nat := i.word.toNat / 2 ^ 26

/-- What a remote routine may run (R334). -/
def remoteMay (nib : Bool) (i : Instr) : Bool :=
  match i with
  | .rret _ | .trap _ _ => true
  | .lclaim _ _ | .lclaimRegister _ | .lrn _ => nib
  | .vld _ _ _ _ _ | .vst _ _ _ _ _ => nib
  | i =>
    let m := Instr.majorOf i
    (1 ≤ m && m ≤ 0x0F) || m == 0x11 || m == 0x12 || m == 0x13 || m == 0x15 || (nib && (m == 0x20 || m == 0x21 || m == 0x25))

/-- A register outside the window, by the window offset of its first byte (R65). -/
def Slot.outside (x : Slot) (r : RegName) : Option Nat :=
  let chk := fun (off len : Nat) => if off + len ≤ x.winSize then none else some off
  match r with
  | .g n => if n = 0 ∨ 56 ≤ n then none else chk (x.gOff n) 8
  | .k n => if n = 0 then none else chk (x.kOff n) 8
  | .v n => if 28 ≤ n then none else chk (x.vOff n) 256

/-- A port operand against its role (R70, R126, R127, R184). -/
def Opd.misuse (o : Opd) : Bool :=
  match o.reg with
  | .g n => decide (56 ≤ n) && (!o.port || (o.write && (decide (n < 60) || n == 63)))
  | .k _ => false
  | .v n => decide (28 ≤ n) && (!o.port || (if o.write then decide (n < 30) else decide (30 ≤ n)))

def Opd.inbound (o : Opd) : Bool :=
  !o.write && match o.reg with
  | .g n => (decide (56 ≤ n) && decide (n < 60)) || n == 63
  | .k _ => false
  | .v n => n == 28 || n == 29

/-- The same inbound port in two operands. -/
def twice : List Opd → Bool
  | [] => false
  | o :: l => (o.inbound && l.any (fun p => p.inbound && p.reg == o.reg)) || twice l

def isPort (o : Opd) : Bool := match o.reg with | .g n => decide (56 ≤ n) | .k _ => false | .v n => decide (28 ≤ n)

/-- An atomic with the address register g0 is port misuse (R257), and so is an RCALL with f = 0 (R329). -/
def zeroBase (i : Instr) : Bool :=
  match i with
  | .rcall f _ _ _ => f == 0
  | i => Instr.majorOf i == 0x15 && sel 14 6 i.word == 0

def needsLanes (i : Instr) : Bool :=
  let m := Instr.majorOf i
  decide (0x20 ≤ m) && decide (m ≤ 0x27) && !(m == 0x22 && decide (7 ≤ sel 0 5 i.word)) && !(m == 0x27 && sel 0 5 i.word == 0)

/-- An OPM instruction off the staging core, or an MX instruction off the issuing core (R20); a control core is neither. -/
def wrongSlot (h : Nat) (i : Instr) : Bool :=
  let m := Instr.majorOf i
  (m == 0x29 && (!isCore h || cidOf h % 8 != 6)) || (m == 0x28 && (!isCore h || cidOf h % 8 != 7))

/-- The numbers of the system registers (R27, R177). -/
def sysListed (n : Nat) : Bool :=
  decide (n ≤ 6) || n == 8 || n == 0x10 || (decide (0x20 ≤ n) && decide (n ≤ 0x23)) || n == 0x30 || n == 0x31
    || (decide (0x100 ≤ n) && decide (n ≤ 0x111)) || n == 0x200 || n == 0x300

/-- The numbers SYSW writes (R177). -/
def sysWritable (n : Nat) : Bool :=
  decide (n ≤ 2) || (decide (0x20 ≤ n) && decide (n ≤ 0x23)) || n == 0x30 || n == 0x31 || n == 0x300

/-- SYSR of an unlisted number, or SYSW of one it does not write: an illegal instruction, its xval the number (R30, R177). It comes
before privilege, as R83 orders them, for the unlisted numbers 0x301 to 0x3FF too. -/
def badNumber (i : Instr) : Option Reg64 :=
  match i with
  | .sysr _ n => if sysListed n.toNat then none else some (n.zeroExtend 64)
  | .sysw _ n => if sysWritable n.toNat then none else some (n.zeroExtend 64)
  | _ => none

/-- The word at the end address of the innermost body (R143). -/
def Slot.atLoopEnd (x : Slot) : Bool := match x.loops with | t :: _ => x.pc == t.last | [] => false

/-- A word that is illegal where the slot stands, whatever its operands hold: a loop word or RPT at a body's end (R143), LBRK with an
empty stack (R142), RRET outside a routine (R331), ERET outside a handler (R172). -/
def Slot.illegalHere (x : Slot) (i : Instr) : Bool :=
  match i with
  | .loop _ _ _ _ | .loopi _ _ _ _ | .rpt _ _ _ _ _ _ => x.atLoopEnd
  | .lbrk => x.loops.isEmpty
  | .rret _ => x.routine.isNone
  | .eret => !x.tr
  | _ => false

/-- A privileged instruction outside a control core (R176, R177): its xval. -/
def privileged (h : Nat) (i : Instr) : Option Reg64 :=
  if isControl h then none
  else match i with
    | .halt => some (i.word.zeroExtend 64)
    | .sysr _ n => if n.toNat / 256 = 3 then some (n.zeroExtend 64) else none
    | .sysw _ n => if n.toNat / 256 = 3 then some (n.zeroExtend 64) else none
    | _ => none

/-- SPAWN pushes its child: the deque has an entry free (R108, R155). -/
def State.spawnPushes (s : State) : Bool := decide ((s.core (cidOf s.cur)).deque.length < 16)

/-- The registers an instruction refers to under R65: its operands; of a SPAWN that pushes its child the group alone, and of one that runs it
inline g54 too, which is ln inside the window only, for its link cell is no SPAWN's (R64, R155, log 23); of a FORK its group and g1 to g3, and
with a T that has arrived and is not 0 the registers its recruits copy (R112, R156); of a DRING the base only with an N that has arrived and is
not 0 (R320). -/
def State.refs (s : State) (i : Instr) : List Opd :=
  match i with
  | .spawn f => if s.spawnPushes then grp f 5 else opds i ++ [⟨.g 54, true, false⟩]
  | .dring f _ =>
    if (s.me.outside (.g (f.toNat + 1))).isNone ∧ (bits (s.getG (f.toNat + 1)) 0 16 = 0 ∨ s.me.pend.any (fun p => overlaps (s.me.gOff (f.toNat + 1)) 8 p.1 8)) then
      (opds i).filter (fun o => o.write || o.reg != .g f.toNat)
    else opds i
  | .fork f => grp f 4 ++ (if s.getG (f.toNat + 1) = 0 ∨ s.me.pend.any (fun p => overlaps (s.me.gOff (f.toNat + 1)) 8 p.1 8) then [] else grp 4 5) ++ grpd 1 3
  | i => opds i

/-- A register field of the word names a port (R334); the further registers of LDM and STM have no field of their own. -/
def namesPort (i : Instr) : Bool :=
  match i with
  | .ldm t b _ _ | .stm t b _ _ => isPort (gs t) || isPort (gsn b)
  | i => (opds i).any isPort

/-- The first trap condition of R83 that holds at issue, with its xval. -/
def issueTrap (i : Instr) (s : State) : Option (Nat × Reg64) :=
  let h := s.cur
  let x := s.me
  let w := i.word.zeroExtend 64
  if x.routine.isSome ∧ (¬ remoteMay (isNib h) i ∨ namesPort i) then some (1, w)
  else if ¬ legal i ∨ x.illegalHere i then some (1, w)
  else match badNumber i, privileged h i with
    | some v, _ => some (1, v)
    | none, some v => some (5, v)
    | none, none =>
      if wrongSlot h i then some (7, w)
      else if needsLanes i ∧ x.grant = 0 then some (6, w)
      else match (s.refs i).findSome? (fun o => x.outside o.reg) with
        | some off => some (3, r64 off)
        | none => if zeroBase i ∨ (opds i).any Opd.misuse ∨ twice (opds i) then some (0xB, w) else none

/-! ## Waits at issue (R69, R72, R125) -/

def Slot.pending (x : Slot) (o : Opd) : Bool :=
  match o.reg with
  | .g n => n != 0 && decide (n < 56) && x.pend.any (fun p => overlaps (x.gOff n) 8 p.1 8)
  | .k n => n != 0 && x.pend.any (fun p => overlaps (x.kOff n) 8 p.1 8)
  | .v n => decide (n < 28) && x.pend.any (fun p => overlaps (x.vOff n) 256 p.1 8)

def Slot.emptyPort (x : Slot) (o : Opd) : Bool :=
  o.inbound && match o.reg with
  | .g n => if n = 63 then x.inbox.isEmpty else (x.queue (n - 56)).isEmpty
  | .k _ => false
  | .v n => if n = 28 then x.vq0.isEmpty else x.vq1.isEmpty

def State.fullPort (s : State) (o : Opd) : Bool :=
  o.write && match o.reg with
  | .g n => decide (60 ≤ n) && decide (n < 63) && s.sendWindow s.cur n == 0
  | .k _ => false
  | .v n => decide (30 ≤ n) && s.sendVWindow s.cur n == 0

/-- A load that an acquire holds back sends its value to the outbound port: the destination of a held load is pending (R125, R243). -/
def State.portHeld (s : State) (p : Nat) : Bool := s.ops.any (fun o => o.owner == s.cur && o.task == s.me.uid && o.port == p)

def State.portPending (s : State) (o : Opd) : Bool :=
  o.write && match o.reg with
  | .g n => decide (60 ≤ n) && s.portHeld n
  | .k _ => false
  | .v n => decide (30 ≤ n) && s.portHeld (64 + n)

/-- The registers an instruction reads and writes at this slot (R125): its operands, with the link register of CALL, CALLR and
RET; of a SPAWN those it refers to; of LDM and STM the registers of the granules still to come (R249). -/
def State.touched (s : State) (i : Instr) : List Opd :=
  match i with
  | .call _ => [⟨.g 54, true, false⟩]
  | .callr a => [gs a, ⟨.g 54, true, false⟩]
  | .ret => [⟨.g 54, false, false⟩]
  | .ldm t b c _ => (grpd t (c.toNat + 1)).drop s.me.ldmJ ++ [gsn b]
  | .stm t b c _ => (grp t (c.toNat + 1)).drop s.me.ldmJ ++ [gsn b]
  | i => s.refs i

/-- The wait the instruction's own sources and destinations ask for, if any. -/
def issueWait (i : Instr) (s : State) : Option Wait :=
  let x := s.me
  if (s.touched i).any x.pending ∨ (opds i).any s.portPending then some .pending
  else if (opds i).any (fun o => x.emptyPort o) then some (if (opds i).any (fun o => x.emptyPort o && o.reg == .g 63) then .inbox else .port)
  else if (opds i).any (fun o => s.fullPort o) then some .port
  else none

/-- The operands an instruction's own trap conditions depend on (R83), where its meaning does not name fewer (`Act.trapOn`): its sources, but
for what it only stores, sends or passes on, and for a SYSW only where the value is judged. -/
def deciding (i : Instr) : List Opd :=
  match i with
  | .st _ b _ _ | .stm _ b _ _ | .stfe _ b _ | .stf _ b _ | .waitw _ b _ => [gsn b]
  | .aadd _ a _ _ _ _ | .aand _ a _ _ _ _ | .aor _ a _ _ _ _ | .axor _ a _ _ _ _ | .amin _ a _ _ _ _ | .amax _ a _ _ _ _
  | .aminn _ a _ _ _ _ | .amaxn _ a _ _ _ _ | .aswp _ a _ _ _ _ | .acas _ a _ _ _ _ | .faadd _ a _ _ _ _ | .famin _ a _ _ _ _
  | .famax _ a _ _ _ _ | .radd a _ _ => [gsn a]
  | .sysw d n => if ([0, 1, 0x20, 0x30, 0x31, 0x300] : List Nat).contains n.toNat then [gs d] else []
  | .trap _ _ => []
  | .ret => [⟨.g 54, false, false⟩]
  | .spawn f | .joinc f | .pipedecl f _ => grp f 1
  | .fork f => [⟨.g (f.toNat + 3), false, false⟩]
  | .rcall f _ _ _ => grp f 2
  | .vst _ a b k _ | .vsts _ a b k _ => [gs5 a, gs5 b, ks k]
  | .vstx _ a b k _ | .vstxc _ a b k _ => [gs5 a, vs b, ks k]
  | i => (opds i).filter (fun o => !o.write)

/-- Operands are there: a trap that rests on them alone is taken before the instruction's waits end (R83). A condition that one sentence
states on several operands is judged once all of them are there (log 18). -/
def State.decided (s : State) (l : List Opd) : Bool := !l.any (fun o => s.me.pending o || s.me.emptyPort o)

/-! ## Vector elements and what a vector instruction reads (R181, R183, R211, R289) -/

/-- The width of an element type (R181). -/
def elemWidth (t : BitVec 3) : Nat := if t.toNat < 4 then 8 * 2 ^ t.toNat else if t.toNat < 6 then 16 else if t = 6 then 32 else 64

/-- The mask granule of an element (R183). -/
def gran (i w : Nat) : Nat := if 32 ≤ w then i else i * w / 32

/-- VL(w) of the issuing hart (R181). -/
def State.vl (s : State) (w : Nat) : Nat := 32 * s.me.grant / w

/-- The elements below VL(w) whose mask bit is 1, ascending (R183). -/
def State.actives (s : State) (k w : Nat) : List Nat := (List.range (s.vl w)).filter (fun i => (s.getK k).testBit (gran i w))

/-- The elements of VLD and VST (R211). An address past the end of the 64-bit space wraps, as R211 says for the strided forms (log 87, the
model's choice). -/
def contig (b5 : BitVec 5) (k : BitVec 3) (w : Nat) (b : Reg64) (s : State) : List (Nat × Reg64) :=
  let n := if b5 = 0 then s.vl w else min (s.vl w) (s.getG b5.toNat).toNat
  ((s.actives k.toNat w).filter (fun i => decide (i < n))).map (fun i => (i, b + r64 (i * (w / 8))))

/-- The elements of VLDX, VSTX and VSTXC (R211); an address wraps as above (log 87). -/
def indexed (b5 : BitVec 5) (k : BitVec 3) (w : Nat) (b : Reg64) (s : State) : List (Nat × Reg64) :=
  let x := s.getV b5.toNat
  (s.actives k.toNat w).map (fun i => (i, b + r64 (elem 32 x i * (w / 8))))

/-- A destination code of R206: its width. -/
def cvtWidth (e : Nat) : Nat := if e < 4 then 8 * 2 ^ e else if e < 8 then elemWidth (BitVec.ofNat 3 e) else if e < 12 then 8 * 2 ^ (e - 8) else 8

/-- An active element before it has the same address (R213). -/
def late (l : List (Nat × Reg64)) (p : Nat × Reg64) : Bool := l.any (fun r => decide (r.1 < p.1) && r.2 == p.2)

/-- The elements of its vector operands that an instruction reads: for each register its number, the width, and the elements (R183, and the
departures it lists; R211). -/
def State.lanesRead (s : State) (i : Instr) : List (Nat × Nat × List Nat) :=
  let acts := fun (k t : BitVec 3) => s.actives k.toNat (elemWidth t)
  let below := fun (t : BitVec 3) => List.range (s.vl (elemWidth t))
  match i with
  | .vslideup _ a b k t =>
    let n := (s.getG b.toNat).toNat
    [(a.toNat, elemWidth t, ((acts k t).filter (fun e => decide (n ≤ e))).map (fun e => e - n))]
  | .vslidedn _ a b k t =>
    let n := (s.getG b.toNat).toNat
    [(a.toNat, elemWidth t, ((acts k t).filter (fun e => decide (e + n < s.vl (elemWidth t)))).map (fun e => e + n))]
  | .vperm _ a b k t =>
    let w := elemWidth t
    [(b.toNat, w, acts k t), (a.toNat, w, ((acts k t).map (fun e => elem w (s.getV b.toNat) e)).filter (fun e => decide (e < s.vl w)))]
  | .vmerge _ a b k t => [(a.toNat, elemWidth t, acts k t), (b.toNat, elemWidth t, (below t).filter (fun e => !(acts k t).contains e))]
  | .vexpd _ a k t => [(a.toNat, elemWidth t, List.range (acts k t).length)]
  | .vextr _ a b t => [(a.toNat, elemWidth t, (below t).filter (fun e => e == (s.getG b.toNat).toNat))]
  | .vcvt _ a _ e k t _ => [(a.toNat, elemWidth t, s.actives k.toNat (max (elemWidth t) (cvtWidth e.toNat)))]
  | .vpack _ a b k t _ =>
    let w := elemWidth t
    let n := s.vl (2 * w)
    let l := (List.range (2 * n)).filter (fun e => (s.getK k.toNat).testBit (gran e w))
    [(a.toNat, 2 * w, l.filter (fun e => decide (e < n))), (b.toNat, 2 * w, (l.filter (fun e => decide (n ≤ e))).map (fun e => e - n))]
  | .vunpk _ a _ _ h k t =>
    let w := elemWidth t
    [(a.toNat, w, (s.actives k.toNat (2 * w)).map (fun e => h.toNat * s.vl (2 * w) + e))]
  | .visect _ a b k t => [(a.toNat, elemWidth t, acts k t), (b.toNat, elemWidth t, if acts k t = [] then [] else below t)]
  | .vst d a b k t => [(d.toNat, elemWidth t, (contig b k (elemWidth t) (s.getG a.toNat) s).map (fun p => p.1))]
  | .vldx _ _ b k t => [(b.toNat, 32, acts k t)]
  | .vstx d _ b k t => [(b.toNat, 32, acts k t), (d.toNat, elemWidth t, acts k t)]
  | .vstxc d a b k t =>
    let l := indexed b k (elemWidth t) (s.getG a.toNat) s
    [(b.toNat, 32, acts k t), (d.toNat, elemWidth t, (l.filter (fun p => !late l p)).map (fun p => p.1))]
  | i =>
    let t := BitVec.ofNat 3 (sel 5 3 i.word)
    (opds i).filterMap (fun o => match o.reg with
      | .v n => if o.write then none else some (n, elemWidth t, acts (BitVec.ofNat 3 (sel 8 3 i.word)) t)
      | _ => none)

/-- The instruction's read of an operand takes in a window word (R289): of a vector register, only the elements it reads. -/
def State.readsWord (s : State) (i : Instr) (o : Opd) (b : Nat) : Bool :=
  !o.write && !isPort o && match o.reg with
  | .g n => n != 0 && overlaps b 4 (s.me.gOff n) 8
  | .k n => n != 0 && overlaps b 4 (s.me.kOff n) 8
  | .v n => (s.lanesRead i).any (fun r => r.1 == n && r.2.2.any (fun e => overlaps b 4 (s.me.vOff n + e * (r.2.1 / 8)) (r.2.1 / 8)))

/-! ## Running one instruction -/

/-- What the effect of an instruction comes to: it completes in sequence, transfers control, traps before any effect, waits, has
more parts to come, or ends its task. -/
inductive Act where
  | done (s : State)
  | jump (s : State) (pc : Reg64)
  | trap (cause : Nat) (val : Reg64)
  /-- A trap that rests on these operands alone, whatever the others hold. -/
  | trapOn (on : List Opd) (cause : Nat) (val : Reg64)
  | wait (s : State) (w : Wait)
  /-- A part of the effect is done, and the slot's next instruction is this one again (R249). -/
  | stay (s : State)
  | retire (s : State)

/-- The entries the instruction dequeues: one of each inbound port it names (R69, R72). -/
def Slot.dequeue (x : Slot) (o : Opd) : Slot :=
  if o.inbound then
    match o.reg with
    | .g n =>
      if n = 63 then
        match x.inbox with
        | (_ :: []) :: l => { x with inbox := l }
        | (_ :: t) :: l => { x with inbox := t :: l }
        | [] :: l => { x with inbox := l }
        | [] => x
      else x.setQueue (n - 56) (x.queue (n - 56)).tail
    | .k _ => x
    | .v n => if n = 28 then { x with vq0 := x.vq0.tail } else { x with vq1 := x.vq1.tail }
  else x

/-- The first of the slot's bad words that the instruction's operands of the list read (R289). -/
def State.badRead (s : State) (i : Instr) (l : List Opd) : Option Nat := s.me.bad.find? (fun b => l.any (fun o => s.readsWord i o b))

def State.dequeueAll (s : State) (i : Instr) : State := s.modMe (fun x => (opds i).foldl Slot.dequeue x)

/-- One body word of an RPT frame completes: the next word, the next replay, or the end of the frame (R147). -/
def State.rptNext (s : State) (h : Nat) : State :=
  let x := s.slot h
  let at0 := x.pc - r64 (4 * (x.rptI + 1))
  match s.wordAt h at0 with
  | none => s.setSlot h { x with pc := x.pc + 4 }
  | some w =>
    let r := Rpt.ofWord w
    let x := x.resume
    if x.rptI + 1 < r.len then s.setSlot h { x with xstat := setBits x.xstat 51 4 (x.rptI + 1), pc := x.pc + 4 }
    else if x.rptJ + 1 < r.reps then s.setSlot h { x with xstat := setBits (setBits x.xstat 51 4 0) 55 8 (x.rptJ + 1), pc := at0 + 4 }
    else (s.setSlot h { x with xstat := setBits x.xstat 63 1 0, rptOn := false }).backEdge 4 h (at0 + r64 (4 * r.len)) (at0 + r64 (4 * r.len + 4))

/-- The instruction completes in sequence. -/
def State.commit (s : State) (i : Instr) : State :=
  let s := s.dequeueAll i
  if s.me.rptOn then s.rptNext s.cur else s.advance s.cur (4 * i.words)

/-- The instruction transfers control. -/
def State.commitJump (s : State) (i : Instr) (pc : Reg64) : State :=
  (s.dequeueAll i).modMe (fun x => { x.resume with pc := pc })

/-- The slot waits; the clk since which it waits for this reason stays (R407). -/
def State.mark (s : State) (w : Wait) : State :=
  s.modMe (fun x => { x with waiting := match x.waiting with | some (k, t) => if k = w then some (k, t) else some (w, s.clk) | none => some (w, s.clk) })

/-- A storage error delivered as cause 0x08 has its record (R285, R290): about the core that holds the word, a nib, or a channel of a
stack, the latter two with the management plane (R283). -/
def State.storageTrap (s : State) (cause : Nat) (val : Reg64) : State :=
  let off := bits val 0 48
  let r := s.me.recordOf s.cur 4 8 val s.me.pc
  if cause ≠ 8 then s
  else if isNib s.cur then s.recordMgmt r
  else if onChip off then s.record (clusterOfAddr off) { r with unit := coreOfAddr off, ukind := 13 }
  else s.recordMgmt { r with unit := channelOf off, ukind := 9 }

/-- A trap of the instruction the hart issues. -/
def State.trapMe (s : State) (i : Instr) (cause : Nat) (val : Reg64) : State := (s.storageTrap cause val).trapAt s.cur cause val s.me.pc i.word

/-- What an act makes of the state it began in. An instruction that ends its task has issued too: it takes its ports' entries (R69, R72). -/
def State.take (s : State) (i : Instr) : Act → State
  | .done s' => s'.commit i
  | .jump s' pc => s'.commitJump i pc
  | .trap c v => s.trapMe i c v
  | .trapOn _ c v => s.trapMe i c v
  | .wait s' w => s'.mark w
  | .stay s' => s'.modMe Slot.resume
  | .retire s' => (s'.dequeueAll i).modMe (Slot.beginRetire s'.clk)

/-- A trap whose saved pc is not the issuing instruction's: of a fetch it makes (R138), of the frame it returns to (R148), or after a
part of its effect (R249). -/
def State.trapActAt (s : State) (cause : Nat) (val pc : Reg64) (iw : Word) : Act :=
  if isTask s.cur then
    if s.me.xvec ≠ 0 ∧ ¬ s.me.tr then .jump (s.modMe (fun y => y.enterTrap cause val pc)) s.me.xvec
    else .retire (s.deliver s.cur cause val pc iw)
  else .jump (s.deliver s.cur cause val pc iw) s.me.pc

/-- A residue mismatch (R289) at this hart: the replay's record, and cause 0x08 where it fails again. -/
def State.residue (s : State) (h : Nat) : Option (Nat × Bool × Bool) :=
  s.softErrors.findSome? (fun e => match e with | .residue h' off tw w => if h' = h then some (off, tw, w) else none | _ => none)

/-- One event of the unit a hart is (R292): its core, or its nib; a control core is none of those that leave (R293). -/
def State.countHart (s : State) (h : Nat) : State := if isCore h then s.noteUnit (cidOf h) else if isNib h then s.noteUnit (18432 + nibOf h) else s

/-- An instruction replayed after a residue mismatch: a kind-4 record and an event of the core (R289, R291). -/
def State.replayed (s : State) (h off : Nat) : State :=
  let x := s.slot h
  let s := if isCore h then s.record (clusterOf h) { x.recordOf h 4 8 (r64 off) x.pc with ukind := 13 } else s.recordMgmt (x.recordOf h 4 8 (r64 off) x.pc)
  s.countHart h

/-- The registers an instruction reads are checked (R289): a residue mismatch at this hart has its record and is replayed; one that fails again,
which in a register word stays until the word is written, and a word that has stayed bad give the window offset for cause 0x08. Of several mismatches listed
for the hart an instruction meets the first; the others are left to the instructions after it. -/
def State.readCheck (s : State) (i : Instr) (l : List Opd) : State × Option Nat :=
  match s.residue s.cur with
  | some e =>
    let s := ({ s with softErrors := s.softErrors.erase (.residue s.cur e.1 e.2.1 e.2.2) } : State).replayed s.cur e.1
    (if e.2.1 ∧ e.2.2 then s.modMe (fun x => { x with bad := insertNat e.1 x.bad }) else s, if e.2.1 then some e.1 else none)
  | none => match s.badRead i l with
    | some b => (s.replayed s.cur b, some b)
    | none => (s, none)

def State.residueTrap (s : State) (h off : Nat) : State := s.trapAt h 8 (r64 off) (s.slot h).pc 0

/-- A trap that some operands decide, once they have been read (R83, R289). -/
def State.trapReading (s : State) (i : Instr) (l : List Opd) (cause : Nat) (val : Reg64) : State :=
  let r := s.readCheck i l
  match r.2 with
  | some b => r.1.residueTrap s.cur b
  | none => r.1.trapMe i cause val

/-- The hart can issue: it holds a task or routine that is not waiting for an operation of its own, ending, or delayed. -/
def Slot.issues (x : Slot) : Bool := x.live && !x.retiring && x.blocked.isNone && !x.halted

/-- Nothing stands between the instruction and its effect: the hart issues, no trap condition of R83 and no wait holds. -/
def ready (i : Instr) (s : State) : Bool :=
  s.me.issues && (issueTrap i s).isNone && (issueWait i s).isNone

/-- The instruction `i` issued by the current hart, with its effect `body`: the checks of R83, the waits, the effect. A hart that
does not issue leaves the state as it is. -/
def runState (i : Instr) (s : State) (body : State → Act) : State :=
  if ¬ s.me.issues then s
  else match issueTrap i s with
    | some t => s.trapMe i t.1 t.2
    | none =>
      match issueWait i s with
      | none => s.take i (body s)
      | some w =>
        match body s with
        | .trap c v => if s.decided (deciding i) then s.trapReading i (deciding i) c v else s.mark w
        | .trapOn l c v => if s.decided l then s.trapReading i l c v else s.mark w
        | _ => s.mark w

def run (i : Instr) (s : State) (body : State → Act) : Host.Outcome State Fault Refusal := .next (runState i s body)

/-- A slot of a core waits with a request now: one that has trapped meanwhile, retires or is pre-empted waits no longer (R119, R403). -/
def State.wantsBuffer (s : State) (c sl : Nat) : Bool :=
  let x := s.slot (hartOf c sl)
  x.live && !x.retiring && !x.preempt && x.waiting.any (fun w => w.1 == .request)

/-- A request leaves the core's network interface: it needs a request buffer slot, served in the order of the waits (R403). -/
def withBuffer (s : State) (k : State → Act) : Act :=
  let c := cidOf s.cur
  let w := (s.core c).bufWait.filter (s.wantsBuffer c)
  let ahead := if w.contains (slOf s.cur) then (w.takeWhile (fun q => q != slOf s.cur)).length else w.length
  if s.bufUsed c + ahead < 8 then k (s.modCore c (fun x => { x with bufWait := w.filter (fun q => q != slOf s.cur) }))
  else .wait (s.modCore c (fun x => { x with bufWait := if w.contains (slOf s.cur) then w else w ++ [slOf s.cur] })) .request

/-- An acquire that has not completed, or a load, VTILD or PIPEDECL that is held back or on its way (R243). -/
def Op.holding (o : Op) : Bool :=
  match o.kind with
  | .acquire _ | .load _ _ _ | .table _ _ _ | .declare _ => true
  | .atomic _ _ _ _ _ ord _ _ _ => ord == 1 && decide (o.stage < 2)
  | _ => false

/-- The issuing slot's accesses are held in the network interface (R243). -/
def State.accessesHeld (s : State) : Bool := s.ops.any (fun o => o.owner == s.cur && o.task == s.me.uid && o.holding)

/-- An operation is held there behind an earlier acquire of its slot. -/
def State.heldBack (s : State) (o : Op) : Bool :=
  s.ops.any (fun p => p.owner == o.owner && p.task == o.task && decide (p.id < o.id) && p.holding)

/-- An instruction that completes before the slot's next one waits for the acquires before its accesses (R106, R243, log 12). -/
def afterAcquire (s : State) (w : Wait) (k : State → Act) : Act := if s.accessesHeld then .wait s w else k s

/-- A release waits for the slot's store-acknowledge counter (R229, R242). -/
def afterStores (s : State) (k : State → Act) : Act := if s.me.acks = 0 then k s else .wait s .release

end Sys2Proof.Machine
end

