-- ==== Sys2Proof/Machine/Flags.lean ====
section
/-! DEFINITION. The flags and the rounding mode of fcr (R46, R51, R52), the stochastic-rounding state (R50) and the inline
constants (R73 to R75). -/

namespace Sys2Proof.Machine

/-- Flags ORed into fcr bits 12:8 (R52). -/
def orFlags (fcr : Reg64) (f : Flags) : Reg64 := fcr ||| r64 (f.bits * 2 ^ 8)

/-- The rounding mode in force (R51): codes 6 and 7 cannot stand in fcr. -/
def Slot.mode (x : Slot) : Rnd := (Rnd.ofCode (bits x.fcr 0 3)).getD .rne

/-- The mode of an explicit rounding field (R46): 7 takes fcr's. -/
def Slot.modeOf (x : Slot) (code : Nat) : Rnd := if code = 7 then x.mode else (Rnd.ofCode code).getD .rne

/-- fcr and srs after an instruction's roundings. -/
def State.withFlags (s : State) (f : Flags) (srs : Reg64) : State := s.modMe (fun x => { x with fcr := orFlags x.fcr f, srs := srs })

/-- A write of fcr is allowed: no reserved bit, no reserved mode (R46, R51). -/
def fcrOk (v : Reg64) : Bool := bits v 13 51 == 0 && bits v 3 5 == 0 && decide (bits v 0 3 < 6)

/-- The value of an integer constant entry 0 to 31 (R74). -/
def constInt (c : Nat) : Int := if c < 16 then c else if c < 24 then 15 - (c : Int) else 2 ^ (c - 20)

/-- An integer constant at width w (R73). -/
def constWord (w c : Nat) : Nat := wrap w (constInt c)

/-- The FP64, FP32 and FP16 patterns of entries 32 to 61 (R75); BF16 is tabulated too. -/
def constTable : List (Nat × Nat × Nat × Nat) :=
  [(0x3800, 0x3F00, 0x3F000000, 0x3FE0000000000000), (0x3400, 0x3E80, 0x3E800000, 0x3FD0000000000000),
   (0x3000, 0x3E00, 0x3E000000, 0x3FC0000000000000), (0x2C00, 0x3D80, 0x3D800000, 0x3FB0000000000000),
   (0x2800, 0x3D00, 0x3D000000, 0x3FA0000000000000), (0x2400, 0x3C80, 0x3C800000, 0x3F90000000000000),
   (0x2000, 0x3C00, 0x3C000000, 0x3F80000000000000), (0x1C00, 0x3B80, 0x3B800000, 0x3F70000000000000),
   (0x3555, 0x3EAB, 0x3EAAAAAB, 0x3FD5555555555555), (0x3266, 0x3E4D, 0x3E4CCCCD, 0x3FC999999999999A),
   (0x3155, 0x3E2B, 0x3E2AAAAB, 0x3FC5555555555555), (0x3092, 0x3E12, 0x3E124925, 0x3FC2492492492492),
   (0x2F1C, 0x3DE4, 0x3DE38E39, 0x3FBC71C71C71C71C), (0x2E66, 0x3DCD, 0x3DCCCCCD, 0x3FB999999999999A),
   (0x2D55, 0x3DAB, 0x3DAAAAAB, 0x3FB5555555555555), (0x1C04, 0x3B81, 0x3B808081, 0x3F70101010101010)]
  ++
  [(0x4248, 0x4049, 0x40490FDB, 0x400921FB54442D18), (0x4170, 0x402E, 0x402DF854, 0x4005BF0A8B145769),
   (0x398C, 0x3F31, 0x3F317218, 0x3FE62E42FEFA39EF), (0x3DC5, 0x3FB9, 0x3FB8AA3B, 0x3FF71547652B82FE),
   (0x3DA8, 0x3FB5, 0x3FB504F3, 0x3FF6A09E667F3BCD), (0x39A8, 0x3F35, 0x3F3504F3, 0x3FE6A09E667F3BCD),
   (0x3A62, 0x3F4C, 0x3F4C422A, 0x3FE9884533D43651), (0x29B9, 0x3D37, 0x3D372713, 0x3FA6E4E26D4801F7),
   (0x7C00, 0x7F80, 0x7F800000, 0x7FF0000000000000), (0xFC00, 0xFF80, 0xFF800000, 0xFFF0000000000000),
   (0x7BFF, 0x7F7F, 0x7F7FFFFF, 0x7FEFFFFFFFFFFFFF), (0x0400, 0x0080, 0x00800000, 0x0010000000000000),
   (0x8000, 0x8000, 0x80000000, 0x8000000000000000), (0x7E00, 0x7FC0, 0x7FC00000, 0x7FF8000000000000)]

/-- A constant in the context of a floating-point element type 4 to 7 (R73 to R75): the integer entries are exact. -/
def constFp (t c : Nat) : Nat :=
  if c < 32 then
    let f := if t = 4 then fp16 else if t = 5 then bf16 else if t = 6 then fp32 else fp64
    (f.round .rne false 0 (XNum.ofInt false (constInt c) 0)).bits
  else
    let e := constTable.getD (c - 32) (0, 0, 0, 0)
    if t = 4 then e.1 else if t = 5 then e.2.1 else if t = 6 then e.2.2.1 else e.2.2.2

end Sys2Proof.Machine
end

