-- ==== Sys2Proof/Machine/Alu.lean ====
section
/-! DEFINITION. ALU, ALUI, LI, LIH and LEA (R129 to R134). -/

namespace Sys2Proof.Machine

/-- The width of an ALU word (R129). -/
def aluWidth (w : BitVec 1) : Nat := if w = 1 then 32 else 64

/-- Source y: a constant or g[b] at the width (R129). -/
def State.aluY (s : State) (w c : BitVec 1) (b : BitVec 6) : Nat :=
  if c = 1 then constWord (aluWidth w) b.toNat else (s.getG b.toNat).toNat % 2 ^ aluWidth w

def State.aluX (s : State) (w : BitVec 1) (a : BitVec 6) : Nat := (s.getG a.toNat).toNat % 2 ^ aluWidth w

/-- The result modulo 2^w, sign-extended from 32 bits in 32-bit mode (R129). -/
def aluResult (w : BitVec 1) (r : Nat) : Reg64 := if w = 1 then sextNat 32 r else r64 r

/-- g[d] := op(x, y) (R129). -/
def alu2 (f : Nat → Nat → Nat → Nat) (d a b : BitVec 6) (w c : BitVec 1) (s : State) : Act :=
  .done (s.putG d.toNat (aluResult w (f (aluWidth w) (s.aluX w a) (s.aluY w c b))))

/-- g[d] := op(x) (R131). -/
def alu1 (f : Nat → Nat → Nat) (d a : BitVec 6) (w : BitVec 1) (s : State) : Act :=
  .done (s.putG d.toNat (aluResult w (f (aluWidth w) (s.aluX w a))))

/-- g[d] := op(x, y, z), z the old g[d] (R129). -/
def alu3 (f : Nat → Nat → Nat → Nat) (d a b : BitVec 6) (w c : BitVec 1) (s : State) : Act :=
  .done (s.putG d.toNat (aluResult w (f (s.aluX w a) (s.aluY w c b) (s.aluX w d))))

/-! The operations of R130 at width n. -/

def opAdd (_ x y : Nat) : Nat := x + y
def opSub (n x y : Nat) : Nat := x + (2 ^ n - y)
def opMul (_ x y : Nat) : Nat := x * y
def opMulh (n x y : Nat) : Nat := wrap n (asSigned n x * asSigned n y / 2 ^ n)
def opMulhn (n x y : Nat) : Nat := x * y / 2 ^ n
def opMadd (x y z : Nat) : Nat := z + x * y
/-- R33: divisor 0 gives −1; the most negative value divided by −1 gives the dividend. -/
def opDiv (n x y : Nat) : Nat := if y = 0 then 2 ^ n - 1 else wrap n ((asSigned n x).tdiv (asSigned n y))
def opDivn (n x y : Nat) : Nat := if y = 0 then 2 ^ n - 1 else x / y
def opRem (n x y : Nat) : Nat := if y = 0 then x else wrap n ((asSigned n x).tmod (asSigned n y))
def opRemn (_ x y : Nat) : Nat := if y = 0 then x else x % y
def opAnd (_ x y : Nat) : Nat := x &&& y
def opOr (_ x y : Nat) : Nat := x ||| y
def opXor (_ x y : Nat) : Nat := x ^^^ y
def opAndn (n x y : Nat) : Nat := x &&& (2 ^ n - 1 - y)
def opShl (n x y : Nat) : Nat := x * 2 ^ (y % n)
def opShr (n x y : Nat) : Nat := x / 2 ^ (y % n)
def opSar (n x y : Nat) : Nat := wrap n (asSigned n x / 2 ^ (y % n))
def opRol (n x y : Nat) : Nat := x * 2 ^ (y % n) % 2 ^ n + x / 2 ^ (n - y % n)
def opMin (n x y : Nat) : Nat := if asSigned n x ≤ asSigned n y then x else y
def opMax (n x y : Nat) : Nat := if asSigned n x ≤ asSigned n y then y else x
def opMinn (_ x y : Nat) : Nat := min x y
def opMaxn (_ x y : Nat) : Nat := max x y
def opSlt (n x y : Nat) : Nat := if asSigned n x < asSigned n y then 1 else 0
def opSltn (_ x y : Nat) : Nat := if x < y then 1 else 0
def opSeq (_ x y : Nat) : Nat := if x = y then 1 else 0
def opClz (n x : Nat) : Nat := if x = 0 then n else n - 1 - Nat.log2 x
/-- The trailing zeros of x below bit k. -/
def ctzGo : Nat → Nat → Nat
  | 0, _ => 0
  | k + 1, x => if x % 2 = 1 then 0 else 1 + ctzGo k (x / 2)
def opCtz (n x : Nat) : Nat := ctzGo n x
def popGo : Nat → Nat → Nat
  | 0, _ => 0
  | k + 1, x => x % 2 + popGo k (x / 2)
def opPop (n x : Nat) : Nat := popGo n x
def revGo : Nat → Nat → Nat → Nat
  | 0, _, _ => 0
  | k + 1, u, x => x % u * u ^ k + revGo k u (x / u)
def opBrev (n x : Nat) : Nat := revGo n 2 x
def opBswap (n x : Nat) : Nat := revGo (n / 8) 256 x
def opSext (n x y : Nat) : Nat := if y % n = 0 then x else wrap n (asSigned (y % n) x)
def opZext (n x y : Nat) : Nat := if y % n = 0 then x else x % 2 ^ (y % n)
def opSel (x y z : Nat) : Nat := if z ≠ 0 then x else y

/-! The meanings (R129 to R131). -/

def execAdd (d a b : BitVec 6) (w c : BitVec 1) (s : State) : Host.Outcome State Fault Refusal :=
  run (.add d a b w c) s (alu2 opAdd d a b w c)

def execSub (d a b : BitVec 6) (w c : BitVec 1) (s : State) : Host.Outcome State Fault Refusal :=
  run (.sub d a b w c) s (alu2 opSub d a b w c)

def execMul (d a b : BitVec 6) (w c : BitVec 1) (s : State) : Host.Outcome State Fault Refusal :=
  run (.mul d a b w c) s (alu2 opMul d a b w c)

def execMulh (d a b : BitVec 6) (w c : BitVec 1) (s : State) : Host.Outcome State Fault Refusal :=
  run (.mulh d a b w c) s (alu2 opMulh d a b w c)

def execMulhn (d a b : BitVec 6) (w c : BitVec 1) (s : State) : Host.Outcome State Fault Refusal :=
  run (.mulhn d a b w c) s (alu2 opMulhn d a b w c)

def execDiv (d a b : BitVec 6) (w c : BitVec 1) (s : State) : Host.Outcome State Fault Refusal :=
  run (.div d a b w c) s (alu2 opDiv d a b w c)

def execDivn (d a b : BitVec 6) (w c : BitVec 1) (s : State) : Host.Outcome State Fault Refusal :=
  run (.divn d a b w c) s (alu2 opDivn d a b w c)

def execRem (d a b : BitVec 6) (w c : BitVec 1) (s : State) : Host.Outcome State Fault Refusal :=
  run (.rem d a b w c) s (alu2 opRem d a b w c)

def execRemn (d a b : BitVec 6) (w c : BitVec 1) (s : State) : Host.Outcome State Fault Refusal :=
  run (.remn d a b w c) s (alu2 opRemn d a b w c)

def execAnd (d a b : BitVec 6) (w c : BitVec 1) (s : State) : Host.Outcome State Fault Refusal :=
  run (.and d a b w c) s (alu2 opAnd d a b w c)

def execOr (d a b : BitVec 6) (w c : BitVec 1) (s : State) : Host.Outcome State Fault Refusal :=
  run (.or d a b w c) s (alu2 opOr d a b w c)

def execXor (d a b : BitVec 6) (w c : BitVec 1) (s : State) : Host.Outcome State Fault Refusal :=
  run (.xor d a b w c) s (alu2 opXor d a b w c)

def execAndn (d a b : BitVec 6) (w c : BitVec 1) (s : State) : Host.Outcome State Fault Refusal :=
  run (.andn d a b w c) s (alu2 opAndn d a b w c)

def execShl (d a b : BitVec 6) (w c : BitVec 1) (s : State) : Host.Outcome State Fault Refusal :=
  run (.shl d a b w c) s (alu2 opShl d a b w c)

def execShr (d a b : BitVec 6) (w c : BitVec 1) (s : State) : Host.Outcome State Fault Refusal :=
  run (.shr d a b w c) s (alu2 opShr d a b w c)

def execSar (d a b : BitVec 6) (w c : BitVec 1) (s : State) : Host.Outcome State Fault Refusal :=
  run (.sar d a b w c) s (alu2 opSar d a b w c)

def execRol (d a b : BitVec 6) (w c : BitVec 1) (s : State) : Host.Outcome State Fault Refusal :=
  run (.rol d a b w c) s (alu2 opRol d a b w c)

def execMin (d a b : BitVec 6) (w c : BitVec 1) (s : State) : Host.Outcome State Fault Refusal :=
  run (.min d a b w c) s (alu2 opMin d a b w c)

def execMax (d a b : BitVec 6) (w c : BitVec 1) (s : State) : Host.Outcome State Fault Refusal :=
  run (.max d a b w c) s (alu2 opMax d a b w c)

def execMinn (d a b : BitVec 6) (w c : BitVec 1) (s : State) : Host.Outcome State Fault Refusal :=
  run (.minn d a b w c) s (alu2 opMinn d a b w c)

def execMaxn (d a b : BitVec 6) (w c : BitVec 1) (s : State) : Host.Outcome State Fault Refusal :=
  run (.maxn d a b w c) s (alu2 opMaxn d a b w c)

def execSlt (d a b : BitVec 6) (w c : BitVec 1) (s : State) : Host.Outcome State Fault Refusal :=
  run (.slt d a b w c) s (alu2 opSlt d a b w c)

def execSltn (d a b : BitVec 6) (w c : BitVec 1) (s : State) : Host.Outcome State Fault Refusal :=
  run (.sltn d a b w c) s (alu2 opSltn d a b w c)

def execSeq (d a b : BitVec 6) (w c : BitVec 1) (s : State) : Host.Outcome State Fault Refusal :=
  run (.seq d a b w c) s (alu2 opSeq d a b w c)

def execSext (d a b : BitVec 6) (w c : BitVec 1) (s : State) : Host.Outcome State Fault Refusal :=
  run (.sext d a b w c) s (alu2 opSext d a b w c)

def execZext (d a b : BitVec 6) (w c : BitVec 1) (s : State) : Host.Outcome State Fault Refusal :=
  run (.zext d a b w c) s (alu2 opZext d a b w c)

def execMadd (d a b : BitVec 6) (w c : BitVec 1) (s : State) : Host.Outcome State Fault Refusal :=
  run (.madd d a b w c) s (alu3 opMadd d a b w c)

def execSel (d a b : BitVec 6) (w c : BitVec 1) (s : State) : Host.Outcome State Fault Refusal :=
  run (.sel d a b w c) s (alu3 opSel d a b w c)

def execClz (d a : BitVec 6) (w : BitVec 1) (s : State) : Host.Outcome State Fault Refusal :=
  run (.clz d a w) s (alu1 opClz d a w)

def execCtz (d a : BitVec 6) (w : BitVec 1) (s : State) : Host.Outcome State Fault Refusal :=
  run (.ctz d a w) s (alu1 opCtz d a w)

def execPop (d a : BitVec 6) (w : BitVec 1) (s : State) : Host.Outcome State Fault Refusal :=
  run (.pop d a w) s (alu1 opPop d a w)

def execBrev (d a : BitVec 6) (w : BitVec 1) (s : State) : Host.Outcome State Fault Refusal :=
  run (.brev d a w) s (alu1 opBrev d a w)

def execBswap (d a : BitVec 6) (w : BitVec 1) (s : State) : Host.Outcome State Fault Refusal :=
  run (.bswap d a w) s (alu1 opBswap d a w)

/-! ## ALUI (R132) -/

/-- imm10, or ext26:imm10 after an X word, sign-extended (R78). -/
def imm10 (i : BitVec 10) : Reg64 := i.signExtend 64
def imm36 (e : BitVec 26) (i : BitVec 10) : Reg64 := (e ++ i).signExtend 64
def imm14 (i : BitVec 14) : Reg64 := i.signExtend 64
def imm40 (e : BitVec 26) (i : BitVec 14) : Reg64 := (e ++ i).signExtend 64

/-- g[d] := op(g[a]). -/
def aluI (f : Reg64 → Reg64) (d a : BitVec 6) (s : State) : Act := .done (s.putG d.toNat (f (s.getG a.toNat)))

def bit64 (b : Bool) : Reg64 := if b then 1 else 0

def opAddi (m x : Reg64) : Reg64 := x + m
def opAndi (m x : Reg64) : Reg64 := x &&& m
def opOri (m x : Reg64) : Reg64 := x ||| m
def opXori (m x : Reg64) : Reg64 := x ^^^ m
def opSlti (m x : Reg64) : Reg64 := bit64 (x.slt m)
def opSltni (m x : Reg64) : Reg64 := bit64 (x.ult m)
def opMuli (m x : Reg64) : Reg64 := x * m
def opShli (k : Nat) (x : Reg64) : Reg64 := x <<< k
def opShri (k : Nat) (x : Reg64) : Reg64 := x >>> k
def opSari (k : Nat) (x : Reg64) : Reg64 := x.sshiftRight k

def execAddi (d a : BitVec 6) (i : BitVec 10) (s : State) : Host.Outcome State Fault Refusal :=
  run (.addi d a i) s (aluI (opAddi (imm10 i)) d a)

def execAddiX (d a : BitVec 6) (i : BitVec 10) (e : BitVec 26) (s : State) : Host.Outcome State Fault Refusal :=
  run (.addiX d a i e) s (aluI (opAddi (imm36 e i)) d a)

def execAndi (d a : BitVec 6) (i : BitVec 10) (s : State) : Host.Outcome State Fault Refusal :=
  run (.andi d a i) s (aluI (opAndi (imm10 i)) d a)

def execAndiX (d a : BitVec 6) (i : BitVec 10) (e : BitVec 26) (s : State) : Host.Outcome State Fault Refusal :=
  run (.andiX d a i e) s (aluI (opAndi (imm36 e i)) d a)

def execOri (d a : BitVec 6) (i : BitVec 10) (s : State) : Host.Outcome State Fault Refusal :=
  run (.ori d a i) s (aluI (opOri (imm10 i)) d a)

def execOriX (d a : BitVec 6) (i : BitVec 10) (e : BitVec 26) (s : State) : Host.Outcome State Fault Refusal :=
  run (.oriX d a i e) s (aluI (opOri (imm36 e i)) d a)

def execXori (d a : BitVec 6) (i : BitVec 10) (s : State) : Host.Outcome State Fault Refusal :=
  run (.xori d a i) s (aluI (opXori (imm10 i)) d a)

def execXoriX (d a : BitVec 6) (i : BitVec 10) (e : BitVec 26) (s : State) : Host.Outcome State Fault Refusal :=
  run (.xoriX d a i e) s (aluI (opXori (imm36 e i)) d a)

def execSlti (d a : BitVec 6) (i : BitVec 10) (s : State) : Host.Outcome State Fault Refusal :=
  run (.slti d a i) s (aluI (opSlti (imm10 i)) d a)

def execSltiX (d a : BitVec 6) (i : BitVec 10) (e : BitVec 26) (s : State) : Host.Outcome State Fault Refusal :=
  run (.sltiX d a i e) s (aluI (opSlti (imm36 e i)) d a)

def execSltni (d a : BitVec 6) (i : BitVec 10) (s : State) : Host.Outcome State Fault Refusal :=
  run (.sltni d a i) s (aluI (opSltni (imm10 i)) d a)

def execSltniX (d a : BitVec 6) (i : BitVec 10) (e : BitVec 26) (s : State) : Host.Outcome State Fault Refusal :=
  run (.sltniX d a i e) s (aluI (opSltni (imm36 e i)) d a)

def execMuli (d a : BitVec 6) (i : BitVec 10) (s : State) : Host.Outcome State Fault Refusal :=
  run (.muli d a i) s (aluI (opMuli (imm10 i)) d a)

def execMuliX (d a : BitVec 6) (i : BitVec 10) (e : BitVec 26) (s : State) : Host.Outcome State Fault Refusal :=
  run (.muliX d a i e) s (aluI (opMuli (imm36 e i)) d a)

def execShli (d a q : BitVec 6) (s : State) : Host.Outcome State Fault Refusal :=
  run (.shli d a q) s (aluI (opShli q.toNat) d a)

def execShliX (d a q : BitVec 6) (s : State) : Host.Outcome State Fault Refusal :=
  run (.shliX d a q) s (aluI (opShli q.toNat) d a)

def execShri (d a q : BitVec 6) (s : State) : Host.Outcome State Fault Refusal :=
  run (.shri d a q) s (aluI (opShri q.toNat) d a)

def execShriX (d a q : BitVec 6) (s : State) : Host.Outcome State Fault Refusal :=
  run (.shriX d a q) s (aluI (opShri q.toNat) d a)

def execSari (d a q : BitVec 6) (s : State) : Host.Outcome State Fault Refusal :=
  run (.sari d a q) s (aluI (opSari q.toNat) d a)

def execSariX (d a q : BitVec 6) (s : State) : Host.Outcome State Fault Refusal :=
  run (.sariX d a q) s (aluI (opSari q.toNat) d a)

/-! ## LI, LIH, LEA (R133, R134) -/

def putImm (d : BitVec 6) (v : Reg64) (s : State) : Act := .done (s.putG d.toNat v)

/-- LIH: bits 63:40 of g[d] are the immediate's low 24 bits; the other bits stay. -/
def putHigh (d : BitVec 6) (v : Reg64) (s : State) : Act := .done (s.putG d.toNat (setBits (s.getG d.toNat) 40 24 v.toNat))

/-- The base of LEA: the address of the instruction's first word when a is 0. -/
def leaBase (a : BitVec 6) (m : Reg64) (d : BitVec 6) (s : State) : Act :=
  .done (s.putG d.toNat ((if a = 0 then s.me.pc else s.getG a.toNat) + m))

def execLi (d : BitVec 6) (i : BitVec 14) (s : State) : Host.Outcome State Fault Refusal := run (.li d i) s (putImm d (imm14 i))
def execLiX (d : BitVec 6) (i : BitVec 14) (e : BitVec 26) (s : State) : Host.Outcome State Fault Refusal :=
  run (.liX d i e) s (putImm d (imm40 e i))
def execLih (d : BitVec 6) (i : BitVec 14) (s : State) : Host.Outcome State Fault Refusal := run (.lih d i) s (putHigh d (imm14 i))
def execLihX (d : BitVec 6) (i : BitVec 14) (e : BitVec 26) (s : State) : Host.Outcome State Fault Refusal :=
  run (.lihX d i e) s (putHigh d (imm40 e i))
def execLea (d a : BitVec 6) (i : BitVec 14) (s : State) : Host.Outcome State Fault Refusal := run (.lea d a i) s (leaBase a (imm14 i) d)
def execLeaX (d a : BitVec 6) (i : BitVec 14) (e : BitVec 26) (s : State) : Host.Outcome State Fault Refusal :=
  run (.leaX d a i e) s (leaBase a (imm40 e i) d)

end Sys2Proof.Machine
end

