-- ==== Sys2Proof/Machine/Issue.lean ====
section
/-! DEFINITION. Choosing what runs next: fetching and decoding a hart's next instruction (R138, R147), the issue order of a core
(R105), throttling (R24), soft errors met at issue (R289), and placing a word where the step fetches. -/

namespace Sys2Proof.Machine

/-- The instruction at hart h's pc. A pc that is no multiple of 4 names no instruction word (R76, log 14); an X word that is the
last word of the body of a loop on the stack is an illegal instruction (R78); the second word of a pair may lie outside the image
(R138). A pair whose second word is reserved reports the X word in xval (log 15, the model's choice). In an RPT frame the word is the
staggered one, in xval too (log 61, the model's choice). -/
def State.fetched (s : State) (h : Nat) : Instr :=
  let x := s.slot h
  if x.pc.toNat % 4 ≠ 0 then .instructionFetchOutsideImage x.pc
  else match s.wordAt h x.pc with
    | none => .instructionFetchOutsideImage x.pc
    | some w =>
      if sel 26 6 w = 0x3E ∧ x.loops.any (fun e => e.last == x.pc) = true then .illegalInstruction w
      else if sel 26 6 w = 0x3E ∧ (s.wordAt h (x.pc + 4)).isNone = true then .instructionFetchOutsideImage (x.pc + 4)
      else match decodeWords (s.bodyWord h w) (s.wordAt h (x.pc + 4)) with
      | .ok d => d.instr
      | .error _ => .illegalInstruction (s.bodyWord h w)

/-- A queued status is taken before the next instruction, unless the task is in a handler, ends or is being saved (R281). -/
def State.takesStatus (s : State) (h : Nat) : Bool :=
  let x := s.slot h
  isTask h && x.live && !x.retiring && !x.preempt && !x.tr && !x.edge && !x.statusQ.isEmpty

/-- The hart may try to issue now (R106, R107, R119). -/
def State.mayIssue (s : State) (h : Nat) : Bool :=
  let x := s.slot h
  x.issues && !x.preempt && !x.edge && decide (x.notBefore ≤ s.clk)

/-- After its turn the hart waits without having issued anything. -/
def State.waits (s' s : State) (h : Nat) : Bool :=
  let x := s'.slot h
  x.waiting.isSome && x.blocked.isNone && x.midway == (s.slot h).midway

/-- The order in which a core's slots are tried (R105). -/
def State.issueOrder (s : State) (c : Nat) : List Nat :=
  let l := (s.core c).lastSlot
  let pos := s.clk % 5
  hartOf c (if pos = 0 then 4 else pos - 1) :: hartOf c 4 :: (List.range 4).map (fun i => hartOf c ((l + 1 + i) % 4))

/-- A core has issued in this clk (R105). -/
def State.noteIssue (s : State) (h : Nat) : State :=
  s.modCore (cidOf h) (fun c => { c with lastSlot := if isTask h then slOf h else c.lastSlot, issuedAt := some s.clk })

/-- The core's issue slot of this clk is gone: it has issued (R21, R105); a probe has looked at its deque, which comes after the core's
own operation of that clk (R110); or a core of a higher octet slot has issued, or a slot of this core or a higher one has renegotiated,
whose renegotiation comes after this one's (R168). -/
def State.issueGone (s : State) (c : Nat) : Bool :=
  (s.core c).probedAt == some s.clk || (s.panel (c / 8)).reneg.any (fun r => r.1 == s.clk && decide (c % 8 ≤ r.2 / 4)) || (List.range 8).any (fun i => decide (c % 8 ≤ i) && (s.core (c / 8 * 8 + i)).issuedAt == some s.clk)

/-- The last L clk of a throttle period issue nothing (R24). -/
def State.throttled (s : State) (c : Nat) : Bool := decide (8 - Tab.getD s.throttle (c / 4096) 0 ≤ s.clk % 8)

/-- Time passes; a new throttle level takes effect at the start of a throttle period (R24). The clk are counted from `State.reset` on, in
reset too, and bring-up does not begin the count again (log 78, the model's choice). -/
def State.tickClk (s : State) (n : Nat) : State :=
  let t := s.clk + n
  let due := s.throttleNext.filter (fun p => p.2.2 ≤ t / 8)
  { s with clk := t, throttle := due.foldl (fun th p => Tab.set th p.1 p.2.1) s.throttle, throttleNext := s.throttleNext.filter (fun p => ¬ p.2.2 ≤ t / 8) }

/-- The shadow a saved task had committed, with its operation (R364). -/
def State.withdrawn (s : State) (h : Nat) : Option Op :=
  s.ops.find? (fun o => o.owner == h && o.task == (s.slot h).uid && o.stage == 9 && (match o.kind with | .mx _ _ _ _ _ => true | _ => false))

/-- Such a shadow names a rectangle that no longer contains its panel: MXGO would trap on it (R353, R364). -/
def State.shadowLost (s : State) (h : Nat) : Option Op :=
  (s.withdrawn h).filter (fun o => match o.kind with | .mx p _ w1 _ _ => mxRect w1 != 0 && (s.rectOf p (mxRect w1)).isNone | _ => false)

/-- A withdrawn shadow that is not committed again: nothing waits for it any more. -/
def State.dropShadow (s : State) (o : Op) : State :=
  ((s.modTask o.owner o.task (fun x => { x with pend := x.pend.filter (fun p => p.2 != o.id) })).dropOp o.id).qntAfter o.cluster o.id

/-- A resumed slot writes such a shadow back and commits it, as MXGO would, before its first instruction (R364); none while the
shadow is committed otherwise. -/
def State.recommit (s : State) (h : Nat) : Option State :=
  match s.withdrawn h with
  | none => some s
  | some o => match o.kind with
    | .mx p w0 w1 ms _ =>
      if (s.panel p).committed.isSome then none
      else some ((s.modPanel p (fun x => { x with w0 := w0, w1 := w1, mslot := ms, committed := some o.id })).setOp { o with stage := 0 })
    | _ => some s

def isEvent (i : Instr) : Bool := (encodeWord i).isNone
/-- What goes on while the part is in reset: its bring-up, and the management plane (R407 to R411). -/
def inReset (i : Instr) : Bool :=
  match i with
  | .bringUp _ _ _ | .firmwareImage _ _ _ _ | .attestationReport _ | .telemetryRead _ _ | .managementSettingWrite _ _
  | .throttleLevelChange _ _ | .thermalShutdown _ | .linkRetrain _ | .linkTrainingEnd _ => true
  | _ => false

/-- A bring-up, with the images it verifies (R409, R411): all that goes on after power was removed (R410). -/
def isBringUp (i : Instr) : Bool := match i with | .bringUp _ _ _ | .firmwareImage _ _ _ _ => true | _ => false

/-- No slot of the core has a back-edge left to its next turn (R168). -/
def State.dropEdges (s : State) (c : Nat) : State := (List.range 4).foldl (fun s i => s.modSlot (hartOf c i) (fun x => { x with edge := false })) s

/-- The slot with what its fetch needs, and the image page its fetch reads. -/
def State.placeSlot (s : State) (h : Nat) : State :=
  let x := s.slot h
  let pid := ((s.cluster (clusterOf h)).pid).getD 1
  let x : Slot := { x.resume with live := true, pid := pid, pc := 0x40000000, winSize := 8192, lid := 1, statusQ := [], edge := false, preempt := false, retiring := false, notBefore := 0, rptOn := false, routine := none, halted := false, bad := [], parts := none }
  (s.modCluster (clusterOf h) (fun c => { c with pid := some pid, frames := [⟨0, 0x4000, [1]⟩], images := [⟨1, 0x4000, [0]⟩] })).setSlot h x

/-- The next clk at which the slot is first in its core's order and no throttle holds it, less one. -/
def clkFor (clk sl : Nat) : Nat :=
  ((List.range 40).find? (fun k => (clk + k + 1) % 5 == sl + 1 && (clk + k + 1) % 8 == 0)).getD 0 + clk

def State.placeWord (s : State) (nbits w : Nat) : State :=
  let h := if isTask s.cur then s.cur else 0
  let s := (s.dropEdges (cidOf h)).placeSlot h
  { (s.modCore (cidOf h) (fun c => { c with probedAt := none })).modPanel (panelOf h) (fun p => { p with reneg := none }) with cur := h, agenda := [], powered := true, ready := true, clk := clkFor s.clk (slOf h), softErrors := [], imem := Mem.store s.imem (clusterOf h * 16 * 65536) (bytesOf 8 (w % 2 ^ nbits)) }

end Sys2Proof.Machine
end

