-- ==== Sys2Proof/Machine/Translate.lean ====
section
/-! DEFINITION. External memory: channels and stations (R13, R297), page tables and their walks (R224, R294, R295), stations and
their caches (R296), and accesses by virtual address (R225). -/

namespace Sys2Proof.Machine

/-- The shift of the VA bits a level indexes (R294). -/
def levelShift (l : Nat) : Nat := if l = 0 then 16 else if l = 1 then 21 else if l = 2 then 30 else 39
def levelBits (l : Nat) : Nat := if l = 0 then 5 else 9

/-- The page size of a leaf at a level. -/
def pageSize (l : Nat) : Nat := 2 ^ levelShift l

/-- A walk (R294): the leaf entry found, with its level; none where an entry is invalid, misplaced or misaligned. The first
argument is the level plus one. -/
def walkGo (m : Mem) : Nat → Nat → Nat → Option (Nat × Reg64)
  | 0, _, _ => none
  | l + 1, t, va =>
    let e := r64 (Mem.read m (t + 8 * (va / 2 ^ levelShift l % 2 ^ levelBits l)) 8)
    if bits e 0 1 = 0 then none
    else if bits e 1 3 ≠ 0 then (if l = 3 then none else some (l, e))
    else if bits e 1 7 ≠ 0 ∨ l = 0 then none
    else
      let next := bits e 8 40 * 256
      if next % (if l = 1 then 256 else 4096) ≠ 0 then none else walkGo m l next va

/-- A leaf's fields are legal for a virtual address (R224, R225, R297); 512 GiB are installed (R10). -/
def leafOk (l : Nat) (e : Reg64) (va : Nat) : Bool :=
  let ppn := bits e 16 32
  bits e 12 4 == 0 && bits e 10 2 != 3 && decide (bits e 6 4 < 10) && ppn % (pageSize l / 65536) == 0
    && decide (ppn + pageSize l / 65536 ≤ 2 ^ 23)
    && (ppn * 65536 + va % pageSize l) / 65536 % 256 == channelOf va

/-- A fold that bytes [p, p + n) need cannot come yet: their nib runs a routine (R336). -/
def State.foldBusy (s : State) (p n : Nat) : Bool :=
  s.nibs.any (fun nb => (s.slot (nibHart nb.1)).live && nb.2.sums.any (fun q => overlaps q.phys (if q.fp64 then 8 else 4) p n))

/-- External memory with every sum folded: what a walk of the tables reads (R237). -/
def State.folded (s : State) : Mem :=
  (s.nibs.flatMap (fun nb => nb.2.sums.foldl (fun l q => insertSum q l) [])).foldl (fun m q =>
    let k := if q.fp64 then 8 else 4
    Mem.write m q.phys k (foldSums [q] (Mem.read m q.phys k))) s.ext

/-- A walk of the process's tables reads each entry after the folds it asks for (R237, R294). -/
def State.walk (s : State) (pid : BitVec 16) (va : Nat) : Option (Nat × Reg64) :=
  match (s.proc pid).root with
  | none => none
  | some t => walkGo s.folded 4 t va

/-- The cached entry of a station that maps an address (R296). -/
def State.cached (s : State) (pid : BitVec 16) (va : Nat) : Option TransEntry :=
  let st := s.station (stationOf va)
  if st.off then none else st.cache.find? (fun e => e.pid == pid && va / pageSize e.level == e.vpn)

/-- The leaf entry an access meets: the station's, else the tables' (R296). -/
def State.leaf (s : State) (pid : BitVec 16) (va : Nat) : Option (Nat × Reg64) :=
  match s.cached pid va with
  | some e => some (e.level, e.pte)
  | none => match s.walk pid va with
    | some p => if leafOk p.1 p.2 va then some p else none
    | none => none

/-- A page's fields (R224). -/
def pteR (e : Reg64) : Bool := e.getLsbD 1
def pteW (e : Reg64) : Bool := e.getLsbD 2
def pteX (e : Reg64) : Bool := e.getLsbD 3
def pteSc (e : Reg64) : Bool := e.getLsbD 4
def pteRed (e : Reg64) : Bool := e.getLsbD 5
def pteFmt (e : Reg64) : Nat := bits e 6 4
def pteGeom (e : Reg64) : Nat := bits e 10 2

/-- fmt and geometry agree for a decoding access (R40). -/
def fmtGeomOk (fmt geom : Nat) : Bool := if fmt = 3 then geom == 1 else if fmt = 4 then geom == 2 else geom == 0

/-- Translation with the permissions asked (R225): the physical address and the leaf entry; none is a translation fault. -/
def State.translate (s : State) (pid : BitVec 16) (va : Nat) (r w x : Bool) : Option (Nat × Reg64) :=
  match s.leaf pid va with
  | none => none
  | some (l, e) =>
    if (r && !pteR e) || (w && !pteW e) || (x && !pteX e) then none
    else some (bits e 16 32 * 65536 + va % pageSize l, e)

/-- The bytes of an external range, page by page; the count is of bytes read before a fault (R225). -/
def State.readVirt (s : State) (pid : BitVec 16) : Nat → Nat → List Byte × Bool
  | _, 0 => ([], true)
  | va, n + 1 =>
    match s.translate pid va true false false with
    | none => ([], false)
    | some (p, _) => let r := s.readVirt pid (va + 1) n; (s.ext.get p :: r.1, r.2)

/-- Every fold that a range of virtual addresses needs before it is read or written. -/
def State.foldVirt (s : State) (pid : BitVec 16) : Nat → Nat → State
  | _, 0 => s
  | va, n + 1 =>
    match s.translate pid va false false false with
    | none => s
    | some (p, _) => (s.foldAt p 1).foldVirt pid (va + 1) n

/-- Bytes written to an external range in ascending order until a fault; how many were written (R225, R271). -/
def State.writeVirt (s : State) (pid : BitVec 16) : Nat → List Byte → State × Nat
  | _, [] => (s, 0)
  | va, b :: l =>
    match s.translate pid va false true false with
    | none => (s, 0)
    | some (p, _) =>
      let r := State.writeVirt { s with ext := s.ext.set p b } pid (va + 1) l
      (r.1, r.2 + 1)

/-! ## Stations (R296 to R299) -/

/-- An entry enters a station's cache; the oldest of 4,096 makes room. -/
def Station.fill (st : Station) (e : TransEntry) : Station := if st.off then st else { st with cache := (e :: st.cache).take 4096 }

/-- Entries a txinv write drops (R298). -/
def txinvHits (scope : Nat) (pid : BitVec 16) (vpn : Nat) (e : TransEntry) : Bool :=
  if scope = 0 then e.pid == pid && vpn * 65536 / pageSize e.level == e.vpn
  else if scope = 1 then e.pid == pid
  else true

/-- Every station drops the matching entries. -/
def State.dropEntries (s : State) (scope : Nat) (pid : BitVec 16) (vpn : Nat) : State :=
  { s with stations := s.stations.map (fun t => (t.1, { t.2 with cache := t.2.cache.filter (fun e => !txinvHits scope pid vpn e) })) }

/-- A write of txinv by a control core: entries drop, and the core waits for the walks begun before (R298, R299). -/
def State.txinvWrite (s : State) (h scope : Nat) (pid : BitVec 16) (vpn : Nat) : State :=
  let id := s.nextId
  let s := (({ s with cur := h } : State).post (.txinv scope pid vpn) (fun o => o)).dropEntries scope pid vpn
  s.modSlot h (fun x => { x with blocked := some id, waiting := some (.binding, s.clk) })

/-- The addresses lie in one page of the process (R296): of the size its walk finds, or of 64 KiB where it finds none. -/
def State.samePage (s : State) (pid : BitVec 16) (a b : Nat) : Bool :=
  match s.walk pid a with
  | some p => a / pageSize p.1 == b / pageSize p.1
  | none => a / 65536 == b / 65536

/-- A station meets a request (R296): a hit, or a walk begun or shared. -/
def execStationTranslation (pid : BitVec 16) (va : BitVec 64) (s : State) : Host.Outcome State Fault Refusal :=
  let a := bits va 0 48
  let n := stationOf a
  let st := s.station n
  .next (if onChip a ∨ bits va 48 16 ≠ 0 ∨ (s.cached pid a).isSome ∨ st.walks.any (fun w => w.pid == pid && s.samePage pid w.va a) ∨ 64 ≤ st.walks.length then s
    else (s.modStation n (fun t => { t with walks := t.walks ++ [⟨pid, a, s.nextId⟩] })))

/-- A granule that a walk reads fails its check and is read again: a record and an event of the station (R290 to R292). -/
def State.walkError (s : State) (n : Nat) : State :=
  if s.softErrors.contains (.walk n) then
    (({ s with softErrors := s.softErrors.erase (.walk n) } : State).recordMgmt { time := 0, seq := 0, unit := n, ukind := 7, kind := 4, cause := 8 }).noteUnit (18816 + n)
  else s

/-- The physical addresses of the entries a walk reads (R294). -/
def walkReads (m : Mem) : Nat → Nat → Nat → List Nat
  | 0, _, _ => []
  | l + 1, t, va =>
    let a := t + 8 * (va / 2 ^ levelShift l % 2 ^ levelBits l)
    let e := r64 (Mem.read m a 8)
    a :: (if bits e 0 1 = 0 ∨ bits e 1 7 ≠ 0 then [] else walkReads m l (bits e 8 40 * 256) va)

/-- The folds at the entries of a walk are made (R237). -/
def State.foldWalk (s : State) (pid : BitVec 16) (va : Nat) : State :=
  match (s.proc pid).root with
  | none => s
  | some t => (walkReads s.folded 4 t va).foldl (fun s a => s.foldAt a 8) s

/-- The n-th walk of a station ends (R294, R296): its leaf fills the cache, or the walk faults and fills nothing. -/
def execWalkCompletion (station n : Nat) (s : State) : Host.Outcome State Fault Refusal :=
  .next (match (s.station station).walks[n]? with
    | none => s
    | some w =>
      let s := (s.modStation station (fun t => { t with walks := t.walks.eraseIdx n })).walkError station |>.foldWalk w.pid w.va
      match s.walk w.pid w.va with
      | some p => if leafOk p.1 p.2 w.va then s.modStation station (fun t => t.fill ⟨w.pid, w.va / pageSize p.1, p.1, p.2⟩) else s
      | none => s)

/-- SYSW of txinv with scope 0, by the control core whose turn it is (R298). -/
def txinvEvent (scope : Nat) (pid : BitVec 16) (vpn : Nat) (s : State) : State :=
  let h := if isControl s.cur then s.cur else ctlHart 0
  if (s.slot h).issues then s.txinvWrite h scope pid vpn else s

def execTxinvPage (pid : BitVec 16) (vpn : BitVec 32) (s : State) : Host.Outcome State Fault Refusal := .next (txinvEvent 0 pid vpn.toNat s)
def execTxinvProcess (pid : BitVec 16) (s : State) : Host.Outcome State Fault Refusal := .next (txinvEvent 1 pid 0 s)
def execTxinvAll (s : State) : Host.Outcome State Fault Refusal := .next (txinvEvent 2 0 0 s)

/-- Some walk that began before the operation is under way. -/
def State.olderWalk (s : State) (id : Nat) : Bool := s.stations.any (fun t => t.2.walks.any (fun w => decide (w.born ≤ id)))

/-- The txinv write n completes once every earlier walk has ended; what such a walk brought in is dropped too (R299). -/
def execTxinvCompletion (n : Nat) (s : State) : Host.Outcome State Fault Refusal :=
  .next (match s.op? n with
    | some o =>
      match o.kind with
      | .txinv scope pid vpn =>
        if s.olderWalk n then s
        else ((s.dropEntries scope pid vpn).dropOp n).modSlot o.owner (fun x => if x.blocked = some n then x.resume else x)
      | _ => s
    | none => s)

end Sys2Proof.Machine
end

