-- ==== Sys2Proof/Machine/MemAccess.lean ====
section
/-! DEFINITION. Scalar and multiple loads and stores (R245 to R249), full/empty words and WAITW (R235, R236, R250 to R253), and the
stores' arrival at their homes (R222, R242). -/

namespace Sys2Proof.Machine

/-! ## Checks and accesses of a scalar size (R245, R334) -/

/-- What stands against an access of n bytes at a by the issuing core (R245): its cause. The scratchpad of a core that has left service still
serves the loads, stores and full/empty operations of its cluster (log 81, the model's choice). -/
def State.coreCheck (s : State) (a : Reg64) (n : Nat) : Option Nat :=
  if a.toNat % n ≠ 0 then some 2
  else match s.address a with
    | some (off, none) => if onChip off ∧ clusterOfAddr off = clusterOf s.cur ∧ s.holds (s.pidOf s.cur) (clusterOf s.cur) then none else some 3
    | _ => some 3

/-- The same for a handler-slot routine: its own core's scratchpad (R334). -/
def State.handlerCheck (s : State) (a : Reg64) (n : Nat) : Option Nat :=
  match s.coreCheck a n with
  | some c => some c
  | none => if bits a 16 32 = cidOf s.cur then none else some 3

/-- A nib's address: its local store, or a virtual address on its own channel that its station translates (R334). The result is
a cause, or the physical address (none: local store). -/
def State.nibCheck (s : State) (a : Reg64) (n : Nat) (r w : Bool) : Except Nat (Option Nat) :=
  if a.toNat % n ≠ 0 then .error 2
  else if a.toNat < 0x10000 then .ok none
  else match s.address a with
    | some (off, none) =>
      if onChip off ∨ channelOf off ≠ nibOf s.cur then .error 3
      else match s.translate (s.pidOf s.cur) off r w false with
        | some (p, _) => .ok (some p)
        | none => .error 4
    | _ => .error 3

/-- The cause a scalar access would meet at the issuing hart. -/
def State.check (s : State) (a : Reg64) (n : Nat) (r w : Bool) : Option Nat :=
  if isNib s.cur then (match s.nibCheck a n r w with | .error c => some c | .ok _ => none)
  else if isHandler s.cur then s.handlerCheck a n
  else s.coreCheck a n

/-- mem[a, n] as the issuing hart reads it, after the checks; a nib folds its sums first (R237). -/
def State.load (s : State) (a : Reg64) (n : Nat) : State × Nat :=
  if isNib s.cur then
    match s.nibCheck a n true false with
    | .ok (some p) => let s := s.foldAt p n; (s, Mem.read s.ext p n)
    | _ => (s, Mem.read s.nibMem (nibOf s.cur * 65536 + a.toNat) n)
  else (s, Mem.read (s.view s.cur) (offset a) n)

/-- The home of a byte of a process's own part as one number: its scratchpad offset, or 2^60 and up for its physical address. -/
def State.homeOf (s : State) (pid : BitVec 16) (a : Nat) : Option Nat :=
  if onChip a then some a else if 2 ^ 48 ≤ a then none else (s.translate pid a false false false).map (fun p => 2 ^ 60 + p.1)

/-- The running routine has written bytes at a home (R234). -/
def State.noteWrote (s : State) (a n : Nat) : State :=
  s.modMe (fun x => { x with routine := x.routine.map (fun r => { r with wrote := (a, n) :: r.wrote }) })

/-- A routine that runs has written some of the bytes at these addresses of a process: a copy, a QNT or a reward pass that ends meanwhile does
not write them again, so that the bytes both write in a granule all come from the routine (R233, R234, log 91). -/
def State.routineWrote (s : State) (pid : BitVec 16) (l : List Nat) : Bool :=
  s.harts.any (fun h => match h.2.routine with
    | some r => !r.wrote.isEmpty && l.any (fun a => (s.homeOf pid a).any (fun p => r.wrote.any (fun w => overlaps w.1 w.2 p 1)))
    | none => false)

/-- The bytes of [a, a + n) of the scratchpads that running routines have written. -/
def State.routineBytes (s : State) (a n : Nat) : List Nat :=
  s.harts.flatMap (fun h => match h.2.routine with
    | some r => r.wrote.flatMap (fun w => ((List.range w.2).map (fun i => w.1 + i)).filter (fun b => decide (a ≤ b ∧ b < a + n)))
    | none => [])

/-- A nib's write at a home (`State.putHome`), which a physical one keeps in mind (R234). -/
def State.writeHome (s : State) (a n v : Nat) : State := let s := s.putHome a n v; if 2 ^ 60 ≤ a then s.noteWrote a n else s

/-- The home of a nib's address: a byte of its local store, or 2^60 and up the physical address of its channel (R334). -/
def State.nibHome (s : State) (a : Reg64) (n : Nat) (st : Bool) : Nat :=
  match s.nibCheck a n (!st) st with
  | .ok (some p) => 2 ^ 60 + p
  | _ => nibOf s.cur * 65536 + a.toNat

/-- A routine's store, at once at its home. -/
def State.storeNow (s : State) (a : Reg64) (n v : Nat) : State :=
  if isNib s.cur then s.writeHome (s.nibHome a n true) n v
  else ((s.writeSpm (offset a) n v).wakeMonitors).noteWrote (offset a) n

/-- The element writes of one store leave for their homes; the counter goes up by one (R242). A store of a remote routine is at
home at once (R335). -/
def State.storeEls (s : State) (els : List (Nat × Nat × Nat)) : State :=
  if isTask s.cur then (s.post (.store els) (fun o => o)).modMe (fun x => { x with acks := x.acks + 1 })
  else els.foldl (fun s e => s.storeNow (r64 e.1) e.2.1 e.2.2) s

/-! ## The order of a slot's accesses (R223, R232) -/

/-- The SC attribute of a core's scratchpad is on (R104): a task with the sc flag holds a reservation there, also one of no scratch bytes,
while the task is live or saved (log 84, the model's choice). -/
def State.scOn (s : State) (cid : Nat) : Bool :=
  (List.range 4).any (fun i => let x := s.slot (hartOf cid i); x.live && x.sc) || s.saved.any (fun v => v.cid == cid && v.slot.sc)

/-- An address of a process lies in SC storage of this part (R104, R224, R232); what a peer address names is no part of it (R220, R404). -/
def State.scAt (s : State) (pid : BitVec 16) (a : Nat) : Bool :=
  if onChip a then s.scOn (coreOfAddr a) else if 2 ^ 48 ≤ a then false else match s.leaf pid a with | some p => pteSc p.2 | none => false

/-- An access of an operation, not performed yet, to the bytes, or, where `sc`, to any SC storage. -/
def State.openAccess (s : State) (p : Op) (sc : Bool) (a n : Nat) : Bool :=
  let meets := fun (b k : Nat) => (sc && s.scAt p.pid b) || overlaps b k a n
  match p.kind with
  | .store els => els.any (fun e => meets e.1 e.2.1)
  | .atomic _ k b _ _ _ _ _ _ => p.stage == 0 && meets (s.keyOf b) k
  | .fullEmpty _ b _ => p.stage == 0 && meets b 8
  | _ => false

/-- The same for a read, which sees the slot's stores on their way: on SC storage alone it waits for them. -/
def State.openBeforeRead (s : State) (p : Op) (sc : Bool) (a n : Nat) : Bool :=
  match p.kind with
  | .store els => sc && els.any (fun e => s.scAt p.pid e.1)
  | _ => s.openAccess p sc a n

/-- An earlier access of the slot must come first: to the same bytes (R223), or any on SC storage where this one is there too (R232). -/
def State.earlierOwn (s : State) (o : Op) (a n : Nat) : Bool :=
  let sc := s.scAt o.pid a
  s.ops.any (fun p => p.owner == o.owner && p.task == o.task && decide (p.id < o.id) && s.openAccess p sc a n)

/-- The same for a load that is held (R243). -/
def State.earlierAtomic (s : State) (o : Op) (a n : Nat) : Bool :=
  let sc := s.scAt o.pid a
  s.ops.any (fun p => p.owner == o.owner && p.task == o.task && decide (p.id < o.id) && s.openBeforeRead p sc a n)

/-- A read that the issuing slot makes now would pass an earlier access of its own (R223, R232). -/
def State.ownBusy (s : State) (a n : Nat) : Bool :=
  let sc := s.scAt (s.pidOf s.cur) a
  s.ops.any (fun o => o.owner == s.cur && o.task == s.me.uid && s.openBeforeRead o sc a n)

/-! ## Loads that are held (R243) -/

/-- A load issued while it is held: its register word is pending (R125, R243). -/
def State.loadLater (s : State) (off : Nat) (parts : List (Nat × Nat × Nat)) (sx : Nat) : State :=
  (s.post (.load parts 0 sx) (fun o => { o with off := some off })).modMe (fun x => { x with pend := x.pend ++ [(off, s.nextId)] })

/-- A held load whose value goes to an outbound port: a scalar one by its number, a vector one as 64 + its number. -/
def State.loadToPort (s : State) (port : Nat) (parts : List (Nat × Nat × Nat)) (sx : Nat) : State :=
  s.post (.load parts 0 sx) (fun o => { o with port := port, mute := true })

/-- The outbound port that a held load sends its value to has no free entry: the queue it feeds is full, or its slot holds no task (R69,
R71). -/
def State.portShut (s : State) (o : Op) : Bool :=
  o.port != 0 && (if o.port < 64 then s.sendWindow o.owner o.port == 0 else s.sendVWindow o.owner (o.port - 64) == 0)

/-- A held load has read its last part: its value goes to its register or its port (R69, R125, R243). -/
def State.endLoad (s : State) (o : Op) (got sx : Nat) : State :=
  let at_ := s.cur
  let s :=
    if o.port = 0 then
      if sx = 0 then s.modTask o.owner o.task (fun x => { x with pend := x.pend.filter (fun p => p.2 != o.id) }) else s.resolve o (sextNat sx got) []
    else if o.port < 64 then { ({ s with cur := o.owner } : State).putG o.port (sextNat sx got) with cur := at_ }
    else { ({ s with cur := o.owner } : State).putElems (o.port - 64) 2048 [(0, got)] with cur := at_ }
  s.dropOp o.id

/-- The next part of a held load is read. An element of a vector register is written then, and any access may come before the next one
(R214). -/
def State.performLoad (s : State) (o : Op) (parts : List (Nat × Nat × Nat)) (got sx : Nat) : State :=
  match parts with
  | [] => s.endLoad o got sx
  | p :: rest =>
    let v := Mem.read (s.viewBefore o) p.1 p.2.1
    let s := match o.off with
      | some off => if sx = 0 then s.modTask o.owner o.task (fun x => x.arriveBytes (off + p.2.2 / 8) p.2.1 v) else s
      | none => s
    let got := got + v * 2 ^ p.2.2
    if rest = [] then s.endLoad o got sx else s.setOp { o with kind := .load rest got sx }

/-! ## The interpolation-table memories (R216) -/

/-- The table memories with the images copied in earlier clks (R216). -/
def State.tables (s : State) : Mem := (s.tblWrites.filter (fun q => decide (q.1 < s.clk))).foldl (fun m q => Mem.store m q.2.2.1 q.2.2.2) s.tblMem

/-- Images of one clk in the order of their cores, so that the higher octet slot leaves its bytes (R216). -/
def insertImage (x : Nat × Nat × Nat × List Byte) : List (Nat × Nat × Nat × List Byte) → List (Nat × Nat × Nat × List Byte)
  | [] => [x]
  | y :: l => if x.2.1 < y.2.1 then x :: y :: l else y :: insertImage x l

/-- A core copies a table image to an address of the table memories. -/
def State.copyTable (s : State) (cid dst : Nat) (l : List Byte) : State :=
  { s with tblMem := s.tables, tblWrites := insertImage (s.clk, cid, dst, l) (s.tblWrites.filter (fun q => decide (s.clk ≤ q.1))) }

/-- Table bytes [a, a + n) are the destination of a VTILD of this slot that is held: what reads them here waits for it, as for the pending
destination of a held load (R125, R243); another slot waits for none (R106, log 12, the model's choice). -/
def State.tablePending (s : State) (a n : Nat) : Bool :=
  s.ops.any (fun o => o.owner == s.cur && o.task == s.me.uid && (match o.kind with | .table b l _ => overlaps a n b l | _ => false))

/-! ## Storage errors of a read (R290) -/

/-- The errors that a read of n bytes at a by the issuing hart meets: whether one is of two bits or in a granule of external memory, and
the state with those of one bit corrected, each with its record and count. -/
def State.eccRead (s : State) (a : Reg64) (n : Nat) : State × Bool :=
  if isNib s.cur then
    match s.nibCheck a n true false with
    | .ok (some p) => (s, s.granuleBad p n)
    | .ok none =>
      let hit := fun (e : SoftError) => match e with | .nibStore k b _ => k == nibOf s.cur && overlaps (b / 8 * 8) 8 a.toNat n | _ => false
      let l := s.softErrors.filter hit
      if l.any (fun e => match e with | .nibStore _ _ d => d | _ => false) then (s, true)
      else (l.foldl (fun s _ => (s.recordMgmt { time := 0, seq := 0, val := a, unit := nibOf s.cur, ukind := 6, kind := 4, cause := 8 }).noteUnit (18432 + nibOf s.cur)) { s with softErrors := s.softErrors.filter (fun e => !hit e) }, false)
    | .error _ => (s, false)
  else if (s.eccDouble (offset a) n).isSome then (s, true)
  else (s.eccCorrect (offset a) n, false)

/-- A read of the issuing hart with its storage errors: cause 0x08 where one cannot be corrected (R290). -/
def withEcc (s : State) (a : Reg64) (n : Nat) (k : State → Act) : Act := let r := s.eccRead a n; if r.2 then .trap 8 a else k r.1

/-- The address of LD and ST (R247). -/
def ldAddr (s : State) (b : BitVec 6) (q : BitVec 2) (o : BitVec 11) : Reg64 := s.getG b.toNat + r64 (2 ^ q.toNat) * o.signExtend 64

/-- The value LD writes. -/
def ldExtend (q : BitVec 2) (x : BitVec 1) (v : Nat) : Reg64 := if x = 1 then sextNat (8 * 2 ^ q.toNat) v else r64 v

def execLd (t b : BitVec 6) (q : BitVec 2) (x : BitVec 1) (o : BitVec 11) (s : State) : Host.Outcome State Fault Refusal :=
  run (.ld t b q x o) s (fun s =>
    let n := 2 ^ q.toNat
    let a := ldAddr s b q o
    match s.check a n true false with
    | some c => .trap c a
    | none =>
      let sx := if x = 1 then 8 * n else 64
      withEcc s a n (fun s =>
        if ¬ (s.accessesHeld || s.ownBusy (offset a) n) ∨ ¬ isTask s.cur then let r := s.load a n; .done (r.1.putG t.toNat (ldExtend q x r.2))
        else .done (if t = 0 then s else if 56 ≤ t.toNat then s.loadToPort t.toNat [(offset a, n, 0)] sx else s.loadLater (s.me.gOff t.toNat) [(offset a, n, 0)] sx)))

def execSt (t b : BitVec 6) (q : BitVec 2) (o : BitVec 11) (s : State) : Host.Outcome State Fault Refusal :=
  run (.st t b q o) s (fun s =>
    let n := 2 ^ q.toNat
    let a := ldAddr s b q o
    match s.check a n false true with
    | some c => .trap c a
    | none =>
      let v := (s.getG t.toNat).toNat % 2 ^ (8 * n)
      .done (s.storeEls [(if isNib s.cur then a.toNat else offset a, n, v)]))

/-! ## LDM and STM (R249): one granule, from ldmj on, in each turn of the slot -/

def multiAddr (s : State) (b : BitVec 6) (o : BitVec 6) (j : Nat) : Reg64 := s.getG b.toNat + 8 * o.signExtend 64 + r64 (8 * j)

def setLdmj (s : State) (j : Nat) : State := s.modMe (fun x => { x with xstat := setBits x.xstat 32 11 j })

/-- The transfer of granule j at a: a load may be held (R243). -/
def granule (st : Bool) (t : BitVec 6) (a : Reg64) (j : Nat) (s : State) : State :=
  if st then s.storeEls [(if isNib s.cur then a.toNat else offset a, 8, (s.getG (t.toNat + j)).toNat)]
  else if isTask s.cur ∧ (s.accessesHeld || s.ownBusy (offset a) 8) then s.loadLater (s.me.gOff (t.toNat + j)) [(offset a, 8, 0)] 64
  else let r := s.load a 8; r.1.putG (t.toNat + j) (r64 r.2)

/-- After its last granule the instruction completes; after another it is the slot's next instruction again, so that a trap, a
pre-emption or an access of another slot may fall between two granules. -/
def multi (i : Instr) (st : Bool) (t b : BitVec 6) (c : BitVec 5) (o : BitVec 6) (s : State) : Host.Outcome State Fault Refusal :=
  run i s (fun s =>
    let j := s.me.ldmJ
    if c.toNat < j then .trapOn [] 1 (i.word.zeroExtend 64)
    else
      let a := multiAddr s b o j
      match s.check a 8 (!st) st with
      | some e => .trap e a
      | none => (if st then fun k => k s else withEcc s a 8) (fun s =>
        let s := granule st t a j s
        if j = c.toNat then .done (setLdmj s 0) else .stay (setLdmj s (j + 1))))

def execLdm (t b : BitVec 6) (c : BitVec 5) (o : BitVec 6) (s : State) : Host.Outcome State Fault Refusal := multi (.ldm t b c o) false t b c o s
def execStm (t b : BitVec 6) (c : BitVec 5) (o : BitVec 6) (s : State) : Host.Outcome State Fault Refusal := multi (.stm t b c o) true t b c o s

/-! ## Stores on their way (R222, R232, R242) -/

/-- The next element write of a store reaches its home; monitored words are checked (R222, R252). -/
def execStoreAtHome (op : Nat) (s : State) : Host.Outcome State Fault Refusal :=
  .next (match s.op? op with
    | some o => match o.kind with
      | .store (e :: rest) =>
        if s.heldBack o ∨ s.earlierOwn o e.1 e.2.1 then s
        else ((s.writeSpm e.1 e.2.1 e.2.2).setOp { o with kind := .store rest }).wakeMonitors
      | _ => s
    | none => s)

/-- A semaphore's count goes up by one; at 15 it stays (R350). -/
def State.countUp (s : State) (p n : Nat) : State := s.modPanel p (fun x => { x with sems := Tab.set x.sems n (min 15 (Tab.getD x.sems n 0 + 1)) })

/-- Releases and posts of a semaphore that waited for the counter reach their objects (R229, R240, R262): they leave the network
interface. -/
def State.releases (s : State) (h : Nat) : State :=
  if (s.slot h).acks = 0 then
    s.ops.foldl (fun s o => match o.kind with | .semv p n => if o.owner = h then s.countUp p n else s | _ => s)
      { s with ops := s.ops.filter (fun o => match o.kind with | .release _ | .semv _ _ => o.owner != h | _ => true) }
  else s

/-- One acknowledgement lowers the slot's counter (R242). -/
def State.ackSlot (s : State) (o : Op) : State := (s.modTask o.owner o.task (fun x => { x with acks := x.acks - 1 })).releases o.owner

/-- The acknowledgement of a write that has reached its home (R242): a store, a full/empty write or an atomic. -/
def execStoreAcknowledge (op : Nat) (s : State) : Host.Outcome State Fault Refusal :=
  .next (match s.op? op with
    | some o => match o.kind with
      | .store [] => (s.dropOp op).ackSlot o
      | .fullEmpty sel _ _ => if o.stage = 2 ∧ 2 ≤ sel then (s.dropOp op).ackSlot o else s
      | .atomic _ _ _ _ _ _ _ _ _ => if 1 ≤ o.stage ∧ ¬ o.acked then (if o.stage = 1 then s.setOp { o with acked := true } else s.dropOp op).ackSlot o else s
      | _ => s
    | none => s)

/-- Ranges of the scratchpads that an instruction reads whole, with their storage errors (R290). -/
def withSpmEcc (s : State) (l : List (Nat × Nat)) (k : State → Act) : Act :=
  match l.findSome? (fun r => s.eccDouble r.1 r.2) with
  | some b => .trap 8 (r64 b)
  | none => k (l.foldl (fun s r => s.eccCorrect r.1 r.2) s)

/-! ## Full/empty words (R235, R236, R250, R251) -/

def feAddr (s : State) (b : BitVec 6) (o : BitVec 11) : Reg64 := s.getG b.toNat + 8 * o.signExtend 64

/-- Parked requests at a word, in arrival order. -/
def State.parked (s : State) (a : Nat) : List Op :=
  s.ops.filter (fun o => match o.kind with | .fullEmpty _ b _ => b == a && o.stage == 1 | _ => false)

/-- A full/empty operation is performed at its word: the value read by a load; a release stays to be acknowledged. -/
def State.performFe (s : State) (o : Op) (sel a v : Nat) : State :=
  if sel < 2 then
    let x := Mem.read s.spm a 8
    let s := if sel = 0 then s.setFull a false else s
    let s := match o.off with
      | some off => s.modSlot o.owner (fun y => y.arrive off (r64 x))
      | none => s
    s.unblock o
  else
    let s := ((s.writeSpm a 8 v).setFull a true).wakeMonitors
    if sel = 2 then
      let y := s.slot o.owner
      let s := s.setOp { o with stage := 2, buf := false }
      if y.live ∧ y.blocked = some o.id then s.goOn o.owner else s
    else s.setOp { o with stage := 2, buf := false }

/-- Parked requests are served while one can complete, those of a kind in arrival order (R236): a full word completes every waiting
LDFF, and then the first LDFE; an empty one the first STFE. -/
def State.serveParked : Nat → State → Nat → State
  | 0, s, _ => s
  | f + 1, s, a =>
    let waits := fun (n : Nat) => (s.parked a).find? (fun o => match o.kind with | .fullEmpty sel _ _ => sel == n | _ => false)
    match (if s.isFull a then (waits 1).orElse (fun _ => waits 0) else waits 2) with
    | some o => match o.kind with
      | .fullEmpty sel _ v => (s.performFe o sel a v).serveParked f a
      | _ => s
    | none => s

/-- The request reaches the owner: performed where the word's state lets it and no earlier request of its kind waits, else parked
(R236). -/
def execFullEmptyAtOwner (op : Nat) (s : State) : Host.Outcome State Fault Refusal :=
  .next (match s.op? op with
    | some o => match o.kind with
      | .fullEmpty sel a v =>
        if o.stage ≠ 0 ∨ s.heldBack o ∨ s.earlierOwn o a 8 then s
        else
          let can := if sel = 3 then true else if sel = 2 then !s.isFull a else s.isFull a
          if can then (s.performFe o sel a v).serveParked (s.ops.length + 1) a
          else { s with ops := (s.ops.filter (fun p => p.id != op)) ++ [{ o with stage := 1, buf := false }] }
      | _ => s
    | none => s)

/-- LDFE, LDFF, STFE (R251): the request is sent and the slot waits for it. -/
def feWait (i : Instr) (sel : Nat) (t b : BitVec 6) (o : BitVec 11) (s : State) : Host.Outcome State Fault Refusal :=
  run i s (fun s =>
    let a := feAddr s b o
    match s.coreCheck a 8 with
    | some c => .trap c a
    | none => withEcc s a 8 (fun s => (if sel = 2 then afterStores s else fun k => k s) (fun s => withBuffer s (fun s =>
        let id := s.nextId
        let off := if sel < 2 ∧ t ≠ 0 then some (s.me.gOff t.toNat) else none
        let s := s.post (.fullEmpty sel (offset a) (s.getG t.toNat).toNat) (fun q => { q with off := off, buf := true })
        let s := if sel = 2 then s.modMe (fun x => { x with acks := x.acks + 1 }) else s
        .wait (s.modMe (fun x => { x with blocked := some id })) .fullEmpty))))

def execLdfe (t b : BitVec 6) (o : BitVec 11) (s : State) : Host.Outcome State Fault Refusal := feWait (.ldfe t b o) 0 t b o s
def execLdff (t b : BitVec 6) (o : BitVec 11) (s : State) : Host.Outcome State Fault Refusal := feWait (.ldff t b o) 1 t b o s
def execStfe (t b : BitVec 6) (o : BitVec 11) (s : State) : Host.Outcome State Fault Refusal := feWait (.stfe t b o) 2 t b o s

/-- STF is sent once the counter is 0, and its slot goes on (R251); an error of its word that is not corrected traps, as for every full/empty
operation (R290). -/
def execStf (t b : BitVec 6) (o : BitVec 11) (s : State) : Host.Outcome State Fault Refusal :=
  run (.stf t b o) s (fun s =>
    let a := feAddr s b o
    match s.coreCheck a 8 with
    | some c => .trap c a
    | none => withEcc s a 8 (fun s => afterStores s (fun s => withBuffer s (fun s =>
      let s := s.post (.fullEmpty 3 (offset a) (s.getG t.toNat).toNat) (fun q => { q with buf := true })
      .done (s.modMe (fun x => { x with acks := x.acks + 1 }))))))

/-! ## WAITW (R252, R253) -/

/-- The monitor entries of a cluster in use. -/
def State.monitors (s : State) (cl : Nat) : Nat :=
  (s.ops.filter (fun o => o.cluster == cl && (match o.kind with | .waitw _ _ e => e | _ => false))).length

def execWaitw (t b : BitVec 6) (o : BitVec 11) (s : State) : Host.Outcome State Fault Refusal :=
  run (.waitw t b o) s (fun s =>
    let a := feAddr s b o
    let v := (s.getG t.toNat).toNat
    match s.coreCheck a 8 with
    | some c => .trap c a
    | none => afterAcquire s .word (fun s => if s.ownBusy (offset a) 8 then .wait s .word else withEcc s a 8 (fun s =>
      let cl := clusterOf s.cur
      let entry := decide (s.monitors cl < 64)
      let s := if entry then s else s.modCluster cl (fun c => { c with monFall := c.monFall + 1 })
      if Mem.read (s.view s.cur) (offset a) 8 ≠ v then .done s
      else
        let id := s.nextId
        let s := s.post (.waitw (offset a) v entry) (fun q => { q with stage := 1, due := s.clk + 256 })
        .wait (s.modMe (fun x => { x with blocked := some id })) .word)))

/-- A WAITW without an entry reads its word again every 256 clk (R253). -/
def execWaitwPoll (op : Nat) (s : State) : Host.Outcome State Fault Refusal :=
  .next (match s.op? op with
    | some o => match o.kind with
      | .waitw a v false =>
        if s.clk < o.due then s
        else if Mem.read (s.viewBefore o) a 8 ≠ v then s.unblock o
        else s.setOp { o with due := o.due + 256 }
      | _ => s
    | none => s)

end Sys2Proof.Machine
end

