-- ==== Sys2Proof/Machine/Atomics.lean ====
section
/-! DEFINITION. Atomics (R254 to R257, R341), reductions at memory (R237, R238, R258), fences, acquires, releases and bindings
(R231, R259 to R263). -/

namespace Sys2Proof.Machine

/-! ## Executing units (R336, R339) -/

/-- The unit runs no routine (R336). -/
def State.unitFree (s : State) (u : Nat) : Bool := !(s.slot u).live

/-- Reply-cache entries of a unit's cache: a nib's own, or its cluster's (R339). -/
def cacheOf (u : Nat) : Nat := if isNib u then u else clusterOf u
def State.cacheFull (s : State) (u : Nat) : Bool := decide (4096 ≤ (s.replies.filter (fun r => cacheOf r.unit == cacheOf u && isNib r.unit == isNib u)).length)

/-- A call has arrived at the unit and waits its turn there: what arrives later comes after it (R336). -/
def State.callWaits (s : State) (u : Nat) : Bool := s.ops.any (fun o => o.stage == 1 && (match o.kind with | .rcall _ _ _ _ v => v == u | _ => false))

/-- Where a status was found: record kind and unit (R244). -/
def faultUnit (off status issuer : Nat) : Nat × Nat :=
  if status = 4 then (7, stationOf off) else if status = 0xF then (0, issuer) else if onChip off then (1, coreOfAddr off) else (6, channelOf off)

/-- A nonzero status reaches the issuing slot: a record, and a status trap to come unless the task retires (R244, R281). A RADD's status
0x03 is found at the combiner. -/
def State.pushStatus (s : State) (o : Op) (status : Nat) (addr : Reg64) : State :=
  let u := match o.kind with
    | .radd _ _ _ => if status = 3 then (0, cidOf o.owner) else faultUnit (bits addr 0 48) status (cidOf o.owner)
    | _ => faultUnit (bits addr 0 48) status (cidOf o.owner)
  let s := s.record o.cluster { time := 0, seq := 0, tid := o.tid, ctok := o.ctok, lid := o.lid, val := addr, pc := o.pc, unit := u.2, ukind := u.1, cid := cidOf o.owner, kind := 2, cause := status, status := status, slot := slOf o.owner }
  s.modTask o.owner o.task (fun x => if x.retiring then x else { x with statusQ := x.statusQ ++ [(status, addr)] })

/-! ## Atomics -/

/-- The new value and the flags of an operation (R255), at a width of n bytes, with the rounding the request carries. -/
def atomicNew (fn n x y exp : Nat) (mode : Rnd) (srs : Reg64) : Nat × Flags :=
  let w := 8 * n
  let f := if n = 4 then fp32 else fp64
  match fn with
  | 0 => ((x + y) % 2 ^ w, {})
  | 1 => (x &&& y, {})
  | 2 => (x ||| y, {})
  | 3 => (x ^^^ y, {})
  | 4 => (opMin w x y, {})
  | 5 => (opMax w x y, {})
  | 6 => (min x y, {})
  | 7 => (max x y, {})
  | 8 => (y, {})
  | 9 => (if x = exp then y else x, {})
  | 10 =>
    let e := exactSum (mode == .rdn) [f.decode x, f.decode y]
    let r := f.round mode false srs e.1
    (r.bits, e.2.or r.flags)
  | 11 => fpMinMax f false x y
  | _ => fpMinMax f true x y

/-- The result written to d: the old value sign-extended (R255). -/
def atomicOld (n x : Nat) : Reg64 := sextNat (8 * n) x

/-- Can the issuer reach the address at all (R257)? -/
def State.atomicCheck (s : State) (a : Reg64) (n : Nat) : Option Nat :=
  if a.toNat % n ≠ 0 then some 2
  else match s.address a with
    | none => some 3
    | some (off, none) => if onChip off ∧ ¬ s.holds (s.pidOf s.cur) (clusterOfAddr off) then some 3 else none
    | some (_, some _) => none

/-- The flags of an atomic's reply enter fcr (R255). -/
def Slot.orFlags (x : Slot) (fl : Nat) : Slot := { x with fcr := x.fcr ||| r64 (fl * 2 ^ 8) }

/-- An atomic of a remote routine, in place and at once (R334), a nib's on its own channel alone; its .RET forms raise their flags (R255). -/
def atomicInPlace (fn n : Nat) (d : BitVec 6) (nr : Bool) (a y exp : Reg64) (s : State) : Act :=
  match (if isNib s.cur ∧ a.toNat < 0x10000 ∧ a.toNat % n = 0 then some 3 else s.check a n true true) with
  | some c => .trap c a
  | none => withEcc s a n (fun s =>
    let x := s.me
    let r := s.load a n
    let v := atomicNew fn n r.2 (y.toNat % 2 ^ (8 * n)) (exp.toNat % 2 ^ (8 * n)) x.mode x.srs
    let s := r.1.storeNow a n v.1
    let s := if fn = 10 ∧ x.mode = .rsto then s.modMe (fun x => { x with srs := srsStep x.srs }) else s
    .done (if nr then s else (if 10 ≤ fn then s.modMe (fun x => x.orFlags v.2.bits) else s).putG d.toNat (atomicOld n r.2)))

/-- The word of an atomic has a storage error that is not corrected (R290): its cause is precise, at issue (R279). -/
def State.atomicBroken (s : State) (a : Reg64) (n : Nat) : Bool :=
  match s.address a with
  | some (off, none) =>
    if onChip off then (s.eccDouble off n).isSome
    else match s.translate (s.pidOf s.cur) off true true false with
      | some (p, _) => s.granuleBad p n
      | none => false
  | _ => false

/-- An atomic leaves as a request (R256): it holds a call record and a request buffer slot; a release first waits for the
counter. It takes no number of the slot's call ids (R341; log 95, the model's choice). -/
def atomic (i : Instr) (fn : Nat) (d a b : BitVec 6) (w n : BitVec 1) (o : BitVec 2) (s : State) : Host.Outcome State Fault Refusal :=
  run i s (fun s =>
    let x := s.me
    let k := if w = 1 then 4 else 8
    let ad := s.getG a.toNat
    let y := s.getG b.toNat
    let exp := s.getG d.toNat
    if x.routine.isSome then atomicInPlace fn k d (n == 1) ad y exp s
    else match s.atomicCheck ad k with
      | some c => .trap c ad
      | none => if s.atomicBroken ad k then .trap 8 ad else (if o = 2 then afterStores s else fun f => f s) (fun s =>
        if 16 ≤ s.callsUsed s.cur then .wait s .request
        else withBuffer s (fun s =>
          let reg := if n = 1 then 0 else d.toNat
          let s := s.postTo reg (.atomic fn k ad (r64 (y.toNat % 2 ^ (8 * k))) (r64 (exp.toNat % 2 ^ (8 * k))) o.toNat (n == 1) x.mode x.srs) (fun q => { q with mute := true, buf := true, call := true, due := s.clk + x.rcTimeout * 1800 })
          .done (s.modMe (fun x => { x with acks := x.acks + 1, srs := if fn = 10 ∧ x.mode = .rsto then srsStep x.srs else x.srs })))))

def execAadd (d a b : BitVec 6) (w n : BitVec 1) (o : BitVec 2) (s : State) : Host.Outcome State Fault Refusal := atomic (.aadd d a b w n o) 0 d a b w n o s
def execAand (d a b : BitVec 6) (w n : BitVec 1) (o : BitVec 2) (s : State) : Host.Outcome State Fault Refusal := atomic (.aand d a b w n o) 1 d a b w n o s
def execAor (d a b : BitVec 6) (w n : BitVec 1) (o : BitVec 2) (s : State) : Host.Outcome State Fault Refusal := atomic (.aor d a b w n o) 2 d a b w n o s
def execAxor (d a b : BitVec 6) (w n : BitVec 1) (o : BitVec 2) (s : State) : Host.Outcome State Fault Refusal := atomic (.axor d a b w n o) 3 d a b w n o s
def execAmin (d a b : BitVec 6) (w n : BitVec 1) (o : BitVec 2) (s : State) : Host.Outcome State Fault Refusal := atomic (.amin d a b w n o) 4 d a b w n o s
def execAmax (d a b : BitVec 6) (w n : BitVec 1) (o : BitVec 2) (s : State) : Host.Outcome State Fault Refusal := atomic (.amax d a b w n o) 5 d a b w n o s
def execAminn (d a b : BitVec 6) (w n : BitVec 1) (o : BitVec 2) (s : State) : Host.Outcome State Fault Refusal := atomic (.aminn d a b w n o) 6 d a b w n o s
def execAmaxn (d a b : BitVec 6) (w n : BitVec 1) (o : BitVec 2) (s : State) : Host.Outcome State Fault Refusal := atomic (.amaxn d a b w n o) 7 d a b w n o s
def execAswp (d a b : BitVec 6) (w n : BitVec 1) (o : BitVec 2) (s : State) : Host.Outcome State Fault Refusal := atomic (.aswp d a b w n o) 8 d a b w n o s
def execAcas (d a b : BitVec 6) (w n : BitVec 1) (o : BitVec 2) (s : State) : Host.Outcome State Fault Refusal := atomic (.acas d a b w n o) 9 d a b w n o s
def execFaadd (d a b : BitVec 6) (w n : BitVec 1) (o : BitVec 2) (s : State) : Host.Outcome State Fault Refusal := atomic (.faadd d a b w n o) 10 d a b w n o s
def execFamin (d a b : BitVec 6) (w n : BitVec 1) (o : BitVec 2) (s : State) : Host.Outcome State Fault Refusal := atomic (.famin d a b w n o) 11 d a b w n o s
def execFamax (d a b : BitVec 6) (w n : BitVec 1) (o : BitVec 2) (s : State) : Host.Outcome State Fault Refusal := atomic (.famax d a b w n o) 12 d a b w n o s

/-- An earlier atomic or call of the slot to the same unit, of this part or another, has not been executed (R256, R335). -/
def State.earlierCall (s : State) (o : Op) (u : Nat) : Bool :=
  s.ops.any (fun p => p.owner == o.owner && p.task == o.task && decide (p.id < o.id) && (match p.kind with
    | .atomic _ _ a _ _ _ _ _ _ => p.stage == 0 && s.callUnit a == u
    | .rcall _ _ _ _ v => decide (p.stage < 3) && v == u
    | _ => false))

/-- The unit holds a reply-cache entry for an operation: the space for its response, taken when the request was accepted (R402). -/
def State.spaceHeld (s : State) (id : Nat) : Bool := s.replies.any (fun e => e.op == id)

/-- An atomic is done at a unit: the reply-cache entry with its reply (R339, R341), the one it holds or a new one, and the reply on its
way. -/
def State.finishAtomic (s : State) (o : Op) (nr : Bool) (u status x flags : Nat) : State :=
  ({ s with replies := s.replies.filter (fun e => e.op != o.id) ++ [⟨u, o.id, some (status, [r64 x])⟩] } : State).setOp { o with stage := 1, since := s.clk, status := status, reply := [r64 x], flags := flags, buf := false, call := !nr }

/-- The kind-4 record of a storage error that an atomic meets at its owner (R285, R290). -/
def State.atomicError (s : State) (o : Op) (off : Nat) : State :=
  let r : FaultRecord := { time := 0, seq := 0, tid := o.tid, ctok := o.ctok, lid := o.lid, val := r64 off, pc := o.pc, cid := cidOf o.owner, kind := 4, cause := 8, slot := slOf o.owner }
  if onChip off then s.record (clusterOfAddr off) { r with unit := coreOfAddr off, ukind := 13 } else s.recordMgmt { r with unit := channelOf off, ukind := 9 }

/-- What another part answers to an atomic: the old word, a status and flags of its choosing (R244, R255, log 10). -/
def State.peerAtomic (s : State) (o : Op) (fn n : Nat) (nr : Bool) (u : Nat) : State :=
  let v := fun (i : Nat) => (Config.freeWord (s.free + i)).toNat
  let st := ([0, 3, 4] : List Nat).getD (v 1 % 3) 0
  let fl := if fn = 10 then v 2 % 32 else if 11 ≤ fn then (if v 2 % 2 = 1 then Flags.invalid.bits else 0) else 0
  ({ s with free := s.free + 3 } : State).finishAtomic o nr u st (if st = 0 then v 0 % 2 ^ (8 * n) else 0) (if st = 0 then fl else 0)

/-- The owner performs the atomic, one operation at a time, in the order in which they and the calls have arrived (R255, R256, R336). A
word of another part reads as a free value (log 10). -/
def execAtomicAtOwner (op : Nat) (s : State) : Host.Outcome State Fault Refusal :=
  .next (match s.op? op with
    | some o => match o.kind with
      | .atomic fn n a y exp _ nr mode srs =>
        if o.stage ≠ 0 ∨ s.heldBack o ∨ ¬ s.arrived o then s
        else match s.address a with
          | some (off, none) =>
            let u := unitOf off
            if s.unitOut u ∨ ¬ s.unitFree u ∨ s.callWaits u ∨ (s.cacheFull u ∧ ¬ s.spaceHeld op) ∨ s.earlierOwn o off n ∨ s.earlierCall o u then s
            else if onChip off then
              if ¬ s.holds o.pid (clusterOfAddr off) then s.finishAtomic o nr u 3 0 0
              else if (s.eccDouble off n).isSome then (s.atomicError o off).finishAtomic o nr u 8 0 0
              else
                let s := s.eccCorrect off n
                let x := Mem.read s.spm off n
                let v := atomicNew fn n x y.toNat exp.toNat mode srs
                (s.writeSpm off n v.1).wakeMonitors.finishAtomic o nr u 0 x v.2.bits
            else match s.translate o.pid off true true false with
              | none => s.finishAtomic o nr u 4 0 0
              | some (p, _) =>
                if s.granuleBad p n then (s.atomicError o off).finishAtomic o nr u 8 0 0
                else
                  let s := s.foldAt p n
                  let x := Mem.read s.ext p n
                  let v := atomicNew fn n x y.toNat exp.toNat mode srs
                  ({ s with ext := Mem.write s.ext p n v.1 } : State).finishAtomic o nr u 0 x v.2.bits
          | some (_, some part) => if s.peerIn part ∧ ¬ s.earlierCall o (s.callUnit a) then s.peerAtomic o fn n nr (s.callUnit a) else s
          | none => s.finishAtomic o nr 0 3 0 0
      | _ => s
    | none => s)

/-- An earlier call or atomic of the slot to the same unit whose reply has not arrived: replies keep their order (R335, R341). -/
def State.earlierReply (s : State) (o : Op) (u : Nat) : Bool :=
  s.ops.any (fun p => p.owner == o.owner && p.task == o.task && decide (p.id < o.id) && (match p.kind with
    | .rcall _ _ _ _ v => v == u
    | .atomic _ _ a _ _ _ _ _ _ => decide (p.stage < 2) && s.callUnit a == u
    | _ => false))

/-- The reply arrives, after those of the slot's earlier calls and atomics to the unit (R244, R255, R335): d and the flags, or the
status. -/
def execAtomicReply (op : Nat) (s : State) : Host.Outcome State Fault Refusal :=
  .next (match s.op? op with
    | some o => match o.kind with
      | .atomic fn n a _ _ _ nr _ _ =>
        if o.stage ≠ 1 ∨ ¬ s.arrived o ∨ s.earlierReply o (s.callUnit a) then s
        else
          let s := if nr then s else s.resolve o (if o.status = 0 then atomicOld n ((o.reply.headD 0).toNat) else 0) []
          let s := if o.status = 0 ∧ ¬ nr ∧ 10 ≤ fn then s.modTask o.owner o.task (fun x => x.orFlags o.flags) else s
          let s := if o.status ≠ 0 then s.pushStatus o o.status a else s
          if o.acked then s.dropOp op else s.setOp { o with stage := 2, call := false, off := none }
      | _ => s
    | none => s)

/-! ## Reductions at memory -/

/-- RADD (R258): counted until the combiner accepts it. -/
def execRadd (a b : BitVec 6) (t : BitVec 1) (s : State) : Host.Outcome State Fault Refusal :=
  run (.radd a b t) s (fun s =>
    let ad := s.getG a.toNat
    let n := if t = 1 then 8 else 4
    if ad.toNat % n ≠ 0 then .trap 2 ad
    else withBuffer s (fun s =>
      .done ((s.post (.radd ad (t == 1) ((s.getG b.toNat).toNat % 2 ^ (8 * n))) (fun q => { q with buf := true, mute := true, due := s.clk + s.me.rcTimeout * 1800 })).modMe (fun x => { x with acks := x.acks + 1 }))))

/-- One addition under RNE (R61, R237). -/
def rneAdd (is64 : Bool) (x y : Nat) : Nat :=
  let f := if is64 then fp64 else fp32
  (f.round .rne false 0 (exactSum false [f.decode x, f.decode y]).1).bits

/-- A value added into a lane (R237). -/
def CombEntry.add (e : CombEntry) (lane v : Nat) : CombEntry :=
  { e with lanes := Tab.set e.lanes lane (match Tab.get? e.lanes lane with | none => v | some u => rneAdd e.fp64 u v) }

/-- The sum of an entry's lanes, cores and slots in ascending order (R237). -/
def CombEntry.sum (e : CombEntry) : Option Nat :=
  e.lanes.foldl (fun t l => match t with | none => some l.2 | some u => some (rneAdd e.fp64 u l.2)) none

/-- The page of a RADD is a reduction page of the operation's format (R225, R258): its physical address; none a fault. It
needs w, and not r although the fold reads it (R237; log 82, the model's choice). -/
def State.redPage (s : State) (pid : BitVec 16) (off : Nat) (is64 : Bool) : Option Nat :=
  match s.translate pid off false true false with
  | some (p, e) => if pteRed e ∧ pteFmt e = (if is64 then 8 else 7) then some p else none
  | none => none

/-- The combiner entry of a RADD's address: an own-part offset, or 2^53 + 2^48·p + offset for part p. -/
def State.combKey (s : State) (a : Reg64) : Nat :=
  match s.address a with
  | some (off, none) => off
  | some (off, some part) => 2 ^ 53 + part * 2 ^ 48 + off
  | none => a.toNat

/-- The combiner of an operation's cluster holds the address already. -/
def State.combHolds (s : State) (o : Op) (a : Reg64) : Bool := (s.cluster o.cluster).comb.any (fun e => e.addr == s.combKey a)

/-- The combiner accepts a RADD into its lane, or finds its fault (R237, R238, R244, R258). The first RADD to an address asks the channel's
station, which has to be reached (R244). A later one is added in the format of its address's entry, whatever its own type: R258 checks the
first alone, and the sum is the model's choice (log 82), and so is the check of the page before the wait for an entry. -/
def execRaddAtCombiner (op : Nat) (s : State) : Host.Outcome State Fault Refusal :=
  .next (match s.op? op with
    | some o => match o.kind with
      | .radd a is64 v =>
        if s.heldBack o ∨ s.ops.any (fun p => p.owner == o.owner && decide (p.id < op) && (match p.kind with | .radd _ _ _ => true | _ => false)) then s
        else
          let lane := 4 * coreOf o.owner + slOf o.owner
          let accept := fun (key : Nat) (phys : Option Nat) =>
            let c := s.cluster o.cluster
            if c.comb.any (fun e => e.addr == key) then
              ((s.modCluster o.cluster (fun c => { c with comb := c.comb.map (fun e => if e.addr = key then e.add lane v else e) })).dropOp op).ackSlot o
            else if 32 ≤ c.comb.length then s
            else ((s.modCluster o.cluster (fun c => { c with comb := c.comb ++ [(⟨key, phys, is64, []⟩ : CombEntry).add lane v] })).dropOp op).ackSlot o
          let fail := fun (st : Nat) => ((s.pushStatus o st a).dropOp op).ackSlot o
          match s.address a with
          | none => fail 3
          | some (off, none) =>
            if onChip off then fail 3
            else if (s.cluster o.cluster).comb.any (fun e => e.addr == off) then accept off none
            else if ¬ s.canReach o.owner (s.callUnit a) then s
            else match s.redPage o.pid off is64 with
              | none => fail 4
              | some p => accept off (some p)
          | some (off, some part) =>
            let key := 2 ^ 53 + part * 2 ^ 48 + off
            if (s.cluster o.cluster).comb.any (fun e => e.addr == key) then accept key none
            else if ¬ s.canReach o.owner (2 ^ 20 + part) then s
            else if onChip off then fail 3
            else
              -- whether the page passes there is the other part's answer: a free value (log 10)
              let f := s.freeVal
              if f.1.getLsbD 0 then ((f.2.pushStatus o 4 a).dropOp op).ackSlot o
              else if 32 ≤ (s.cluster o.cluster).comb.length then s
              else ((f.2.modCluster o.cluster (fun c => { c with comb := c.comb ++ [(⟨key, none, is64, []⟩ : CombEntry).add lane v] })).dropOp op).ackSlot o
      | _ => s
    | none => s)

/-- The flush of a cluster's combiner: each address's sum goes to its nib, or to the other part (R237). -/
def State.flush (s : State) (cl : Nat) : State :=
  let c := s.cluster cl
  let pid := c.pid.getD 0
  let out := c.comb.filterMap (fun e => match e.phys, e.sum with
    | some p, some t => some (⟨e.addr, cl, e.fp64, t, pid, p⟩ : NibSum)
    | _, _ => none)
  let s := s.modCluster cl (fun c => { c with comb := [] })
  out.foldl (fun s q => { s with forwards := s.forwards ++ [⟨s.nextId, q⟩], nextId := s.nextId + 1 }) s

/-- A nib takes a forwarded sum into its slot for the cluster (R237). -/
def State.takeSum (s : State) (q : NibSum) : State :=
  s.modNib (channelOf q.addr) (fun x =>
    let same := fun (p : NibSum) => p.phys == q.phys && p.cluster == q.cluster
    { x with sums := if x.sums.any same then x.sums.map (fun p => if same p then { p with val := rneAdd p.fp64 p.val q.val } else p) else x.sums ++ [q] })

/-- A forwarded sum reaches its nib between the unit's other work (R336). -/
def execNibSumReceipt (n : Nat) (s : State) : Host.Outcome State Fault Refusal :=
  .next (match s.forwards.find? (fun f => f.n == n) with
    | some f => if ¬ s.unitFree (nibHart (channelOf f.sum.addr)) then s else ({ s with forwards := s.forwards.filter (fun g => g.n != n) } : State).takeSum f.sum
    | none => s)

/-! ## FENCE, ACQ, REL -/

/-- The slot's own RADD waits for an entry of a full combiner (R238). -/
def State.raddHeld (s : State) : Bool :=
  decide (32 ≤ (s.cluster (clusterOf s.cur)).comb.length) && s.ops.any (fun o => o.owner == s.cur && o.task == s.me.uid && (match o.kind with | .radd _ _ _ => true | _ => false))

/-- FENCE (R231, R260): it waits for the counter; with RED it then flushes the combiner and waits until the nibs hold every forwarded sum.
While a RADD of its own slot waits for an entry of a full combiner the flush comes before too, since nothing else would free one (R238; log 55,
the model's choice). -/
def execFence (r : BitVec 1) (q : BitVec 3) (s : State) : Host.Outcome State Fault Refusal :=
  run (.fence r q) s (fun s => afterAcquire s .fence (fun s =>
    let cl := clusterOf s.cur
    let x := s.me
    if x.acks ≠ 0 then .wait (if r = 1 ∧ s.raddHeld then s.flush cl else s) .fence
    else if r = 0 then .done s
    else
      let (s, mark) := match x.midway with
        | some (p, m) => if p = x.pc then (s, m) else let s := s.flush cl; (s.modMe (fun x => { x with midway := some (x.pc, s.nextId) }), s.nextId)
        | none => let s := s.flush cl; (s.modMe (fun x => { x with midway := some (x.pc, s.nextId) }), s.nextId)
      if s.forwards.any (fun f => f.sum.cluster == cl && decide (f.n < mark)) then .wait s .fence else .done s))

/-- A queue handle names a queue of the cluster held by the process (R371, R372): the check of every use but DQFRONT's. -/
def State.handleOk (s : State) (h : Nat) : Bool :=
  let c := s.cluster (clusterOf s.cur)
  h / 128 == 0 && (if h / 64 = 1 then (match Tab.get? c.pqs (h % 64) with | some q => (match Tab.get? c.pipes q.pipe with | some p => p.pid == s.pidOf s.cur | none => false) | none => false)
    else (match Tab.get? c.dqs (h % 64) with | some q => q.pid == s.pidOf s.cur | none => false))

/-- What is wrong with an object word (R261). -/
def State.objectTrap (s : State) (o : Reg64) : Option (Nat × Reg64) :=
  let kind := bits o 62 2
  let id := bits o 0 54
  if bits o 54 8 ≠ 0 then some (1, o)
  else if kind = 0 then
    if 2 ^ 15 ≤ id then some (1, o)
    else if ¬ s.holds (s.pidOf s.cur) (id / 512) ∨ s.clustersOut.contains (id / 512) then some (3, o) else none
  else if kind = 3 then (if 2 ^ 16 ≤ id then some (1, o) else if s.handleOk id then none else some (1, r64 id))
  else if id % 8 ≠ 0 then some (2, o)
  else (s.coreCheck (r64 id) 8).map (fun c => (c, o))

def execAcq (d : BitVec 6) (s : State) : Host.Outcome State Fault Refusal :=
  run (.acq d) s (fun s => match s.objectTrap (s.getG d.toNat) with
    | some t => .trap t.1 t.2
    | none => .done (s.post (.acquire (s.getG d.toNat)) (fun q => { q with mute := true })))

/-- REL (R262): recorded at the object once the counter is 0; the slot goes on. -/
def execRel (d : BitVec 6) (s : State) : Host.Outcome State Fault Refusal :=
  run (.rel d) s (fun s => match s.objectTrap (s.getG d.toNat) with
    | some t => .trap t.1 t.2
    | none => .done ((s.post (.release (s.getG d.toNat)) (fun q => { q with mute := true })).releases s.cur))

/-- The answer to an ACQ, or to an atomic marked .ACQ, returns to its issuer, after those of its earlier atomics and calls to the unit: held
accesses go on (R243, R335). -/
def execAcquireCompletion (op : Nat) (s : State) : Host.Outcome State Fault Refusal :=
  .next (match s.op? op with
    | some o => match o.kind with
      | .acquire _ => s.dropOp op
      | .atomic fn n a y e 1 nr m r => if 1 ≤ o.stage ∧ (o.stage ≠ 1 ∨ (s.arrived o ∧ ¬ s.earlierReply o (s.callUnit a))) then s.setOp { o with kind := .atomic fn n a y e 0 nr m r } else s
      | _ => s
    | none => s)

/-! ## BIND, UNBIND (R228, R263) -/

/-- A region the process may address (R263): its first byte as the binding table names it; none for cause 0x03. -/
def State.regionBase (s : State) (base : Reg64) (len : Nat) : Option Nat :=
  match s.address base with
  | none => none
  | some (off, part) =>
    if len = 0 then some off
    else if onChip off then
      if 0x40000000 < off + len then none
      else match part with
        | some p => some (2 ^ 53 + p * 2 ^ 48 + off)
        | none => if (List.range ((off + len - 1) / 2 ^ 24 - off / 2 ^ 24 + 1)).all (fun i => s.holds (s.pidOf s.cur) (off / 2 ^ 24 + i)) then some off else none
    else if 2 ^ 48 < off + len then none
    else match part with | some p => some (2 ^ 53 + p * 2 ^ 48 + off) | none => some off

/-- The regions of a process, those a BIND is entering among them; one of no length enters none (R263). -/
def State.bound (s : State) (pid : BitVec 16) : List Binding :=
  (s.proc pid).bindings ++ s.ops.filterMap (fun o => match o.kind with | .bind obj b l => if o.pid = pid ∧ l ≠ 0 then some ⟨b, l, obj⟩ else none | _ => none)

def blockOn (k : OpKind) (w : Wait) (s : State) : Act :=
  let id := s.nextId
  .wait ((s.post k (fun q => { q with mute := true })).modMe (fun x => { x with blocked := some id })) w

def execBind (d : BitVec 6) (s : State) : Host.Outcome State Fault Refusal :=
  run (.bind d) s (fun s =>
    let obj := s.getG d.toNat
    let base := s.getG (d.toNat + 1)
    let len := (s.getG (d.toNat + 2)).toNat
    match s.objectTrap obj with
    | some t => .trapOn (grp d 1) t.1 t.2
    | none =>
      if base.toNat % 8 ≠ 0 then .trapOn (grp d 2) 2 base
      else if len % 8 ≠ 0 then .trap 2 (r64 len)
      else match s.regionBase base len with
        | none => .trap 3 base
        | some b =>
          let l := s.bound (s.pidOf s.cur)
          if len ≠ 0 ∧ (256 ≤ l.length ∨ l.any (fun r => overlaps r.base r.len b len)) then .trap 1 base
          else blockOn (.bind obj b len) .binding s)

/-- UNBIND (R263). A range of no bytes strictly inside a bound region cuts through it (log 90, the model's choice). -/
def execUnbind (d : BitVec 6) (s : State) : Host.Outcome State Fault Refusal :=
  run (.unbind d) s (fun s =>
    let base := s.getG d.toNat
    let len := (s.getG (d.toNat + 1)).toNat
    let b := match s.address base with | some (off, some p) => 2 ^ 53 + p * 2 ^ 48 + off | some (off, none) => off | none => base.toNat
    if (s.bound (s.pidOf s.cur)).any (fun r => overlaps r.base r.len b len && !(decide (b ≤ r.base) && decide (r.base + r.len ≤ b + len))) then .trap 1 base
    else blockOn (.unbind b len) .binding s)

/-- Every cluster of the process holds the change, and the slot goes on (R263). -/
def execBindCompletion (op : Nat) (s : State) : Host.Outcome State Fault Refusal :=
  .next (match s.op? op with
    | some o => match o.kind with
      | .bind obj b l => (if l = 0 then s else s.modProc o.pid (fun p => { p with bindings := p.bindings ++ [⟨b, l, obj⟩] })).unblock o
      | .unbind b l => (s.modProc o.pid (fun p => { p with bindings := p.bindings.filter (fun r => !(decide (b ≤ r.base) && decide (r.base + r.len ≤ b + l))) })).unblock o
      | _ => s
    | none => s)

end Sys2Proof.Machine
end

