-- ==== Sys2Proof/Machine/Control.lean ====
section
/-! DEFINITION. Branches and jumps (R135 to R137), hardware loops (R139 to R143), RPT (R144 to R148), views and lanes (R167 to
R169), and the words that are no instructions (R82, R138). -/

namespace Sys2Proof.Machine

/-- pc + 4·sext(off). -/
def target (pc : Reg64) {n : Nat} (o : BitVec n) : Reg64 := pc + 4 * o.signExtend 64

/-- A compare-branch (R135). -/
def branch (c : Reg64 → Reg64 → Bool) (a b : BitVec 6) (o : BitVec 14) (s : State) : Act :=
  if c (s.getG a.toNat) (s.getG b.toNat) then .jump s (target s.me.pc o) else .done s

def execBeq (a b : BitVec 6) (o : BitVec 14) (s : State) : Host.Outcome State Fault Refusal := run (.beq a b o) s (branch (fun x y => x == y) a b o)
def execBne (a b : BitVec 6) (o : BitVec 14) (s : State) : Host.Outcome State Fault Refusal := run (.bne a b o) s (branch (fun x y => x != y) a b o)
def execBlt (a b : BitVec 6) (o : BitVec 14) (s : State) : Host.Outcome State Fault Refusal := run (.blt a b o) s (branch (fun x y => x.slt y) a b o)
def execBge (a b : BitVec 6) (o : BitVec 14) (s : State) : Host.Outcome State Fault Refusal := run (.bge a b o) s (branch (fun x y => !x.slt y) a b o)
def execBltn (a b : BitVec 6) (o : BitVec 14) (s : State) : Host.Outcome State Fault Refusal := run (.bltn a b o) s (branch (fun x y => x.ult y) a b o)
def execBgen (a b : BitVec 6) (o : BitVec 14) (s : State) : Host.Outcome State Fault Refusal := run (.bgen a b o) s (branch (fun x y => !x.ult y) a b o)
def execBez (a : BitVec 6) (o : BitVec 14) (s : State) : Host.Outcome State Fault Refusal := run (.bez a o) s (branch (fun x _ => x == 0) a 0 o)
def execBnz (a : BitVec 6) (o : BitVec 14) (s : State) : Host.Outcome State Fault Refusal := run (.bnz a o) s (branch (fun x _ => x != 0) a 0 o)

def execJ (o : BitVec 26) (s : State) : Host.Outcome State Fault Refusal := run (.j o) s (fun s => .jump s (target s.me.pc o))

/-- CALL: ln := pc + 4, then the jump (R136). -/
def execCall (o : BitVec 26) (s : State) : Host.Outcome State Fault Refusal :=
  run (.call o) s (fun s => .jump (s.modMe (fun x => x.putLn (x.pc + 4))) (target s.me.pc o))

/-- A jump to a register's address (R137): address 0 retires a task and stops a remote routine. -/
def jumpTo (i : Instr) (link : Bool) (t : Reg64) (s : State) : Act :=
  if bits t 0 2 ≠ 0 then .trap 2 t
  else
    let s' := if link then s.modMe (fun x => x.putLn (x.pc + 4)) else s
    if t = 0 then (if s.me.routine.isSome then .trap 1 (i.word.zeroExtend 64) else .retire s') else .jump s' t

def execJr (a : BitVec 6) (s : State) : Host.Outcome State Fault Refusal := run (.jr a) s (fun s => jumpTo (.jr a) false (s.getG a.toNat) s)
def execCallr (a : BitVec 6) (s : State) : Host.Outcome State Fault Refusal := run (.callr a) s (fun s => jumpTo (.callr a) true (s.getG a.toNat) s)
def execRet (s : State) : Host.Outcome State Fault Refusal := run .ret s (fun s => jumpTo .ret false s.me.getLn s)

/-! ## Loops -/

/-- LOOP and LOOPI (R140); the place of R143 is judged at issue. -/
def pushLoop (i : Instr) (n : Reg64) (ren chk : BitVec 1) (len : BitVec 8) (s : State) : Act :=
  let x := s.me
  let w := i.word.zeroExtend 64
  if n = 0 then .jump s (x.pc + 4 + r64 (4 * len.toNat))
  else if x.loops.length = 3 then .trap 1 w
  else .done (s.modMe (fun x => { x with loops := ⟨x.pc + 4, x.pc + r64 (4 * len.toNat), n, ren == 1, chk == 1⟩ :: x.loops }))

def execLoop (r c : BitVec 1) (a : BitVec 6) (l : BitVec 8) (s : State) : Host.Outcome State Fault Refusal :=
  run (.loop r c a l) s (fun s => pushLoop (.loop r c a l) (s.getG a.toNat) r c l s)
def execLoopi (r c : BitVec 1) (n : BitVec 12) (l : BitVec 8) (s : State) : Host.Outcome State Fault Refusal :=
  run (.loopi r c n l) s (pushLoop (.loopi r c n l) (n.zeroExtend 64) r c l)

/-- LBRK leaves the innermost loop (R142). It counts as a transfer of control that was taken: no back-edge test follows (log 62, the
model's choice). -/
def execLbrk (s : State) : Host.Outcome State Fault Refusal :=
  run .lbrk s (fun s =>
    match s.me.loops with
    | [] => .trap 1 (Instr.lbrk.word.zeroExtend 64)
    | t :: rest => .jump (s.modMe (fun x => { x with loops := rest })) (t.last + 4))

/-! ## RPT -/

/-- A body word RPT may capture, of no reserved encoding (R146). An ALU word that names constant 32 to 63 (R73) counts as reserved here (log 56). -/
def rptBodyOk (w : Word) : Bool :=
  let m := sel 26 6 w
  (m == 1 || m == 2 || m == 0x20 || m == 0x21 || m == 0x23 || m == 0x25) && (match decodeWord w with | some i => legal i | none => false)

/-- The low bits of a V word's fields that name g registers (R196 to R200): va of VBCAST, vb of the slides, vd and vb of VEXTR, va and
vb of VINS. -/
def gFieldsOf (w : Word) : List Nat :=
  match decodeWord w with
  | some (.vbcast _ _ _ _) => [16]
  | some (.vslideup _ _ _ _ _) | some (.vslidedn _ _ _ _ _) => [11]
  | some (.vextr _ _ _ _) => [21, 11]
  | some (.vins _ _ _ _ _) => [16, 11]
  | _ => []

/-- The staggered field names a g register. -/
def Rpt.namesG (r : Rpt) (w : Word) (lo : Nat) : Bool := r.view == 0 || (r.view == 1 && (gFieldsOf w).contains lo)

/-- A staggered field of g0 or k0, or a k field that grows out of its range (R146). -/
def Rpt.badField (r : Rpt) (w : Word) : Bool :=
  (r.fields w).any (fun f => f.2.2 != 0 && (r.view == 2 || r.namesG w f.1) && sel f.1 f.2.1 w == 0)
    || (r.view == 2 && (r.fields w).any (fun f => decide (2 ^ f.2.1 ≤ sel f.1 f.2.1 w + (r.reps - 1) * f.2.2)))

/-- A staggered g field whose final value is 56 or more, or a v field's 28 or more (R146). -/
def Rpt.portField (r : Rpt) (w : Word) : Bool :=
  (r.fields w).any (fun f => f.2.2 != 0 && r.view != 2 && decide ((if r.namesG w f.1 then 56 else 28) ≤ sel f.1 f.2.1 w + (r.reps - 1) * f.2.2))

/-- The first register of any replay that lies outside the window (R65, R146). -/
def Rpt.outside (r : Rpt) (x : Slot) (w : Word) : Option Nat :=
  (List.range r.reps).findSome? (fun j =>
    match decodeWord (r.stagger w j) with
    | some i => (opds i).findSome? (fun o => x.outside o.reg)
    | none => none)

/-- The checks of a capture at an RPT word's address (R146), in the order of their table: cause, xval and saved pc of the first that
fails. Of several words that fail one row the first of the body gives xval, and of its registers outside the window that of the first replay
(log 56). A body word outside the image is a fetch outside it (R138): both are the word's own address (log 63). -/
def State.capture (s : State) (h : Nat) (at0 : Reg64) (w : Word) : Option (Nat × Reg64 × Reg64) :=
  let r := Rpt.ofWord w
  let x := s.slot h
  let body := (List.range r.len).map (fun i => s.wordAt h (at0 + r64 (4 * i + 4)))
  let ws := body.filterMap id
  let val := fun (v : Word) => v.zeroExtend 64
  if body.any Option.isNone then (let a := at0 + r64 (4 * ((body.takeWhile Option.isSome).length + 1)); some (3, a, a))
  else match ws.find? (fun v => !rptBodyOk v) with
    | some v => some (1, val v, at0)
    | none => match ws.find? r.badField with
      | some v => some (1, val v, at0)
      | none => match ws.find? r.portField with
        | some v => some (0xB, val v, at0)
        | none => match ws.findSome? (r.outside x) with
          | some off => some (3, r64 off, at0)
          | none => match x.loops with
            | t :: _ => if t.last.toNat < at0.toNat + 4 * r.len then some (1, val w, at0) else none
            | [] => none

def execRpt (l : BitVec 4) (n : BitVec 8) (d a b : BitVec 4) (v : BitVec 2) (s : State) : Host.Outcome State Fault Refusal :=
  run (.rpt l n d a b v) s (fun s =>
    let w := (Instr.rpt l n d a b v).word
    match s.capture s.cur s.me.pc w with
      | some t => s.trapActAt t.1 t.2.1 t.2.2 w
      | none => .jump (s.modMe (fun x => { x with rptOn := true, xstat := setBits (setBits (setBits x.xstat 63 1 1) 55 8 0) 51 4 0 })) (s.me.pc + 4))

/-! ## Views and lanes -/

/-- New bases (R63): each a multiple of 8, else cause 0x02; below the window size, else cause 0x03; else all three take effect. The
alignment of all three is judged first (log 53, the model's choice). -/
def setBases (g k v : Nat) (s : State) : Act :=
  let x := s.me
  match [g, k, v].find? (fun b => b % 8 != 0) with
  | some b => .trap 2 (r64 b)
  | none =>
    match [g, k, v].find? (fun b => decide (x.winSize ≤ b)) with
    | some b => .trap 3 (r64 b)
    | none => .done (s.modMe (fun x => { x with gBase := g, kBase := k, vBase := v }))

def execView (q : BitVec 2) (b : BitVec 10) (s : State) : Host.Outcome State Fault Refusal :=
  run (.view q b) s (fun s =>
    let x := s.me
    let n := 8 * b.toNat
    if x.winSize ≤ n then .trap 3 (r64 n)
    else .done (s.modMe (fun x => if q = 0 then { x with gBase := n } else if q = 1 then { x with kBase := n } else { x with vBase := n })))

def execViewRegister (d : BitVec 6) (s : State) : Host.Outcome State Fault Refusal :=
  run (.viewRegister d) s (fun s => let v := s.getG d.toNat; setBases (bits v 0 16) (bits v 16 16) (bits v 32 16) s)

/-- LCLAIM: the request rounded up to a multiple of 4, then a renegotiation; on a nib the answer is 16 (R168). -/
def claim (d : BitVec 6) (req : Nat) (s : State) : Act :=
  if isNib s.cur then .done (s.putG d.toNat 16)
  else
    let s := (s.modMe (fun x => { x with request := (req + 3) / 4 * 4 })).renegotiate s.cur
    .done (s.putG d.toNat (r64 s.me.grant))

def execLclaim (d : BitVec 6) (r : BitVec 7) (s : State) : Host.Outcome State Fault Refusal := run (.lclaim d r) s (claim d r.toNat)
def execLclaimRegister (d : BitVec 6) (s : State) : Host.Outcome State Fault Refusal :=
  run (.lclaimRegister d) s (fun s => claim d (min 64 (s.getG d.toNat).toNat) s)
def execLrn (d : BitVec 6) (s : State) : Host.Outcome State Fault Refusal :=
  run (.lrn d) s (fun s => if isNib s.cur then .done (s.putG d.toNat 16) else let s := s.renegotiate s.cur; .done (s.putG d.toNat (r64 s.me.grant)))
def execLyield (s : State) : Host.Outcome State Fault Refusal := run .lyield s (fun s => .done (s.modMe (fun x => { x with grant := 0 })))

/-! ## Words that are not instructions, and fetches outside the image -/

/-- Cause 0x01 with xval the word (R82); in a remote routine the routine stops (R334). -/
def execIllegalInstruction (w : BitVec 32) (s : State) : Host.Outcome State Fault Refusal :=
  .next (if s.me.issues then s.trapAt s.cur 1 (w.zeroExtend 64) s.me.pc w else s)

/-- Cause 0x03 with xpc and xval the address (R138). -/
def execInstructionFetchOutsideImage (addr : BitVec 64) (s : State) : Host.Outcome State Fault Refusal :=
  .next (if s.me.issues then s.trapAt s.cur 3 addr addr 0 else s)

end Sys2Proof.Machine
end

