-- ==== Sys2Proof/Machine/Copies.lean ====
section
/-! DEFINITION. The copy instructions, the copy engine and the stride-gather units (R233, R234, R270 to R278). -/

namespace Sys2Proof.Machine

/-! ## Addresses of an asynchronous operation -/

/-- The format a page must have, and whether the access decodes, so that R40 holds of it too. -/
abbrev PageNeed := Option (Nat × Bool)

def PageNeed.ok (n : PageNeed) (e : Reg64) : Bool :=
  match n with
  | none => true
  | some (f, dec) => pteFmt e == f && (!dec || fmtGeomOk (pteFmt e) (pteGeom e))

/-- An operation of hart h can reach the home of an address (R271, R340, R401): another part, the die of a core, or that of a channel, over
links in service; and the core or the stack is in service. What an access to a stack or a core out of service does the spec does not say: here
an operation that carries a status ends with 0x0F, and the others go on (log 81, the model's choice). -/
def State.reachable (s : State) (h a : Nat) : Bool :=
  if 2 ^ 53 ≤ a then s.canReach h (2 ^ 20 + (a - 2 ^ 53) / 2 ^ 48)
  else if onChip a then s.joined (dieOf h) (clusterOfAddr a / 16) && !s.coresOut.contains (coreOfAddr a)
  else s.joined (dieOf h) (channelOf a / 64) && !s.stacksOut.contains (channelOf a / 32)

/-- What stands against an access of an operation of hart h to one byte, as the status it returns (R225, R270); `need` is what its page
must be. Another part's own answer is not judged here; what cannot be reached gives status 0x0F (R271, R340, R401). -/
def State.byteFault (s : State) (h : Nat) (pid : BitVec 16) (a : Nat) (w : Bool) (need : PageNeed) : Option Nat :=
  if 2 ^ 54 ≤ a then some 3
  else if 2 ^ 53 ≤ a then if s.reachable h a then none else some 0xF
  else if onChip a then
    if ¬ s.holds pid (clusterOfAddr a) then some 3 else if s.reachable h a then none else some 0xF
  else if 2 ^ 48 ≤ a then some 4
  else if ¬ s.reachable h a then some 0xF
  else match s.translate pid a (!w) w false with
    | none => some 4
    | some (_, e) => if PageNeed.ok need e then none else some 4

/-- The byte an operation reads; of another part a free value (log 10). -/
def State.byteAt (s : State) (pid : BitVec 16) (a : Nat) : Byte :=
  if 2 ^ 53 ≤ a then (Config.freeWord (s.free + a)).truncate 8
  else if onChip a then s.spm.get a
  else match s.translate pid a false false false with
    | some (p, _) => s.ext.get p
    | none => 0

/-- Little-endian bytes from an address on. -/
def State.numAt (s : State) (pid : BitVec 16) (a n : Nat) : Nat := natOfBytes ((List.range n).map (fun i => s.byteAt pid (a + i)))

/-- The byte an operation writes at its home, as the pages were when the operation began (`v`), where it ends an error of its word
(log 11); another part's memory is not held here. -/
def State.putByte (s v : State) (pid : BitVec 16) (a : Nat) (b : Byte) : State :=
  if 2 ^ 53 ≤ a then s
  else if onChip a then { s.rewritten a 1 with spm := s.spm.set a b }
  else match v.translate pid a false false false with
    | some (p, _) => { s with ext := s.ext.set p b }
    | none => s

/-- The nibs fold their sums before a byte of external memory is touched (R237). -/
def State.foldByte (s : State) (pid : BitVec 16) (a : Nat) : State :=
  if onChip a ∨ 2 ^ 48 ≤ a then s
  else match s.translate pid a false false false with
    | some (p, _) => s.foldAt p 1
    | none => s

/-! ## The bytes of a copy -/

/-- One destination byte: its address, the source bytes it is made from, its value, and what the source and destination pages must
be. -/
structure Move where
  dst : Nat
  srcs : List Nat
  val : Byte
  need : PageNeed
  out : PageNeed := none
  deriving DecidableEq, Repr

/-- Bytes moved unchanged (R273). -/
def State.plainMoves (s : State) (pid : BitVec 16) (dst src : Reg64) (n : Nat) : List Move :=
  let d := s.keyOf dst
  let c := s.keyOf src
  (List.range n).map (fun i => ⟨d + i, [c + i], s.byteAt pid (c + i), none, none⟩)

/-- Row i of a CPYS (R274). -/
def rowAt (base step : Reg64) (i : Nat) : Reg64 := base + r64 i * step

def State.rowMoves (s : State) (pid : BitVec 16) (dst src : Reg64) (n rows : Nat) (dstep sstep : Reg64) : List Move :=
  ((List.range (if n = 0 then 0 else rows)).map (fun i => s.plainMoves pid (rowAt dst dstep i) (rowAt src sstep i) n)).flatten

/-- fmt and geom of a decoding source: the page's, or the operand's for a source on-chip (R275). A peer's page is not known here. -/
def State.sourceFmt (s : State) (pid : BitVec 16) (c word : Nat) : Option (Nat × Nat) :=
  if 2 ^ 53 ≤ c then if onChip (c % 2 ^ 48) then some (word % 16, word / 16 % 4) else none
  else if onChip c then some (word % 16, word / 16 % 4)
  else (s.leaf pid c).map (fun e => (pteFmt e.2, pteGeom e.2))

/-- A format and geometry a decoder takes (R40, R275). -/
def decodable (f : Nat × Nat) : Bool := decide (1 ≤ f.1) && decide (f.1 < 10) && fmtGeomOk f.1 f.2

/-- Element k of a decoding source at c: the bytes it is made from, and its exact value (R56, R275). -/
def State.sourceElem (s : State) (pid : BitVec 16) (fmt c k : Nat) : List Nat × XNum :=
  if fmt = 3 then
    let a := bs8Scale c (k / 32)
    let b := bs8Elem c (k / 32) (k % 32)
    ([a, b], bs8Value (s.byteAt pid a).toNat (s.byteAt pid b).toNat)
  else if fmt = 4 then
    let a := c + k / 64 * 64
    ((List.range 64).map (fun i => a + i), (decodePef8 (s.numAt pid a 64)).getD (k % 64) (.nan false))
  else
    let n := 2 ^ (codeLog fmt).getD 0
    let a := c + k * n
    ((List.range n).map (fun i => a + i), codeValue fmt (s.numAt pid a n))

/-- The destination format of CPYD (R77, R275). -/
def outFmt (o : Nat) : Fmt := if o = 4 then fp16 else if o = 5 then bf16 else if o = 6 then fp32 else fp64

def State.decodeMoves (s : State) (pid : BitVec 16) (dst src : Reg64) (n fmt out : Nat) : List Move :=
  let d := s.keyOf dst
  let c := s.keyOf src
  let f := outFmt out
  let w := f.width / 8
  ((List.range n).map (fun k =>
    let e := if 2 ^ 53 ≤ c ∧ ¬ onChip (c % 2 ^ 48) then ([c], f.decode (Config.freeWord (s.free + 2 ^ 54 + k)).toNat) else s.sourceElem pid fmt c k
    let v := (f.round .rne false 0 e.2).bits
    (List.range w).map (fun j => (⟨d + k * w + j, e.1, BitVec.ofNat 8 (v / 256 ^ j), if onChip c ∨ 2 ^ 53 ≤ c then none else some (fmt, true), none⟩ : Move)))).flatten

/-! ## Stride-gather patterns (R276, R277) -/

structure Stride where
  pitch : Nat
  rows : Nat
  cols : Nat
  fmt : Nat
  esz : Nat
  deriving DecidableEq, Repr

def Stride.ofDesc (d : Nat) : Stride := ⟨d / 2 ^ 128 % 2 ^ 64, d / 2 ^ 96 % 2 ^ 32, d / 2 ^ 64 % 2 ^ 32, d / 16 % 16, d % 16⟩

/-- No reserved bit, and every field agrees with the others (R276). -/
def strideOk (d : Nat) : Bool :=
  let p := Stride.ofDesc d
  d / 2 ^ 192 == 0 && d / 256 % 2 ^ 56 == 0 && decide (1 ≤ p.rows) && decide (1 ≤ p.cols) && decide (p.esz < 4)
    && (if p.fmt = 0 then true else codeLog p.fmt == some p.esz)
    && (if p.fmt = 3 then p.pitch == 0 && p.cols % 32 == 0 else p.pitch % 2 ^ p.esz == 0)

/-- The bytes a tile of h rows and wd columns takes at its destination (R277). -/
def tileBytes (p : Stride) (h wd : Nat) : Nat := if p.fmt = 3 then wd / 32 * 33 * h else wd * h * 2 ^ p.esz

/-- The bytes of a transposed tile (R277). -/
def State.tileMoves (s : State) (pid : BitVec 16) (dst base : Reg64) (row0 col0 h wd : Nat) (p : Stride) : List Move :=
  let d := s.keyOf dst
  let b := s.keyOf base
  let from' := fun (o a : Nat) => (⟨d + o, [a], s.byteAt pid a, if 2 ^ 53 ≤ a then none else some (p.fmt, false), none⟩ : Move)
  if p.fmt = 3 then
    ((List.range (wd / 32)).map (fun g =>
      let cb := col0 / 32 + g
      let inside := fun (i : Nat) => decide (row0 + i < p.rows) && decide (32 * cb < p.cols)
      let blk := fun (i : Nat) => (row0 + i) * (p.cols / 32) + cb
      let o := g * 33 * h
      (List.range h).map (fun i => if inside i then from' (o + i) (bs8Scale b (blk i)) else ⟨d + o + i, [], 0x7F, none, none⟩)
        ++ ((List.range 32).map (fun j => (List.range h).map (fun i =>
          if inside i then from' (o + h + j * h + i) (bs8Elem b (blk i) j) else (⟨d + o + h + j * h + i, [], 0, none, none⟩ : Move)))).flatten)).flatten
  else
    let e := 2 ^ p.esz
    ((List.range wd).map (fun j => ((List.range h).map (fun i => (List.range e).map (fun q =>
      let r := row0 + i
      let c := col0 + j
      let o := (j * h + i) * e + q
      if r < p.rows ∧ c < p.cols then from' o (b + r * p.pitch + c * e + q) else (⟨d + o, [], 0, none, none⟩ : Move)))).flatten)).flatten

/-- A source at which the format's elements do not start, and a count that is no whole number of its blocks (R275). -/
def sourceMisaligned (fmt c : Nat) : Bool := if fmt = 3 then !runStart c else if fmt = 4 then c % 64 != 0 else c % 2 ^ (codeLog fmt).getD 0 != 0
def countUneven (fmt n : Nat) : Bool := if fmt = 3 then n % 32 != 0 else if fmt = 4 then n % 64 != 0 else false

/-! ## Carrying out a copy -/

/-- The granule of external memory that holds a byte of a process. -/
def State.granuleOf (s : State) (pid : BitVec 16) (a : Nat) : Option Nat :=
  if onChip a ∨ 2 ^ 48 ≤ a then none else (s.translate pid a true false false).map (fun p => p.1 / 64)

/-- A source byte in a word or granule whose error the second reading meets too (R290, R291). -/
def State.brokenAt (s : State) (pid : BitVec 16) (a : Nat) : Bool :=
  s.softErrors.any (fun e => match e with | .storage b true => b / 8 == a / 8 | _ => false) || (s.granuleOf pid a).any (fun g => s.softErrors.contains (.granule g true))

/-- A source byte in a word or granule with an error that the first reading meets and cannot correct (R290). -/
def State.failsAt (s : State) (pid : BitVec 16) (a : Nat) : Bool :=
  s.brokenAt pid a || (s.granuleOf pid a).any (fun g => s.softErrors.contains (.granule g false))

/-- One event of the copy engine for every granule of these source bytes that is read again (R290, R291). -/
def State.noteRereads (s t : State) (cl : Nat) (pid : BitVec 16) (srcs : List Nat) : State :=
  let l := (srcs.filter (s.failsAt pid)).foldl (fun (l : List Nat) a =>
    let g := if onChip a then a / 64 else 2 ^ 60 + (s.granuleOf pid a).getD 0
    if l.contains g then l else g :: l) []
  l.foldl (fun t _ => t.noteEngine 18752 cl) t

/-- The errors an operation has met at its sources have their records (R285, R290): one of one bit is corrected, and counts for its core;
a granule read again is kept with the management plane (R283). -/
def State.sweepErrors (s : State) (pid : BitVec 16) (srcs : List Nat) : State :=
  let words := srcs.foldl (fun l a => if l.contains (a / 8) then l else a / 8 :: l) ([] : List Nat)
  let grans := (srcs.filterMap (s.granuleOf pid)).foldl (fun l g => if l.contains g then l else g :: l) ([] : List Nat)
  s.softErrors.foldl (fun s e => match e with
    | .storage a true => if words.contains (a / 8) then s.spmRecord a else s
    | .storage a false => if words.contains (a / 8) then s.eccCorrect a 1 else s
    | .granule g tw =>
      if grans.contains g then
        let s := if tw then s else { s with softErrors := s.softErrors.filter (fun e => e != .granule g false) }
        s.recordMgmt { time := 0, seq := 0, val := r64 (64 * g), unit := g / 1024 % 256, ukind := 9, kind := 4, cause := 8 }
      else s
    | _ => s) s

/-- The status of a byte, with the address that faults. -/
def State.moveFault (s : State) (h : Nat) (pid : BitVec 16) (m : Move) : Option (Nat × Nat) :=
  match m.srcs.findSome? (fun a => if s.brokenAt pid a then some (3, a) else (s.byteFault h pid a false m.need).map (fun st => (st, a))) with
  | some f => some f
  | none => (s.byteFault h pid m.dst true m.out).map (fun st => (st, m.dst))

/-- The bytes below the first fault: how many, with the status and the address (R271). -/
def State.movesDone (s : State) (h : Nat) (pid : BitVec 16) : List Move → Nat → Nat × Option (Nat × Nat)
  | [], k => (k, none)
  | m :: l, k => match s.moveFault h pid m with
    | some f => (k, some f)
    | none => State.movesDone s h pid l (k + 1)

/-- The answer of the other parts a copy touches, where all of them can be reached: a status and a byte count of their choosing (log 10). -/
def State.peerAnswer (s : State) (h : Nat) (l : List Move) : Option (Nat × Nat) :=
  let far := l.flatMap (fun m => (m.dst :: m.srcs).filter (fun a => decide (2 ^ 53 ≤ a)))
  if far ≠ [] ∧ far.all (s.reachable h) = true then
    let f := (Config.freeWord (s.free + 2 ^ 55)).toNat
    if f % 4 = 0 then none else some (if f % 4 = 1 then 3 else if f % 4 = 2 then 4 else 0xF, f / 4 % l.length)
  else none

/-- The bytes of a copy are written: those below `done` hold their values, each of the others may have been written or not, and
a byte that is also a source byte holds a free value (R271, R273; log 2). A byte that a running routine has written keeps its value (R234, log 91). -/
def State.writeMoves (s : State) (h : Nat) (pid : BitVec 16) (overlap : Nat → Bool) (l : List Move) (done : Nat) : State :=
  let r := l.foldl (fun (r : State × Nat) m =>
    let v := if overlap m.dst then (Config.freeWord (s.free + m.dst)).truncate 8 else m.val
    let w := decide (r.2 < done) || ((Config.freeWord (s.free + 2 ^ 56 + r.2)).getLsbD 0 && (s.moveFault h pid m).isNone)
    (if w ∧ ¬ s.routineWrote pid [m.dst] then r.1.putByte s pid m.dst v else r.1, r.2 + 1)) (s, 0)
  ({ r.1 with free := s.free + 2 ^ 57 } : State).wakeMonitors

/-- The token word of R270. -/
def tokenWord (done status : Nat) : Reg64 := r64 (done % 2 ^ 32 * 256 + status)

/-- A copy ends: its record where the status is nonzero, and its token (R270, R271, R297). -/
def State.endCopy (s : State) (o : Op) (done status : Nat) (val : Nat) : State :=
  let u : Nat × Nat := if status = 4 ∧ ¬ onChip val ∧ val < 2 ^ 48 then (7, stationOf val) else (2, o.cluster)
  let s := if status = 0 then s
    else s.record o.cluster { time := 0, seq := 0, tid := o.tid, ctok := o.ctok, lid := o.lid, info := r64 done, val := r64 val, pc := o.pc, unit := u.2, ukind := u.1, cid := cidOf o.owner, kind := 2, cause := status, status := status, slot := slOf o.owner }
  (s.resolve o (tokenWord done status) []).dropOp o.id

/-- A list of moves is carried out for an operation, on SC storage after the engine's earlier copies (R232); a unit or a peer that is not reached gives status 0x0F after rc.timeout (R270, R340, R401). -/
def State.carry (s : State) (o : Op) (overlap : Nat → Bool) (l : List Move) : State :=
  let sc := l.any (fun m => s.scAt o.pid m.dst || m.srcs.any (fun a => s.scAt o.pid a))
  if l.any (fun m => s.earlierOwn o m.dst 1 || m.srcs.any (fun a => s.earlierOwn o a 1)) then s
  else if sc ∧ s.ops.any (fun p => (match p.kind with | .copy _ => true | _ => false) && p.cluster == o.cluster && p.stage == 1 && decide (p.id < o.id)) = true then s
  else
    let own := s.movesDone o.owner o.pid l 0
    let r : Nat × Option (Nat × Nat) := match s.peerAnswer o.owner l with
      | some p => if p.2 < own.1 then (p.2, some (p.1, ((l.map (fun m => m.dst))[p.2]?).getD 0)) else own
      | none => own
    let srcs := l.flatMap (fun m => m.srcs)
    let fin := fun (st val : Nat) => s.noteRereads (((s.sweepErrors o.pid srcs).writeMoves o.owner o.pid overlap l r.1).endCopy o r.1 st val) o.cluster o.pid srcs
    match r.2 with
    | none => fin 0 0
    | some f => if f.1 = 0xF ∧ s.clk < o.due then s else fin f.1 f.2

/-- The nibs fold what the copy touches, first (R237). -/
def State.foldMoves (s : State) (pid : BitVec 16) (l : List Move) : State :=
  l.foldl (fun s m => m.srcs.foldl (fun s a => s.foldByte pid a) (s.foldByte pid m.dst)) s

/-- One of those folds waits for a routine of its nib (R336). -/
def State.foldsBusy (s : State) (pid : BitVec 16) (l : List Move) : Bool :=
  l.any (fun m => (m.dst :: m.srcs).any (fun a => !onChip a && decide (a < 2 ^ 48) && (s.translate pid a false false false).any (fun p => s.foldBusy p.1 1)))

/-- An address lies in one of the source rows (R273). -/
def inRows (starts : List Nat) (n a : Nat) : Bool := starts.any (fun c => decide (c ≤ a ∧ a < c + n))

/-- A copy command carried out by the engine (R273 to R277). A CPYT whose tile passes 262,144 bytes only under the pattern as it stands now ends with
status 3 (log 72), and one whose base lies in another part takes this part's pattern (log 10), both the model's choice. -/
def State.copyNow (s : State) (o : Op) (c : CopyCmd) : State :=
  let go := fun (overlap : Nat → Bool) (moves : State → List Move) => if s.foldsBusy o.pid (moves s) then s else let s := s.foldMoves o.pid (moves s); s.carry o overlap (moves s)
  match c with
  | .cpy dst src n => go (inRows [s.keyOf src] n) (fun s => s.plainMoves o.pid dst src n)
  | .cpys dst src n rows dstep sstep =>
    go (inRows ((List.range rows).map (fun i => s.keyOf (rowAt src sstep i))) n) (fun s => s.rowMoves o.pid dst src n rows dstep sstep)
  | .cpyd dst src n word out =>
    let c := s.keyOf src
    -- a peer decodes its own page
    let f := if 2 ^ 53 ≤ c ∧ ¬ onChip (c % 2 ^ 48) then some (1, 0) else s.sourceFmt o.pid c word
    match f with
    | none => s.endCopy o 0 4 c
    | some f =>
      if ¬ decodable f ∨ sourceMisaligned f.1 c ∨ countUneven f.1 n then s.endCopy o 0 4 c
      else
        let moves := fun (s : State) => s.decodeMoves o.pid dst src n f.1 out
        let srcs := (moves s).foldl (fun l m => if m.srcs = l.headD [] then l else m.srcs :: l) ([] : List (List Nat))
        go (fun a => srcs.any (fun l => l.contains a)) moves
  | .cpyt dst base origin extent pat =>
    match Tab.get? s.patterns pat with
    | none => s.endCopy o 0 3 (s.keyOf base)
    | some p =>
      let q := Stride.ofDesc p.desc
      let col0 := bits origin 32 32
      let wd := bits extent 32 32
      if p.pid ≠ o.pid then s.endCopy o 0 3 (s.keyOf base)
      else if 262144 < tileBytes q (bits extent 0 32) wd then s.endCopy o 0 3 (s.keyOf base)
      else if q.fmt = 3 ∧ (col0 % 32 ≠ 0 ∨ wd % 32 ≠ 0 ∨ ¬ runStart (s.keyOf base)) then s.endCopy o 0 4 (s.keyOf base)
      else
        let moves := fun (s : State) => s.tileMoves o.pid dst base (bits origin 0 32) col0 (bits extent 0 32) wd q
        go (fun _ => false) moves
  | .cpytSet a pat =>
    if (List.range 32).any (fun i => s.earlierOwn o (a + i) 1) then s
    else match s.byteFault o.owner o.pid a false none with
      | some st => if st = 0xF ∧ s.clk < o.due then s else s.endCopy o 0 st a
      | none =>
        let d := s.numAt o.pid a 32
        let done := (Config.freeWord s.free).toNat % 2 ^ 32
        let bytes := (List.range 32).map (fun i => a + i)
        let t : State := { s.sweepErrors o.pid bytes with free := s.free + 2 ^ 54 }
        s.noteRereads (if bytes.any (s.brokenAt o.pid) then t.endCopy o 0 3 a
          else if strideOk d then ({ t with patterns := Tab.set t.patterns pat ⟨d, o.pid⟩ } : State).endCopy o done 0 0 else t.endCopy o 0 4 a) o.cluster o.pid bytes

/-! ## Issue (R272, R278) -/

/-- A copy of no bytes completes at once with status 0 (R271). -/
def copyNothing (t : BitVec 6) (sel : Nat) (s : State) : State :=
  if t ≠ 0 then s.putG t.toNat 0 else s.deliverMsg s.cur s.me.uid [completionWord 1 0x1D sel 0]

/-- A copy command leaves for its engine. -/
def sendCopy (t : BitVec 6) (sel : Nat) (c : CopyCmd) (s : State) : Act :=
  withBuffer s (fun s =>
    .done (s.postTo t.toNat (.copy c) (fun q => { q with major := 0x1D, sel := sel, buf := true, due := s.clk + s.me.rcTimeout * 1800 })))

/-- A range an operation of the issuing hart may name (R278): no reserved bit, no unknown part, inside one window, its clusters
the process's. -/
def State.rangeBad (s : State) (a : Reg64) (n : Nat) : Bool := (s.regionBase a n).isNone

def execCpy (f t : BitVec 6) (s : State) : Host.Outcome State Fault Refusal :=
  run (.cpy f t) s (fun s =>
    let dst := s.getG f.toNat
    let src := s.getG (f.toNat + 1)
    let n := s.getG (f.toNat + 2)
    if 262144 < n.toNat then .trapOn (inGrp f [2]) 1 n
    else if s.rangeBad dst n.toNat then .trapOn (inGrp f [2, 0]) 3 dst
    else if s.rangeBad src n.toNat then .trap 3 src
    else if n = 0 then .done (copyNothing t 0 s)
    else sendCopy t 0 (.cpy dst src n.toNat) s)

/-- The first row of a CPYS with an address that may not be used. -/
def State.badRow (s : State) (dst src dstep sstep : Reg64) (n : Nat) : Nat → Nat → Option Reg64
  | 0, _ => none
  | k + 1, i =>
    if s.rangeBad (rowAt dst dstep i) n then some (rowAt dst dstep i)
    else if s.rangeBad (rowAt src sstep i) n then some (rowAt src sstep i)
    else State.badRow s dst src dstep sstep n k (i + 1)

def execCpys (f t : BitVec 6) (s : State) : Host.Outcome State Fault Refusal :=
  run (.cpys f t) s (fun s =>
    let dst := s.getG f.toNat
    let src := s.getG (f.toNat + 1)
    let n := s.getG (f.toNat + 2)
    let rows := s.getG (f.toNat + 3)
    let dstep := s.getG (f.toNat + 4)
    let sstep := s.getG (f.toNat + 5)
    if 262144 < n.toNat * rows.toNat then .trapOn (inGrp f [2, 3]) 1 (if 262144 < n.toNat then n else rows)
    else if s.rangeBad dst 0 then .trapOn (inGrp f [2, 3, 0]) 3 dst
    else if s.rangeBad src 0 then .trapOn (inGrp f [2, 3, 0, 1]) 3 src
    else if n = 0 ∨ rows = 0 then .done (copyNothing t 3 s)
    else match s.badRow dst src dstep sstep n.toNat rows.toNat 0 with
      | some a => .trap 3 a
      | none => sendCopy t 3 (.cpys dst src n.toNat rows.toNat dstep sstep) s)

/-- Bytes from the first to the last of a decoding source (R275). -/
def sourceBytes (fmt c n : Nat) : Nat :=
  if n = 0 then 0
  else if fmt = 3 then bs8Elem c ((n - 1) / 32) ((n - 1) % 32) + 1 - c
  else if fmt = 4 then n
  else n * 2 ^ (codeLog fmt).getD 0

def execCpyd (f t : BitVec 6) (o : BitVec 4) (s : State) : Host.Outcome State Fault Refusal :=
  run (.cpyd f t o) s (fun s =>
    let dst := s.getG f.toNat
    let src := s.getG (f.toNat + 1)
    let n := s.getG (f.toNat + 2)
    let word := (s.getG (f.toNat + 3)).toNat
    let c := s.keyOf src
    let w := (outFmt o.toNat).width / 8
    let fmt := match s.sourceFmt (s.pidOf s.cur) c word with | some p => if decodable p then p.1 else 0 | none => 0
    -- g[f+3] is read for a source on-chip alone
    let from' := if onChip (offset src) then [2, 1, 3] else [2, 1]
    if 262144 < n.toNat * w then .trapOn (inGrp f [2]) 1 n
    else if 1 ≤ fmt ∧ countUneven fmt n.toNat then .trapOn (inGrp f from') 1 n
    else if dst.toNat % w ≠ 0 then .trapOn (inGrp f (0 :: from')) 2 dst
    else if 1 ≤ fmt ∧ sourceMisaligned fmt (offset src) then .trapOn (inGrp f (0 :: from')) 2 src
    else if s.rangeBad dst (n.toNat * w) then .trapOn (inGrp f (0 :: from')) 3 dst
    else if s.rangeBad src (if 1 ≤ fmt then sourceBytes fmt (c % 2 ^ 48) n.toNat else min 1 n.toNat) then .trapOn (inGrp f (0 :: from')) 3 src
    else if n = 0 then .done (copyNothing t 2 s)
    else sendCopy t 2 (.cpyd dst src n.toNat (word % 64) o.toNat) s)

/-- CPYT (R277): the pattern is read when the unit starts the command; the checks at issue are made with the entry as it stands, and with
one byte an element where it is not the process's (R278, log 72). -/
def execCpyt (f t p : BitVec 6) (s : State) : Host.Outcome State Fault Refusal :=
  run (.cpyt f t p) s (fun s =>
    let dst := s.getG f.toNat
    let base := s.getG (f.toNat + 1)
    let origin := s.getG (f.toNat + 2)
    let extent := s.getG (f.toNat + 3)
    let h := bits extent 0 32
    let wd := bits extent 32 32
    let n := h * wd
    let q := ((Tab.get? s.patterns p.toNat).filter (fun q => q.pid == s.pidOf s.cur)).map (fun q => Stride.ofDesc q.desc)
    let size := match q with | some q => tileBytes q h wd | none => n
    -- the base and the origin decide with a BS8 pattern before the destination is judged
    let first := if q.any (fun q => q.fmt == 3) then [1, 2] else []
    if 262144 < size then .trapOn (inGrp f [3]) 1 extent
    else if q.any (fun q => q.fmt == 3 && (bits origin 32 32 % 32 != 0 || wd % 32 != 0 || !runStart (offset base))) then .trapOn (inGrp f [1, 2, 3]) 2 base
    else if s.rangeBad dst size ∨ ¬ onChip (offset dst) then .trapOn (inGrp f (first ++ [0, 3])) 3 dst
    else if s.rangeBad base (min 1 n) ∨ onChip (offset base) then .trapOn (inGrp f (first ++ [0, 1, 3])) 3 base
    else if n = 0 then .done (copyNothing t 1 s)
    else sendCopy t 1 (.cpyt dst base origin extent p.toNat) s)

/-- CPYT.SET (R276): the descriptor is read by the units. -/
def execCpytSet (f t p : BitVec 6) (s : State) : Host.Outcome State Fault Refusal :=
  run (.cpytSet f t p) s (fun s =>
    let a := s.getG f.toNat
    if a.toNat % 32 ≠ 0 then .trap 2 a
    else if s.rangeBad a 32 ∨ ¬ onChip (offset a) then .trap 3 a
    else sendCopy t 1 (.cpytSet (s.keyOf a) p.toNat) s)

/-! ## The engine (R272) -/

def isCopy (o : Op) : Bool := match o.kind with | .copy _ => true | _ => false

/-- The engine accepts the next command of a slot while it holds fewer than 16 (R272). -/
def execCopyEngineAcceptance (op : Nat) (s : State) : Host.Outcome State Fault Refusal :=
  .next (match s.op? op with
    | some o =>
      if ¬ isCopy o ∨ o.stage ≠ 0 ∨ s.heldBack o ∨ s.ops.any (fun p => isCopy p && p.owner == o.owner && p.task == o.task && p.stage == 0 && decide (p.id < o.id))
          ∨ 16 ≤ (s.ops.filter (fun p => isCopy p && p.cluster == o.cluster && p.stage == 1)).length then s
      else s.setOp { o with stage := 1, buf := false }
    | none => s)

/-- An accepted copy is carried out and completes with its token word (R270). -/
def execCopyCompletion (op : Nat) (s : State) : Host.Outcome State Fault Refusal :=
  .next (match s.op? op with
    | some o => match o.kind with
      | .copy c => if o.stage = 1 then s.copyNow o c else s
      | _ => s
    | none => s)

end Sys2Proof.Machine
end

