-- ==== Sys2Proof/Machine/Sync.lean ====
section
/-! DEFINITION. Phaser instructions (R264 to R269) and messages (R149 to R153). -/

namespace Sys2Proof.Machine

/-- The phaser a register names (R264, R269): a trap, or the id and the phaser. -/
def State.named (s : State) (v : Reg64) : Except (Nat × Reg64) (Nat × Phaser) :=
  if bits v 15 49 ≠ 0 then .error (1, v)
  else if ¬ s.holds (s.pidOf s.cur) (v.toNat / 512) then .error (3, v)
  else match s.phaser? v.toNat with
    | none => .error (1, v)
    | some p => .ok (v.toNat, p)

/-- An act on the phaser a register names. -/
def onPhaser (d : BitVec 6) (k : Nat → Phaser → State → Act) (s : State) : Act :=
  match s.named (s.getG d.toNat) with
  | .error t => .trap t.1 t.2
  | .ok (id, p) => k id p s

/-- The same for the task's membership; another task than a member traps (R269). -/
def onMember (d : BitVec 6) (k : Nat → Phaser → Member → State → Act) (s : State) : Act :=
  onPhaser d (fun id p s => match p.member? s.me.uid with
    | none => .trap 1 (s.getG d.toNat)
    | some m => k id p m s) s

def newMember (s : State) (mode : Nat) (wp : Nat) : Member :=
  ⟨s.me.uid, mode % 2 == 1, decide (2 ≤ mode), false, wp, s.nextId⟩

/-- The numbers PHNEW may hand out (R266). -/
def State.freePhasers (s : State) (cl : Nat) : List Nat :=
  (List.range 512).filter (fun n => (Tab.get? (s.cluster cl).phasers n).isNone)

/-- PHNEW (R266): any number that is not allocated, a free value's choice (log 2); 2^63 with the reservation used up. -/
def execPhnew (d : BitVec 6) (m : BitVec 2) (s : State) : Host.Outcome State Fault Refusal :=
  run (.phnew d m) s (fun s =>
    let cl := clusterOf s.cur
    let l := s.freePhasers cl
    if s.me.phLeft = 0 ∨ l = [] then .done (s.putG d.toNat (r64 (2 ^ 63)))
    else
      let f := s.freeVal
      let n := l.getD (f.1.toNat % l.length) 0
      let s := f.2
      let id := cl * 512 + n
      let s := s.setPhaser id { creator := s.me.uid, members := [newMember s m.toNat 0] }
      let s : State := { s with nextId := s.nextId + 1 }
      .done ((s.modMe (fun x => { x with phLeft := x.phLeft - 1 })).putG d.toNat (r64 id)))

def execPhjoin (d : BitVec 6) (m : BitVec 2) (s : State) : Host.Outcome State Fault Refusal :=
  run (.phjoin d m) s (onPhaser d (fun id p s =>
    if (p.member? s.me.uid).isSome ∨ 1024 ≤ p.members.length then .trap 1 (s.getG d.toNat)
    else .done { s.setPhaser id { p with members := p.members ++ [newMember s m.toNat p.phase] } with nextId := s.nextId + 1 }))

def execPhleave (d : BitVec 6) (s : State) : Host.Outcome State Fault Refusal :=
  run (.phleave d) s (onMember d (fun id _ _ s => afterStores s (fun s => .done (s.leavePhaser id s.me.uid))))

/-- The signal of PHSIG, PHNEXT and STEPADV (R268). -/
def State.signal (s : State) (id : Nat) (p : Phaser) (uid : Nat) : State :=
  (s.setPhaser id (p.modMember uid (fun m => { m with sig := true }))).completePhase id false

/-- The wait of PHWAIT and PHNEXT (R268): with a later phase current the wait phase goes up; a phase without signallers completes
here. -/
def phaseWait (id uid : Nat) (s : State) (k : State → Act) : Act :=
  match s.phaser? id with
  | none => .wait s .phaser
  | some p => match p.member? uid with
    | none => .wait s .phaser
    | some m =>
      let pass := fun (p : Phaser) => k (s.setPhaser id (p.modMember uid (fun m => { m with wp := m.wp + 1 })))
      if m.wp < p.phase then pass p
      else if p.members.all (fun q => !q.sigMode) then pass p.next
      else .wait s .phaser

/-- Plain phaser instructions trap on a step group (R314). -/
def plainOnly (d : BitVec 6) (p : Phaser) (s : State) (k : State → Act) : Act :=
  if p.group.isSome then .trap 1 (s.getG d.toNat) else k s

def execPhsig (d : BitVec 6) (s : State) : Host.Outcome State Fault Refusal :=
  run (.phsig d) s (onMember d (fun id p m s => plainOnly d p s (fun s =>
    if ¬ m.sigMode ∨ m.sig then .trap 1 (s.getG d.toNat)
    else afterStores s (fun s => .done (s.signal id p s.me.uid)))))

def execPhwait (d : BitVec 6) (s : State) : Host.Outcome State Fault Refusal :=
  run (.phwait d) s (onMember d (fun id p m s => plainOnly d p s (fun s =>
    if ¬ m.waitMode then .trap 1 (s.getG d.toNat) else phaseWait id s.me.uid s .done)))

/-- The instruction at this pc has signalled and waits. -/
def Slot.mid (x : Slot) : Option Nat := match x.midway with | some (p, n) => if p = x.pc then some n else none | none => none

/-- PHNEXT signals, then waits. One that has signalled and waits when its phaser becomes a step group traps at its next try (R314; log 94, the model's
choice). -/
def execPhnext (d : BitVec 6) (s : State) : Host.Outcome State Fault Refusal :=
  run (.phnext d) s (onMember d (fun id p m s => plainOnly d p s (fun s =>
    if ¬ m.sigMode ∨ ¬ m.waitMode ∨ (m.sig ∧ s.me.mid.isNone) then .trap 1 (s.getG d.toNat)
    else if s.me.mid.isSome then phaseWait id s.me.uid s .done
    else afterStores s (fun s =>
      let s := s.signal id p s.me.uid
      phaseWait id s.me.uid (s.modMe (fun x => { x with midway := some (x.pc, 0) })) .done))))

def execPhfree (d : BitVec 6) (s : State) : Host.Outcome State Fault Refusal :=
  run (.phfree d) s (onPhaser d (fun id p s =>
    let uid := s.me.uid
    if p.creator ≠ uid ∨ p.members.any (fun m => m.uid != uid) then .trap 1 (s.getG d.toNat)
    else .done ((s.erasePhaser id).modMe (fun x => { x with phLeft := x.phLeft + 1 }))))

/-! ## QSEND, QPEEK -/

def execQsend (f t : BitVec 6) (s : State) : Host.Outcome State Fault Refusal :=
  run (.qsend f t) s (fun s => withBuffer s (fun s =>
    let v := s.getG f.toNat
    .done (s.postTo t.toNat (.qsend (bits v 0 8) (bits v 8 2) (s.getG (f.toNat + 1))) (fun q => { q with major := 0x19, sel := 0, buf := true }))))

def execQpeek (f p : BitVec 6) (s : State) : Host.Outcome State Fault Refusal :=
  run (.qpeek f p) s (fun s =>
    let x := s.me
    let l := if p = 63 then x.inbox.map (fun m => m.headD 0) else x.queue (p.toNat - 56)
    .done ((s.putG f.toNat (r64 l.length)).putG (f.toNat + 1) (l.headD 0)))

/-- Some earlier message of the same slot to the same target is still on its way (R150, R152). -/
def State.earlierMsg (s : State) (o : Op) : Bool :=
  s.ops.any (fun p => p.owner == o.owner && decide (p.id < o.id) && (match p.kind, o.kind with
    | .qsend c q _, .qsend c' q' _ => c == c' && q == q'
    | .msg _ c q d _, .msg _ c' q' d' _ => c == c' && q == q' && d == d'
    | _, _ => false))

/-- A QSEND value reaches q3, and the status returns (R150); a control core stands in no cluster and reaches no core: status 3 (log 8). -/
def execQsendDelivery (op : Nat) (s : State) : Host.Outcome State Fault Refusal :=
  .next (match s.op? op with
    | some o => match o.kind with
      | .qsend c q v =>
        if s.earlierMsg o then s
        else
          let cid := o.cluster * 256 + c
          let x := s.slot (hartOf cid q)
          let st := if s.coreOut cid then 3 else if ¬ x.live then 2 else if 4 ≤ x.q3.length then 1 else 0
          let s := if st = 0 then s.modSlot (hartOf cid q) (fun x => { x with q3 := x.q3 ++ [v] }) else s
          (s.resolve o (r64 st) []).dropOp op
      | _ => s
    | none => s)

/-! ## MSEND, MSENDW -/

/-- The header of a message (R152). A control core has no global core id and no slot: its header holds all ones in both fields (log 75, the
model's choice). -/
def State.msgHeader (s : State) (n : Nat) : Reg64 :=
  let c := if isCore s.cur then cidOf s.cur else 0x3FFF
  let sl := if isCore s.cur then slOf s.cur else 3
  r64 (2 ^ 60 + n * 2 ^ 56 + s.domIndex.toNat * 2 ^ 32 + sl * 2 ^ 16 + c)

def message (i : Instr) (hold : Bool) (f t n : BitVec 6) (s : State) : Host.Outcome State Fault Refusal :=
  run i s (fun s => withBuffer s (fun s =>
    let v := s.getG f.toNat
    let words := s.msgHeader n.toNat :: (List.range n.toNat).map (fun j => s.getG (f.toNat + 1 + j))
    .done (s.postTo t.toNat (.msg hold (bits v 0 14) (bits v 16 2) (bits v 32 5) words) (fun q => { q with major := 0x19, sel := if hold then 3 else 2, buf := true, due := s.clk + s.me.rcTimeout * 1800 }))))

def execMsend (f t n : BitVec 6) (s : State) : Host.Outcome State Fault Refusal := message (.msend f t n) false f t n s
def execMsendw (f t n : BitVec 6) (s : State) : Host.Outcome State Fault Refusal := message (.msendw f t n) true f t n s

/-- A message is offered to its target's inbox (R152); messages held already go first (R415). One to a part outside the domain is unreachable,
and one to a part of the domain that cannot be reached ends with status 0x0F after rc.timeout (R401). What the other part answers is a free
value within the status codes (log 10). -/
def State.offer (s : State) (o : Op) (hold : Bool) (cid q part : Nat) (words : List Reg64) : State :=
  let h := hartOf cid q
  let x := s.slot h
  let fin := fun (s : State) (st : Nat) => (s.resolve o (r64 st) []).dropOp o.id
  if part ≠ s.domIndex.toNat ∧ part < s.domSize.toNat ∧ ¬ s.canReach o.owner (2 ^ 20 + part) then (if s.clk < o.due then s else fin s 0xF)
  else if ¬ s.canReach o.owner (if part = s.domIndex.toNat then h else 2 ^ 20 + part) then fin s 3
  else if part ≠ s.domIndex.toNat then
    let f := s.freeVal; let st := f.1.toNat % 4; fin f.2 (if hold ∧ st = 1 then 0 else st)
  else if s.coreOut cid ∨ ¬ s.holds o.pid (cid / 256) then fin s 3
  else
    let saved := s.saved.any (fun v => v.cid == cid && v.sl == q)
    let full := if x.live then !inboxRoom h x || !x.held.isEmpty else saved
    if ¬ x.live ∧ ¬ saved then fin s 2
    else if full then (if hold then s.setOp { o with stage := 1, due := s.clk + 256 } else fin s 1)
    else fin (s.modSlot h (fun x => { x with inbox := x.inbox ++ [words] })) 0

def execMessageDelivery (op : Nat) (s : State) : Host.Outcome State Fault Refusal :=
  .next (match s.op? op with
    | some o => match o.kind with
      | .msg hold cid q part words => if o.stage ≠ 0 ∨ s.earlierMsg o ∨ (s.canReach o.owner (if part = s.domIndex.toNat then hartOf cid q else 2 ^ 20 + part) ∧ ¬ s.arrived o) then s
        else s.offer o hold cid q part words
      | _ => s
    | none => s)

/-- A held MSENDW is offered again every 256 clk (R152). -/
def execMsendwRetry (op : Nat) (s : State) : Host.Outcome State Fault Refusal :=
  .next (match s.op? op with
    | some o => match o.kind with
      | .msg true cid q part words => if o.stage = 1 ∧ o.due ≤ s.clk then s.offer o true cid q part words else s
      | _ => s
    | none => s)

/-- A held message enters the inbox once an entry is free (R415). -/
def execHeldMessageDelivery (cid sl : Nat) (s : State) : Host.Outcome State Fault Refusal :=
  let h := hartOf cid sl
  let x := s.slot h
  .next (match x.held with
    | m :: rest => if sl < 5 ∧ x.live ∧ inboxRoom h x then s.setSlot h { x with inbox := x.inbox ++ [m], held := rest } else s
    | [] => s)

end Sys2Proof.Machine
end

