-- ==== Sys2Proof/Machine/Learning.lean ====
section
/-! DEFINITION. Plastic regions, traces and reward (R302 to R313), step groups (R314 to R318), delay rings and events (R319 to
R323). -/

namespace Sys2Proof.Machine

/-! ## Regions and sets (R302 to R304) -/

def State.region? (s : State) (base : Nat) : Option Region := s.regions.find? (fun r => r.base == base)
def State.modRegion (s : State) (base : Nat) (f : Region → Region) : State :=
  { s with regions := s.regions.map (fun r => if r.base = base then f r else r) }

/-- The process a set belongs to (R302). -/
def State.setPid (s : State) (set : Nat) : Option (BitVec 16) := (s.regions.find? (fun r => r.set == set)).map (fun r => r.pid)

/-- A range wholly inside one core's scratchpad, in a cluster of the process (R302): its first offset. -/
def State.inOneCore (s : State) (a : Reg64) (n : Nat) : Option Nat :=
  match s.address a with
  | some (off, none) => if onChip off ∧ coreOfAddr off = coreOfAddr (off + n - 1) ∧ s.holds (s.pidOf s.cur) (clusterOfAddr off) then some off else none
  | _ => none

/-- The same in the issuing core's own scratchpad (R308, R320). -/
def State.inOwnCore (s : State) (a : Reg64) (n : Nat) : Option Nat :=
  match s.inOneCore a n with
  | some off => if coreOfAddr off = cidOf s.cur then some off else none
  | none => none

/-- A result of a learning instruction on its way to its register or the inbox. -/
def State.learnResult (s : State) (t : BitVec 6) (major sel v : Nat) : State :=
  s.postTo t.toNat (.value (r64 v) []) (fun q => { q with major := major, sel := sel })

/-- The status of PLREG (R304). -/
def State.plregStatus (s : State) (set base n : Nat) : Nat :=
  if (s.setPid set).any (fun p => p != s.pidOf s.cur) then 3
  else if s.regions.any (fun r => overlaps r.base (4 * r.count) base (4 * n)) then 2
  else if 8 ≤ (s.regions.filter (fun r => coreOfAddr r.base == coreOfAddr base)).length then 1
  else 0

/-- PLREG (R302, R304): the owning core's table holds the region from now on. -/
def execPlreg (f t : BitVec 6) (e : BitVec 4) (s : State) : Host.Outcome State Fault Refusal :=
  run (.plreg f t e) s (fun s =>
    let a := s.getG f.toNat
    let n := (s.getG (f.toNat + 1)).toNat
    if n = 0 ∨ 16384 < n then .trapOn (inGrp f [1]) 1 ((Instr.plreg f t e).word.zeroExtend 64)
    else if a.toNat % 4 ≠ 0 then .trap 2 a
    else match s.inOneCore a (4 * n) with
      | none => .trap 3 a
      | some off =>
        let st := s.plregStatus e.toNat off n
        let s : State := if st = 0 then { s with regions := s.regions ++ [{ base := off, count := n, set := e.toNat, pid := s.pidOf s.cur, lid := s.me.lid }] } else s
        .done (s.learnResult t 0x2B 2 st))

/-- A PLDROP waits for the pass on a region (R304). -/
def State.dropping (s : State) (base : Nat) : Bool := s.ops.any (fun o => o.kind == .pldrop base)

/-- A region leaves its set: its armed REWARDs pass it over (R303, R304). -/
def State.dropRegion (s : State) (base : Nat) : State := s.keepRegions (fun r => r.base != base)

/-- PLDROP (R304): a pass that has begun ends first. -/
def execPldrop (f t : BitVec 6) (e : BitVec 4) (s : State) : Host.Outcome State Fault Refusal :=
  run (.pldrop f t e) s (fun s =>
    let a := s.getG f.toNat
    if a.toNat % 4 ≠ 0 then .trap 2 a
    else match s.inOneCore a 4 with
      | none => .trap 3 a
      | some off =>
        if (s.setPid e.toNat).any (fun p => p != s.pidOf s.cur) then .done (s.learnResult t 0x2B 3 3)
        else match s.region? off with
          | none => .done (s.learnResult t 0x2B 3 1)
          | some r =>
            if r.set ≠ e.toNat then .done (s.learnResult t 0x2B 3 1)
            else match r.running with
              | none => .done ((s.dropRegion off).learnResult t 0x2B 3 0)
              | some k => .done ((s.modRegion off (fun r => { r with armed := [k] })).postTo t.toNat (.pldrop off) (fun q => { q with major := 0x2B, sel := 3 })))

/-! ## Traces (R305 to R308) -/

/-- λ of a fading code (R307). -/
def fading (c : Nat) : XNum :=
  if c < 5 then .fin false 1 (-(c : Int)) else if c < 12 then .fin false (2 ^ (c - 3) - 1) (-((c : Int) - 3)) else .zero false

/-- One trace: the exact post × pre + λ × e rounded once to FP16, and the flush of R48. -/
def traceStep (mode : Rnd) (lam : XNum) (pre post e : Nat) (srs : Reg64) : Rounded :=
  let l := exactMul lam (fp16.decode e)
  let x := exactFma (mode == .rdn) (fp16.decode post) (fp16.decode pre) l.1
  let r := fp16.round mode false srs x.1
  { r with bits := if fp16.expField r.bits = 0 then 0 else r.bits, flags := (l.2.or x.2).or r.flags }

/-- A block of pairs: base, pre and post as offsets, and the shape (R305). -/
structure Block where
  base : Nat
  pre : Nat
  post : Nat
  rows : Nat
  cols : Nat
  stride : Nat
  deriving DecidableEq, Repr

def Block.pair (b : Block) (i j : Nat) : Nat := b.base + 4 * (i * b.stride + j)
def Block.span (b : Block) : Nat := 4 * ((b.rows - 1) * b.stride + b.cols)

/-- What a TRC comes to: the traces with their addresses, the flags and srs; or the first pair whose trace is not finite (R306,
R308). -/
def traceBlock (m : Mem) (b : Block) (mode : Rnd) (lam : XNum) (watch : Bool) (srs : Reg64) : Except Nat (List (Nat × Nat) × Flags × Reg64) :=
  let pre := (List.range b.cols).map (fun j => Mem.read m (b.pre + 2 * j) 2)
  let post := (List.range b.rows).map (fun i => Mem.read m (b.post + 2 * i) 2)
  (List.range (b.rows * b.cols)).foldl (fun (acc : Except Nat (List (Nat × Nat) × Flags × Reg64)) n =>
    match acc with
    | .error k => .error k
    | .ok (l, f, q) =>
      let a := b.pair (n / b.cols) (n % b.cols)
      let r := traceStep mode lam (pre.getD (n % b.cols) 0) (post.getD (n / b.cols) 0) (Mem.read m a 2) q
      if watch ∧ fp16.nonFinite r.bits then .error n else .ok ((a, r.bits) :: l, f.or r.flags, r.srs)) (.ok ([], {}, srs))

/-- A TRC carried out for a hart, whole: the traces written, flags and srs; or the index that traps (R306, R308). -/
def State.traceNow (s : State) (h : Nat) (b : Block) (mode : Rnd) (lam : XNum) : Except Nat State :=
  let x := s.slot h
  match traceBlock s.spm b mode lam x.watch x.srs with
  | .error k => .error k
  | .ok (l, f, q) =>
    .ok ((({ s with spm := l.foldl (fun m e => Mem.write m e.1 2 e.2) s.spm } : State).modSlot h (fun x => { x with fcr := orFlags x.fcr f, srs := q })).wakeMonitors)

/-- Rows of a block that meet a region, and that lie inside it. -/
def Block.meets (b : Block) (r : Region) : Bool := (List.range b.rows).any (fun i => overlaps (b.pair i 0) (4 * b.cols) r.base (4 * r.count))
def Block.within (b : Block) (r : Region) : Bool := (List.range b.rows).all (fun i => decide (r.base ≤ b.pair i 0 ∧ b.pair i b.cols ≤ r.base + 4 * r.count))

/-- Writes of the issuing task to these bytes that are still on their way: the instruction that completes at once waits for them
(R223). -/
def State.ownInFlight (s : State) (a n : Nat) : Bool :=
  s.ownBusy a n || s.ops.any (fun o => o.owner == s.cur && o.task == s.me.uid && (match o.kind with | .store els => els.any (fun e => overlaps e.1 e.2.1 a n) | _ => false))

/-- The scratchpad ranges a TRC reads: each row of its block, its pre and post traces. -/
def Block.reads (b : Block) : List (Nat × Nat) := (List.range b.rows).map (fun i => (b.pair i 0, 4 * b.cols)) ++ [(b.pre, 2 * b.cols), (b.post, 2 * b.rows)]

/-- The mode of a TRC (R305). -/
def trcMode (x : Slot) (r : BitVec 3) : Rnd := x.modeOf r.toNat

def execTrc (f : BitVec 6) (l : BitVec 4) (r : BitVec 3) (s : State) : Host.Outcome State Fault Refusal :=
  run (.trc f l r) s (fun s =>
    let w := (Instr.trc f l r).word.zeroExtend 64
    let a := s.getG f.toNat
    let pre := s.getG (f.toNat + 1)
    let post := s.getG (f.toNat + 2)
    let shp := s.getG (f.toNat + 3)
    let rows := bits shp 0 16
    let cols := bits shp 16 16
    let stride := bits shp 32 16
    if rows = 0 ∨ 4096 < rows ∨ cols = 0 ∨ 4096 < cols ∨ stride < cols ∨ bits shp 48 16 ≠ 0 then .trapOn (inGrp f [3]) 1 w
    else if a.toNat % 4 ≠ 0 then .trapOn (inGrp f [3, 0]) 2 a
    else if pre.toNat % 2 ≠ 0 then .trapOn (inGrp f [3, 0, 1]) 2 pre
    else if post.toNat % 2 ≠ 0 then .trap 2 post
    else
      let span := 4 * ((rows - 1) * stride + cols)
      match s.inOwnCore a span, s.inOwnCore pre (2 * cols), s.inOwnCore post (2 * rows) with
      | none, _, _ => .trap 3 a
      | some _, none, _ => .trap 3 pre
      | some _, some _, none => .trap 3 post
      | some ao, some po, some qo =>
        let b : Block := ⟨ao, po, qo, rows, cols, stride⟩
        let hit := s.regions.filter b.meets
        if 1 < hit.length ∨ hit.any (fun g => !b.within g) then .trap 1 a
        else afterAcquire s .acquire (fun s =>
          if s.ownInFlight ao span ∨ s.ownInFlight po (2 * cols) ∨ s.ownInFlight qo (2 * rows) then .wait s .gate
          else match hit with
            | g :: _ =>
              let id := s.nextId
              let s := s.post (.trc a pre post shp l.toNat (trcMode s.me r) (s.stepOf s.me.uid) g.base) (fun q => { q with mute := true })
              .wait (s.modMe (fun x => { x with blocked := some id })) .gate
            | [] => withSpmEcc s b.reads (fun s => match s.traceNow s.cur b (trcMode s.me r) (fading l.toNat) with
              | .error k => .trap 9 (r64 k)
              | .ok s => .done s)))

/-- Armed, unfinished REWARDs of a region, with their stamps (R311). -/
def State.armedAt (s : State) (g : Region) : List (Nat × Nat) :=
  g.armed.filterMap (fun id => (s.op? id).bind (fun o => match o.kind with | .reward _ _ _ st _ => some (id, st.toNat) | _ => none))

/-- TRCs that wait at a region's gate, in order, with their stamps. -/
def State.waitingAt (s : State) (base : Nat) : List (Nat × Nat) :=
  s.ops.filterMap (fun o => match o.kind with | .trc _ _ _ _ _ _ x g => if g = base then some (o.id, x) else none | _ => none)

/-- The gate admits a TRC (R311): no pass runs, no armed REWARD of a lower stamp holds it back, and it is the first of those not held
back. A region that is gone holds nothing back. -/
def State.admits (s : State) (base id : Nat) : Bool :=
  match s.region? base with
  | none => true
  | some g =>
    let free := (s.waitingAt base).filter (fun w => !(s.armedAt g).any (fun r => decide (r.2 < w.2)))
    g.running.isNone && (free.head?).map (fun w => w.1) == some id

/-- A TRC is admitted, runs whole, and its slot goes on or traps (R306, R308, R311). -/
def execTrcAdmission (op : Nat) (s : State) : Host.Outcome State Fault Refusal :=
  .next (match s.op? op with
    | some o => match o.kind with
      | .trc a pre post shp fade mode _ g =>
        if ¬ s.admits g op then s
        else
          let b : Block := ⟨s.keyOf a, s.keyOf pre, s.keyOf post, bits shp 0 16, bits shp 16 16, bits shp 32 16⟩
          match b.reads.findSome? (fun r => s.eccDouble r.1 r.2) with
          | some a => ((s.dropOp op).spmRecord a).trapAt o.owner 8 (r64 a) o.pc 0
          | none => match (b.reads.foldl (fun s r => s.eccCorrect r.1 r.2) s).traceNow o.owner b mode (fading fade) with
          | .error k => (s.dropOp op).trapAt o.owner 9 (r64 k) o.pc 0
          | .ok s => s.unblock o
      | _ => s
    | none => s)

/-! ## Reward (R309 to R313) -/

/-- REWARD leaves for every region of its set (R309, R310): h is formed at issue. -/
def execReward (f t : BitVec 6) (e : BitVec 4) (c : BitVec 1) (s : State) : Host.Outcome State Fault Refusal :=
  run (.reward f t e c) s (fun s =>
    let r := bits (s.getG f.toNat) 0 32
    let eta := bits (s.getG (f.toNat + 1)) 0 32
    let h := (fp32.round .rne false 0 (exactMul (fp32.decode eta) (fp32.decode r)).1).bits
    let other := (s.setPid e.toNat).any (fun p => p != s.pidOf s.cur)
    let regs := if other then [] else (s.regions.filter (fun g => g.set == e.toNat && !s.dropping g.base)).map (fun g => g.base)
    .done (s.postTo t.toNat (.reward e.toNat (c == 1) h (s.getG (f.toNat + 2)) regs) (fun q => { q with major := 0x2B, sel := 1, status := if other then 3 else 0, groups := s.phasersOf s.me.uid })))

/-- Two regions hold bytes of one aligned 64-byte granule. -/
def Region.shares (a b : Region) : Bool :=
  a.base == b.base || (decide (a.base / 64 ≤ (b.base + 4 * b.count - 1) / 64) && decide (b.base / 64 ≤ (a.base + 4 * a.count - 1) / 64))

/-- The regions of a list that granules link, one to the next, to some given ones. -/
def Region.kin (l : List Region) : Nat → List Region → List Region
  | 0, acc => acc
  | f + 1, acc => Region.kin l f (l.filter (fun g => acc.any g.shares))

/-- The regions that a REWARD has still to finish, of those that granules link to one region: R234 has them end together (log 91). -/
def State.kinOf (s : State) (id : Nat) (arm : List Nat) (region : Nat) : List Region :=
  Region.kin (s.regions.filter (fun g => arm.contains g.base || g.armed.contains id || g.running == some id)) s.regions.length (s.regions.filter (fun g => g.base == region))

/-- What a REWARD has still to arm at. -/
def Op.arms (o : Op) : List Nat := match o.kind with | .reward _ _ _ _ arm => arm | _ => []

/-- Granules link the region to another one that the REWARD has still to finish. -/
def State.linked (s : State) (o : Op) (region : Nat) : Bool :=
  (s.kinOf o.id o.arms region).any (fun g => g.base != region)

/-- REWARDs arm at linked regions in the order in which they first did at one: whether this one waits for another that has still to arm at
some region linked to this, or, before its own first, for one of its slot and set that has yet to begin (R234, R312, log 91). -/
def State.armsLater (s : State) (o : Op) (region : Nat) : Bool :=
  s.linked o region && s.ops.any (fun p =>
    (p.due != 0 && (o.due == 0 || decide (p.due < o.due)) && s.linked p region && (s.kinOf p.id p.arms region).any (fun g => p.arms.contains g.base))
    || (o.due == 0 && p.due == 0 && p.owner == o.owner && p.task == o.task && decide (p.id < o.id) && p.arms != []))

/-- The place of a REWARD in the order of first arming at linked regions is taken. -/
def State.takesPlace (s : State) (o : Op) (region : Nat) : State × Op :=
  if s.linked o region ∧ o.due = 0 then ({ s with nextId := s.nextId + 1 }, { o with due := s.nextId }) else (s, o)

/-- A region's gate records a REWARD (R311, R312); a region that is gone is passed over. -/
def execRewardArming (op region : Nat) (s : State) : Host.Outcome State Fault Refusal :=
  .next (match s.op? op with
    | some o => match o.kind with
      | .reward set clr h st arm =>
        let earlier := s.ops.any (fun p => p.owner == o.owner && p.task == o.task && decide (p.id < op) && (match p.kind with | .reward q _ _ _ l => q == set && l.contains region | _ => false))
        if ¬ arm.contains region ∨ earlier ∨ s.armsLater o region then s
        else
          let (s, o) := s.takesPlace o region
          let s := s.setOp { o with kind := .reward set clr h st (arm.filter (fun b => b != region)) }
          (match s.region? region with
            | some g => if g.set = set ∧ g.pid = o.pid ∧ ¬ s.dropping region then s.modRegion region (fun g => { g with armed := g.armed ++ [op] }) else s
            | none => s).pokeGroups
      | _ => s
    | none => s)

/-- A pass begins for the oldest armed REWARD, with no TRC of its stamp or below waiting (R311), once its issuer's earlier stores to the
region are home and its earlier loads behind an acquire performed (R223, R233, R243). -/
def execRewardPassStart (region : Nat) (s : State) : Host.Outcome State Fault Refusal :=
  .next (match s.region? region with
    | none => s
    | some g => match g.running, s.armedAt g with
      | none, (id, st) :: _ => if (s.waitingAt region).any (fun w => decide (w.2 ≤ st)) ∨ (s.op? id).any (fun o => s.heldBack o || s.earlierOwn o g.base (4 * g.count)) = true then s else s.modRegion region (fun g => { g with running := some id })
      | _, _ => s)

/-- A pair word after a pass (R310). -/
def rewardPair (h : Nat) (clr : Bool) (p : Nat) : Nat :=
  let e := p % 65536
  let w := (fp16.round .rne false 0 (exactFma false (fp32.decode h) (fp16.decode e) (fp16.decode (p / 65536 % 65536))).1).bits
  w * 65536 + (if clr then 0 else e)

/-- The pass over a region, in ascending pair address. -/
def rewardPass (h : Nat) (clr : Bool) : Nat → Nat → Mem → Mem
  | 0, _, m => m
  | n + 1, a, m => rewardPass h clr n (a + 4) (Mem.write m a 4 (rewardPair h clr (Mem.read m a 4)))

/-- The weights of a region after a pass; a byte that a running routine has written keeps its value (R234, R310). -/
def State.passMem (s : State) (h : Nat) (clr : Bool) (g : Region) : Mem :=
  (s.routineBytes g.base (4 * g.count)).foldl (fun m b => m.set b (s.spm.get b)) (rewardPass h clr g.count g.base s.spm)

/-- The pass of a REWARD over a region ends: its weights are updated, its REWARD is finished here, and PLDROPs that waited go on (R304, R310). A
storage error that is not corrected leaves the region as it is, with status 0x10 (R290). -/
def State.passRegion (id : Nat) (s : State) (region : Nat) : State :=
  match s.region? region with
  | none => s
  | some g =>
    let s := s.modRegion region (fun g => { g with running := none, armed := g.armed.filter (fun a => a != id) })
    let s := match s.op? id with
      | some o => match o.kind with
        | .reward _ clr h _ _ => match s.eccDouble g.base (4 * g.count) with
          | some a => (s.spmRecord a).setOp { o with status := 0x10 }
          | none =>
            let s := s.eccCorrect g.base (4 * g.count)
            let o := (s.op? id).getD o
            (({ s with spm := s.passMem h clr g } : State).wakeMonitors).setOp { o with done := o.done + 1 }
        | _ => s
      | none => s
    if s.dropping region then s.dropRegion region else s

/-- A pass ends, with the passes of its REWARD over the regions that granules link to this one, once all of them run (R234, log 91). -/
def execRewardPassEnd (region : Nat) (s : State) : Host.Outcome State Fault Refusal :=
  .next (match (s.region? region).bind (fun g => g.running) with
    | none => s
    | some id =>
      let l := s.kinOf id ((s.op? id).map Op.arms |>.getD []) region
      if l.any (fun g => g.running != some id) then s else (l.map (fun g => g.base)).eraseDups.foldl (State.passRegion id) s)

/-- A nonzero status of an engine operation: the record of kind 2 (R285). -/
def State.recordOp (s : State) (o : Op) (status : Nat) (val info : Reg64) (ukind unit : Nat) : State :=
  s.record o.cluster { time := 0, seq := 0, tid := o.tid, ctok := o.ctok, lid := o.lid, info := info, val := val, pc := o.pc, unit := unit, ukind := ukind, cid := cidOf o.owner, kind := 2, cause := status, status := status, slot := slOf o.owner }

/-- A REWARD completes when every region it reached has finished its pass (R313). -/
def execRewardCompletion (op : Nat) (s : State) : Host.Outcome State Fault Refusal :=
  .next (match s.op? op with
    | some o => match o.kind with
      | .reward _ _ _ _ arm =>
        if arm ≠ [] ∨ s.regions.any (fun g => g.armed.contains op) then s
        else
          let s := if o.status = 0 then s else s.recordOp o o.status 0 (r64 o.done) 0 (cidOf o.owner)
          ((s.resolve o (tokenWord o.done o.status) []).dropOp op).pokeGroups
      | _ => s
    | none => s)

/-! ## Step groups (R314 to R318) -/

/-- A phaser becomes a step group (R314, R316). A PHSIG made before is no STEPADV of the step that begins (R315). -/
def State.designate (s : State) (id period : Nat) : State :=
  match s.phaser? id with
  | some p => if p.group.isSome then s else s.setPhaser id { p with group := some { period := period, nextTick := s.clk + period }, members := p.members.map (fun m => { m with sig := false }) }
  | none => s

/-- The word of the advance that ended a step (R318). -/
def Phaser.wordAfter (p : Phaser) (step : Nat) : Reg64 :=
  match p.group.bind (fun g => g.words.find? (fun w => w.1 == step + 1)) with
  | some w => w.2
  | none => r64 ((step + 1) % 2 ^ 32)

/-- STEPADV has signalled in a step and waits for a later one (R315, R316). -/
def stepWait (t : BitVec 6) (id step : Nat) (s : State) : Act :=
  match s.phaser? id with
  | none => .wait s .step
  | some p =>
    if step < p.phase then .done ((s.setPhaser id (p.modMember s.me.uid (fun m => { m with wp := step + 1 }))).putG t.toNat (p.wordAfter step))
    else .wait s .step

def execStepadv (f t : BitVec 6) (s : State) : Host.Outcome State Fault Refusal :=
  run (.stepadv f t) s (onMember f (fun id p m s =>
    if ¬ m.sigMode ∨ ¬ m.waitMode then .trap 1 (s.getG f.toNat)
    else match s.me.mid with
      | some n => stepWait t id n s
      | none => afterStores s (fun s =>
        let s := (s.designate id 0).modMe (fun x => { x with midway := some (x.pc, p.phase) })
        let p' := (s.phaser? id).getD p
        let strict := match p'.group with | some g => g.period == 0 | none => true
        stepWait t id p.phase (if strict then s.signal id p' s.me.uid else s))))

/-- A deadline group advances every period (R316). -/
def execStepTick (ph : Nat) (s : State) : Host.Outcome State Fault Refusal :=
  .next (match s.phaser? ph with
    | none => s
    | some p => match p.group with
      | some g => if g.period = 0 ∨ s.clk < g.nextTick then s else s.setPhaser ph ({ p with group := some { g with nextTick := g.nextTick + g.period } } : Phaser).next
      | none => s)

/-! ## Delay rings (R319, R320) -/

def Ring.maskAt (b n : Nat) : Nat := b + 64 * ((2 * n + 63) / 64)
def Ring.slotsAt (b n : Nat) : Nat := Ring.maskAt b n + 64 * ((n + 511) / 512)

/-- Bytes of a ring (R319). -/
def Ring.bytes (n d : Nat) : Nat := Ring.slotsAt 0 n + 2 * n * d
/-- The potentials, mask bits and slots of a ring are written +0, and nothing else (R320). -/
def Ring.wipe (m : Mem) (b n d : Nat) : Mem :=
  let a := Ring.maskAt b n
  let c := Ring.slotsAt b n
  let m := Mem.clear a (a + n / 8) (Mem.clear b (b + 2 * n) m)
  let m := if n % 8 = 0 then m else Mem.write m (a + n / 8) 1 (Mem.read m (a + n / 8) 1 / 2 ^ (n % 8) * 2 ^ (n % 8))
  Mem.clear c (c + 2 * n * d) m

def Ring.cell (r : Ring) (k n : Nat) : Nat := Ring.slotsAt r.base r.n + 2 * (k * r.n + n)

/-- A field of DRING out of range (R320). -/
def dringBad (cfg gw : Reg64) : Bool :=
  let n := bits cfg 0 16
  let d := bits cfg 16 8
  let per := bits gw 32 32
  if n = 0 then cfg != 0 || gw != 0
  else bits cfg 28 4 != 0 || bits gw 15 17 != 0 || decide (d = 0 ∨ 64 < d ∨ 4096 < n ∨ 16384 < n * d ∨ 13 ≤ bits cfg 24 4) || decide (1 ≤ per ∧ per < 256)

/-- The status of DRING (R320), in its register or the inbox at once. -/
def dringResult (t : BitVec 6) (st : Nat) (s : State) : State :=
  if t ≠ 0 then s.putG t.toNat (r64 st) else s.deliverMsg s.cur s.me.uid [completionWord 1 0x2C 4 st]

def execDring (f t : BitVec 6) (s : State) : Host.Outcome State Fault Refusal :=
  run (.dring f t) s (fun s =>
    let b := s.getG f.toNat
    let cfg := s.getG (f.toNat + 1)
    let gw := s.getG (f.toNat + 2)
    let n := bits cfg 0 16
    let d := bits cfg 16 8
    let id := bits gw 0 15
    let per := bits gw 32 32
    if dringBad cfg gw then .trapOn (inGrp f [1, 2]) 1 ((Instr.dring f t).word.zeroExtend 64)
    else if n = 0 then .done (dringResult t 0 (s.modCore (cidOf s.cur) (fun c => { c with ring := none })))
    else if b.toNat % 64 ≠ 0 then .trap 2 b
    else match s.inOwnCore b (Ring.bytes n d) with
      | none => .trap 3 b
      | some off => afterAcquire s .acquire (fun s =>
        if s.ownInFlight off (Ring.bytes n d) then .wait s .pending
        else match (if s.holds (s.pidOf s.cur) (id / 512) then s.phaser? id else none) with
          | none => .done (dringResult t 1 s)
          | some p =>
            if p.group.any (fun g => g.period != per) then .done (dringResult t 2 s)
            else
              let s := s.designate id per
              let s := ((s.rewritten off (2 * n)).rewritten (Ring.maskAt off n) ((n + 7) / 8)).rewritten (Ring.slotsAt off n) (2 * n * d)
              let s := ({ s with spm := Ring.wipe s.spm off n d } : State).wakeMonitors
              let r : Ring := { base := off, n := n, d := d, fade := bits cfg 24 4, theta := bits cfg 32 16, vreset := bits cfg 48 16, ph := id, lid := s.me.lid }
              .done (dringResult t 0 (s.modCore (cidOf s.cur) (fun c => { c with ring := some r })))))

/-- The phaser of a step group as a process may still use it: none once its cluster has gone to another one (R18). -/
def State.groupOf (s : State) (pid : BitVec 16) (id : Nat) : Option Phaser := if s.holds pid (id / 512) then s.phaser? id else none

/-- The step of a ring's group, for the process whose ring it is: 0 once its phaser is gone. -/
def State.ringStep (s : State) (pid : BitVec 16) (r : Ring) : Nat := match s.groupOf pid r.ph with | some p => (if p.group.isSome then p.phase else 0) | none => 0

/-! ## Events (R321) -/

/-- The strict groups a task belongs to, each with its step (R315). -/
def State.strictGroups (s : State) (uid : Nat) : List (Nat × Nat) :=
  s.clusters.flatMap (fun c => c.2.phasers.filterMap (fun p =>
    if p.2.group.any (fun g => g.period == 0) && (p.2.member? uid).isSome then some (c.1 * 512 + p.1, p.2.phase) else none))

def execEvsend (f : BitVec 6) (n : BitVec 1) (s : State) : Host.Outcome State Fault Refusal :=
  run (.evsend f n) s (fun s =>
    let a := s.getG f.toNat
    let b := s.getG (f.toNat + 1)
    let cid := bits a 0 14
    let d := bits b 16 6
    let w := (Instr.evsend f n).word.zeroExtend 64
    if bits a 14 2 ≠ 0 ∨ bits a 28 36 ≠ 0 then .trapOn (inGrp f [0]) 1 w
    else if bits b 22 42 ≠ 0 ∨ d = 0 then .trapOn (inGrp f [1]) 1 w
    else if ¬ s.holds (s.pidOf s.cur) (cid / 256) ∨ s.coresOut.contains cid ∨ s.clustersOut.contains (cid / 256) then .trap 3 a
    else
      let uid := s.me.uid
      .done (s.post (.event cid (bits a 16 12) (bits b 0 16) d (n == 1) (s.stepGroup uid) (s.stepOf uid) (s.strictGroups uid)) (fun q => { q with mute := true })))

/-- An event of a process is counted in its group (R318, R321). -/
def State.countEvent (s : State) (pid : BitVec 16) (group : Option Nat) (late : Bool) : State :=
  match group with
  | none => s
  | some id => match s.groupOf pid id with
    | some p => s.setPhaser id { p with group := p.group.map (fun g => if late then { g with late := g.late + 1 } else { g with discard := g.discard + 1 }) }
    | none => s

/-- A notice enters a core's event queue, or is dropped (R323). -/
def CoreState.notify (c : CoreState) (w : Reg64) : CoreState :=
  if c.notices.length < 64 then { c with notices := c.notices ++ [w] } else { c with noticeDrops := c.noticeDrops + 1 }

def noticeWord (slot neuron val : Nat) : Reg64 := r64 (2 ^ 62 + slot * 2 ^ 48 + neuron * 2 ^ 32 + val)

/-- The deposit of an event, or its discard (R321). A slot word with an error that is not corrected takes no deposit: the record, and the
event is discarded (R290, log 11). -/
def State.deposit (s : State) (pid : BitVec 16) (cid neuron val d : Nat) (ntf : Bool) (group : Option Nat) (u : Nat) : State :=
  let live := match (s.core cid).ring, group with
    | some r, some id => if r.ph = id ∧ ((s.groupOf pid id).bind (fun p => p.group)).isSome ∧ neuron < r.n ∧ d < r.d then some r else none
    | _, _ => none
  match live with
  | none => s.countEvent pid group false
  | some r =>
    let st := s.ringStep pid r
    let s := if u < st then s.countEvent pid group true else s
    let k := (st + d) % r.d
    let a := r.cell k neuron
    let x := exactSum false [fp16.decode (Mem.read s.spm a 2), fp16.decode val]
    if (s.eccDouble a 2).isSome then (s.spmRecord a).countEvent pid group false
    else
      let s := ((s.eccCorrect a 2).writeSpm a 2 (fp16.round .rne false 0 x.1).bits).wakeMonitors
      if ntf then s.modCore cid (fun c => c.notify (noticeWord k neuron val)) else s

/-- Deposits from one sender slot to one core keep their order (R321). In a cluster the sender's process holds no longer there is no ring of
its group (R18, R99): the event is discarded. -/
def execEventDeposit (op : Nat) (s : State) : Host.Outcome State Fault Refusal :=
  .next (match s.op? op with
    | some o => match o.kind with
      | .event cid n v d ntf g u _ =>
        if s.ops.any (fun p => p.owner == o.owner && decide (p.id < op) && (match p.kind with | .event c _ _ _ _ _ _ _ => c == cid | _ => false)) then s
        else ((if s.holds o.pid (cid / 256) then s.deposit o.pid cid n v d ntf g u else s.countEvent o.pid g false).dropOp op).pokeGroups
      | _ => s
    | none => s)

/-! ## NRN (R322) -/

/-- The neurons a to a + c − 1 in turn: potentials, and the flags and srs; or the first that is not finite under the watch. -/
def neuronsGo (m : Mem) (r : Ring) (k : Nat) (mode : Rnd) (watch : Bool) : Nat → Nat → Reg64 → Except Nat (List (Nat × Nat) × Flags × Reg64)
  | 0, _, q => .ok ([], {}, q)
  | c + 1, n, q =>
    let l := exactMul (fading r.fade) (fp16.decode (Mem.read m (r.base + 2 * n) 2))
    let x := exactSum (mode == .rdn) [l.1, fp16.decode (Mem.read m (r.cell k n) 2)]
    let y := fp16.round mode false q x.1
    if watch ∧ fp16.nonFinite y.bits then .error n
    else match neuronsGo m r k mode watch c (n + 1) y.srs with
      | .error e => .error e
      | .ok (t, f, q') => .ok ((n, y.bits) :: t, ((l.2.or x.2).or y.flags).or f, q')

/-- A neuron's potential, mask bit and slot after its update. -/
def neuronWrite (r : Ring) (k : Nat) (m : Mem) (e : Nat × Nat) : Mem :=
  let v := fp16.decode e.2
  let th := fp16.decode r.theta
  let fire := !v.isNan && !th.isNan && numLe th v
  let a := Ring.maskAt r.base r.n + e.1 / 8
  let b := Mem.read m a 1
  let bit := 2 ^ (e.1 % 8)
  let m := Mem.write m (r.base + 2 * e.1) 2 (if fire then r.vreset else e.2)
  let m := Mem.write m a 1 (if fire then b ||| bit else b - (b &&& bit))
  Mem.write m (r.cell k e.1) 2 0

def execNrn (f : BitVec 6) (s : State) : Host.Outcome State Fault Refusal :=
  run (.nrn f) s (fun s =>
    let w := (Instr.nrn f).word.zeroExtend 64
    let a := (s.getG f.toNat).toNat
    let c := (s.getG (f.toNat + 1)).toNat
    match (s.core (cidOf s.cur)).ring with
    | none => .trapOn [] 1 w
    | some r =>
      if r.n < a + c then .trap 1 w
      else if c = 0 then .done s
      else afterAcquire s .acquire (fun s =>
        if s.ownInFlight r.base (Ring.bytes r.n r.d) then .wait s .pending
        else withSpmEcc s [(r.base + 2 * a, 2 * c), (Ring.maskAt r.base r.n + a / 8, (a + c - 1) / 8 - a / 8 + 1), (r.cell (s.ringStep (s.pidOf s.cur) r % r.d) a, 2 * c)] (fun s =>
          let k := s.ringStep (s.pidOf s.cur) r % r.d
          let x := s.me
          match neuronsGo s.spm r k x.mode x.watch c a x.srs with
          | .error n => .trap 9 (r64 n)
          | .ok (l, fl, q) => .done ((({ s.rewritten (Ring.maskAt r.base r.n + a / 8) ((a + c - 1) / 8 - a / 8 + 1) with spm := l.foldl (neuronWrite r k) s.spm } : State).wakeMonitors).withFlags fl q))))

/-! ## WAITEV (R323) -/

/-- How many task slots of the core with a lower number wait for events. -/
def State.lowerWaits (s : State) (h : Nat) : Nat := (List.range (slOf h)).countP (fun i => let x := s.slot (hartOf (cidOf h) i); x.live && x.blocked.isSome && (x.waiting.map (fun w => w.1)) == some .event)

def stepWord (n : Nat) : Reg64 := r64 (2 ^ 63 + n % 2 ^ 32)

/-- The oldest notice leaves the queue of a hart's core for it, those before it being the lower waiting slots' (R323). -/
def State.takeNotice (s : State) (h : Nat) : Option (State × Reg64) :=
  let j := s.lowerWaits h
  ((s.core (cidOf h)).notices[j]?).map (fun w => (s.modCore (cidOf h) (fun c => { c with notices := c.notices.eraseIdx j }), w))

def execWaitev (t : BitVec 6) (s : State) : Host.Outcome State Fault Refusal :=
  run (.waitev t) s (fun s =>
    match s.takeNotice s.cur with
    | some (s, w) => .done (s.putG t.toNat w)
    | none =>
      let id := s.nextId
      let uid := s.me.uid
      let off := if t = 0 then none else some (s.me.gOff t.toNat)
      let s := s.post (.waitev (s.stepGroup uid) (s.stepOf uid)) (fun q => { q with mute := true, off := off })
      .wait (s.modMe (fun x => { x with blocked := some id })) .event)

/-- A slot that waits in WAITEV goes on with a notice, else with a step word (R323). -/
def execWaitevWake (cid sl : Nat) (s : State) : Host.Outcome State Fault Refusal :=
  let h := hartOf cid sl
  .next (if 4 ≤ sl then s else match (s.slot h).blocked.bind s.op? with
    | some o => match o.kind with
      | .waitev g st =>
        let put := fun (s : State) (w : Reg64) => (match o.off with | some off => s.modSlot h (fun x => x.arrive off w) | none => s).unblock o
        match s.takeNotice h with
        | some (s, w) => put s w
        | none => match g.bind (s.groupOf o.pid) with
          | some p => if st < p.phase then put s (stepWord p.phase) else s
          | none => s
      | _ => s
    | none => s)

end Sys2Proof.Machine
end

