-- ==== Sys2Proof/Machine/Queues.lean ====
section
/-! DEFINITION. Delta queues and plain queues (R166, R370 to R393), and the pipeline controller's view of them (R165, R392). -/

namespace Sys2Proof.Machine

/-! ## Consolidation (R382 to R384) -/

/-- Records of one group: the same round, key and value. -/
def Rec.same (a b : Rec) : Bool := a.round == b.round && a.key == b.key && a.vlo == b.vlo && a.vhi == b.vhi

/-- Every group becomes one record of the exact sum; a sum of 0 removes it, and one outside the i32 range leaves it unmerged and
is reported (R383, R384). -/
def consolidate (l : List Rec) : List Rec × Bool :=
  let heads := l.foldl (fun (acc : List Rec) r => if acc.any r.same then acc else acc ++ [r]) []
  heads.foldl (fun (acc : List Rec × Bool) h =>
    let grp := l.filter h.same
    let t := grp.foldl (fun (n : Int) r => n + asSigned 32 r.mult.toNat) 0
    if t = 0 then acc
    else if -(2 ^ 31) ≤ t ∧ t < 2 ^ 31 then (acc.1 ++ [{ h with mult := BitVec.ofInt 32 t }], acc.2)
    else (acc.1 ++ grp, true)) ([], false)

/-- The order of delivery within a round (R383). -/
def Rec.before (a b : Rec) : Bool :=
  a.key.ult b.key || (a.key == b.key && (a.vhi.ult b.vhi || (a.vhi == b.vhi && a.vlo.ult b.vlo)))

def insertRec (r : Rec) : List Rec → List Rec
  | [] => [r]
  | x :: l => if r.before x then r :: x :: l else x :: insertRec r l

def sortRecs (l : List Rec) : List Rec := l.foldl (fun acc r => insertRec r acc) []

/-! ## Queues (R378 to R386) -/

/-- Consolidation of every unreleased record, where it is on (R382); the chunks it frees go back, also where it halts the queue (R378). -/
def DQueue.blotAll (q : DQueue) : DQueue × Bool :=
  if q.blot then
    let r := consolidate (q.recs.filter (fun r => decide (q.front ≤ r.round.toNat)))
    (({ q with recs := q.recs.filter (fun r => decide (r.round.toNat < q.front)) ++ r.1 } : DQueue).giveBack, r.2)
  else (q.giveBack, false)

/-- The release of a round (R379, R382). -/
def DQueue.release (q : DQueue) (round : Nat) : DQueue × Bool :=
  if q.blot then
    let r := consolidate (q.recs.filter (fun r => r.round.toNat == round))
    (({ q with recs := q.recs.filter (fun r => r.round.toNat != round) ++ sortRecs r.1 } : DQueue).giveBack, r.2)
  else (q, false)

/-- Bytes of a cluster's buffer that queues, plain queues and arrangements hold (R377, R378). -/
def Cluster.bufferUsed (c : Cluster) : Nat :=
  c.dqs.foldl (fun n q => n + 32 * q.2.storage + 64 * q.2.arrCap) (c.pqs.foldl (fun n q => n + 32 * q.2.cap) 0)

/-- The elastic pool (R378); the cluster buffer is 4 MiB (R17). -/
def Cluster.pool (c : Cluster) : Nat := 2 ^ 22 - c.bufferUsed

/-- The status word of a halted queue (R373, R384). -/
def haltWord : Nat := 16 * 256 + 0x10

/-- The room a DQPUSH waits for at a delta queue (R380), with `lend` where the next chunk of the pool is this queue's (R378): the queue with
the record held, and the status word with whether the queue halts; no status where it must wait. -/
def DQueue.hold (q : DQueue) (pool : Nat) (lend : Bool) (r : Rec) : DQueue × Option (Nat × Bool) :=
  if q.recs.length < q.storage then ({ q with recs := q.recs ++ [r] }, some (0, false))
  else
    let b := q.blotAll
    let q' := b.1
    if b.2 then (q', some (haltWord, true))
    else if q'.recs.length < q'.storage then ({ q' with recs := q'.recs ++ [r] }, some (0, false))
    else if lend = true ∧ q'.chunks < 3 * q.cap / 64 ∧ 2048 ≤ pool + 2048 * (q.chunks - q'.chunks) then ({ q' with chunks := q'.chunks + 1, recs := q'.recs ++ [r] }, some (0, false))
    else (q', none)

/-- DQPUSH at a delta queue (R380). The halt and the round are judged once, as it comes; a record that waits is held later whatever has become
of its round (log 83). -/
def DQueue.push (q : DQueue) (pool : Nat) (lend : Bool) (waited : Bool) (r : Rec) : DQueue × Option (Nat × Bool) :=
  if q.halted then (q, some (haltWord, false))
  else if waited = false ∧ r.round.toNat < q.front then (q, some (3, false))
  else q.hold pool lend r

/-- The registers a delivered record fills (R370). -/
def Rec.words (r : Rec) : List Reg64 := [r.key, r.vlo, r.vhi, r64 (r.mult.toNat + r.round.toNat * 2 ^ 32)]

/-- A record or round end that a DQPOP of a task takes from a delta queue (R386): the registers and the status. -/
def DQueue.pop (q : DQueue) (uid : Nat) : Option (DQueue × List Reg64 × Nat) :=
  if q.front ≤ q.drained then none
  else match q.recs.find? (fun r => r.round.toNat == q.drained) with
    | some r => some (({ q with recs := q.recs.erase r, holders := q.holders ++ [(uid, q.drained)] } : DQueue).giveBack, r.words, 0)
    | none =>
      if q.holders.any (fun h => h.2 == q.drained) then none
      else
        let q' : DQueue := if q.consumers ≤ q.ends + 1 then { q with drained := q.drained + 1, ends := 0 } else { q with ends := q.ends + 1 }
        some (q', [0, 0, 0, r64 (q.drained * 2 ^ 32)], 1)

/-- The same for a plain queue (R166). -/
def PQueue.pop (q : PQueue) (uid : Nat) : Option (PQueue × List Reg64 × Nat) :=
  match q.items with
  | .record r :: l => some ({ q with items := l, holders := q.holders ++ [(uid, r.round.toNat)] }, r.words, 0)
  | .marker n :: l =>
    if q.holders.any (fun h => h.2 == n) then none
    else some ({ q with items := l, popped := q.popped + 1 }, [0, 0, 0, r64 (n * 2 ^ 32)], 1)
  | [] => none

/-- Records a plain queue holds. -/
def PQueue.count (q : PQueue) : Nat := (q.items.filter (fun i => match i with | .record _ => true | .marker _ => false)).length

/-- A queue halts (R384): the record of kind 3, and status 0x10 for every waiting DQ instruction on it. -/
def State.haltQueue (s : State) (hart cl h : Nat) : State :=
  match s.dq? cl h with
  | none => s
  | some q =>
    let x := s.slot hart
    let s := (s.setDq cl h { q with halted := true }).record cl { time := 0, seq := 0, tid := x.tid, ctok := x.ctok, lid := x.lid, info := 16, unit := cl, ukind := 12, cid := cidOf hart, kind := 3, cause := 0x10, status := 0x10, slot := slOf hart }
    s.ops.foldl (fun s o => match o.kind with | .dqpush hd _ | .dqpop hd _ => if o.cluster = cl ∧ hd = h then s.finish o haltWord else s | _ => s) s

/-- The input queue of a task's stage (R164). -/
def State.stageInput (s : State) (cl : Nat) (x : Slot) : Option Nat :=
  match x.stage with
  | none => none
  | some r => match Tab.get? (s.cluster cl).pipes r.pipe with
    | none => none
    | some p => (p.queues.find? (fun q => q.cons == r.stage)).map (fun q => q.handle)

/-- A DQPUSH that waited before operation `id` asked, at another queue of the cluster that is full and may borrow, has the next chunk
(R378). -/
def State.chunkClaimed (s : State) (cl h id : Nat) : Bool :=
  s.ops.any (fun p => p.cluster == cl && decide (p.id < id) && (match p.kind with
    | .dqpush hd _ => hd != h && (s.dq? cl hd).any (fun q => !q.halted && decide (q.storage ≤ q.recs.length) && decide (q.chunks < 3 * q.cap / 64))
    | _ => false))

/-- A DQPUSH performed for a hart under the number `id`, one that has waited or a new one: the status word, where it need not wait. -/
def State.pushAt (s : State) (hart cl h : Nat) (r : Rec) (id : Nat) (waited : Bool) : State × Option Nat :=
  match s.dq? cl h, s.pq? cl h with
  | some q, _ =>
    let p := q.push (s.cluster cl).pool (!s.chunkClaimed cl h id) waited r
    let s := s.setDq cl h p.1
    (if (p.2.map (fun x => x.2)).getD false then s.haltQueue hart cl h else s, p.2.map (fun x => x.1))
  | none, some q => if q.count < q.cap then (s.setPq cl h { q with items := q.items ++ [.record r] }, some 0) else (s, none)
  | none, none => (s, some 6)

/-- A storage error of the cluster buffer met by an operation on a queue (R290, R292): one of one bit is corrected and counts for the
delta-queue controller. Another is an engine error of the controller, here answered by true: it halts a delta queue, and of a plain queue the
operation alone returns status 0x10, with a record of kind 3 although nothing halts (R285; log 11, the model's choice). Neither is corrected or
replayed, so neither has a record of kind 4 or counts (R285, R292). -/
def State.bufferError (s : State) (hart cl h : Nat) : State × Bool :=
  match (if 64 ≤ cl then none else s.softErrors.findSome? (fun e => match e with | .buffer k d => if k = cl then some d else none | _ => none)) with
  | none => (s, false)
  | some (d : Bool) =>
    let s : State := { s with softErrors := s.softErrors.erase (.buffer cl d) }
    if ¬ d then ((s.record cl { time := 0, seq := 0, unit := cl, ukind := 12, kind := 4, cause := 8 }).noteEngine 18976 cl, false)
    else if (s.dq? cl h).isSome then (s.haltQueue hart cl h, true)
    else
      let x := s.slot hart
      (s.record cl { time := 0, seq := 0, tid := x.tid, ctok := x.ctok, lid := x.lid, unit := cl, ukind := 12, cid := cidOf hart, kind := 3, cause := 0x10, status := 0x10, slot := slOf hart }, true)

/-- A DQPOP performed for a hart, where something is deliverable or the queue has halted: the record in its group g[f] on, and the
status word. -/
def State.popAt (s : State) (hart cl h f : Nat) : Option (State × Nat) :=
  let uid := (s.slot hart).uid
  let give := fun (s : State) (w : List Reg64) (st : Nat) =>
    let put := fun (x : Slot) => (((x.putG f (w.getD 0 0)).putG (f + 1) (w.getD 1 0)).putG (f + 2) (w.getD 2 0)).putG (f + 3) (w.getD 3 0)
    let n := if st = 0 ∧ s.stageInput cl (s.slot hart) = some h then 1 else 0
    (s.modSlot hart (fun x => { put x with stage := x.stage.map (fun r => { r with popped := r.popped + n }) }), st)
  match s.dq? cl h, s.pq? cl h with
  | some q, _ => if q.halted then some (s, haltWord) else (q.pop uid).map (fun r => give (s.setDq cl h r.1) r.2.1 r.2.2)
  | none, some q => (q.pop uid).map (fun r => give (s.setPq cl h r.1) r.2.1 r.2.2)
  | none, none => some (s, 6)

/-! ## Waiting DQ instructions, served in arrival order (R380, R386) -/

/-- The first operation waiting to push into, or pop from, a queue. -/
def State.firstWait (s : State) (pop : Bool) (cl h : Nat) : Option Op :=
  s.ops.find? (fun o => o.cluster == cl && (match o.kind with | .dqpush hd _ => !pop && hd == h | .dqpop hd _ => pop && hd == h | _ => false))

/-- One waiting operation looks at its queue again: the state, and whether it need wait no longer. One whose queue it has halted has ended
with the others there (R384). -/
def State.serveWait (s : State) (o : Op) : State × Bool :=
  match o.kind with
  | .dqpush h r =>
    let p := s.pushAt o.owner o.cluster h r o.id true
    match p.2 with
    | some st => (if (p.1.op? o.id).isSome then p.1.finish o st else p.1, true)
    | none => (p.1, false)
  | .dqpop h f => match s.popAt o.owner o.cluster h f with
    | some p => (p.1.finish o p.2, true)
    | none => (s, false)
  | _ => (s, false)

/-- The first waiting operation of a queue looks at it again. -/
def State.serveFirst (s : State) (pop : Bool) (cl h : Nat) : State × Bool :=
  match s.firstWait pop cl h with
  | some o => s.serveWait o
  | none => (s, false)

/-- Waiting operations of a queue served until none can go on. -/
def State.serveQueue : Nat → State → Nat → Nat → State
  | 0, s, _, _ => s
  | n + 1, s, cl, h =>
    let a := s.serveFirst false cl h
    if a.2 then State.serveQueue n a.1 cl h
    else
      let b := a.1.serveFirst true cl h
      if b.2 then State.serveQueue n b.1 cl h else b.1

/-- The waiting instructions of a queue are served, and the pipelines looked at. -/
def State.afterQueue (s : State) (cl h : Nat) : State := (s.serveQueue (s.ops.length + 1) cl h).pokePipes cl

/-! ## The DQ instructions -/

/-- The checks of R372 on a handle, and what it names: bits 6:0. -/
def State.dqHandle (s : State) (r : BitVec 6) (plain arr : Bool) : Except (Nat × Reg64) Nat :=
  let v := bits (s.getG r.toNat) 0 16
  if 128 ≤ v ∨ ¬ s.handleOk v ∨ (64 ≤ v ∧ ¬ plain) then .error (1, r64 v)
  else if arr && (match s.dq? (clusterOf s.cur) v with | some q => q.arrCap == 0 | none => true) then .error (1, r64 v)
  else .ok v

def onQueue (r : BitVec 6) (plain arr : Bool) (k : Nat → State → Act) (s : State) : Act :=
  match s.dqHandle r plain arr with
  | .error t => .trapOn [gsn r] t.1 t.2
  | .ok h => k h s

/-- A status word goes to g[t], or, nonzero with t = 0, to the inbox (R373). -/
def State.dqStatus (s : State) (t : BitVec 6) (sel v : Nat) : State :=
  if t ≠ 0 then s.putG t.toNat (r64 v)
  else if v % 256 = 0 then s
  else s.deliverMsg s.cur s.me.uid [completionWord 1 0x2D sel v]

/-- A range lies wholly inside the issuing cluster's scratchpads (R163, R377, R391). -/
def State.inScratchpads (s : State) (a : Reg64) (n : Nat) : Bool :=
  n == 0 || (match s.address a with
    | some (off, none) =>
      onChip off && clusterOfAddr off == clusterOf s.cur && clusterOfAddr (off + n - 1) == clusterOf s.cur && s.holds (s.pidOf s.cur) (clusterOf s.cur)
    | _ => false)

/-- The lowest number below n that a table does not use. -/
def freeNumber {α : Type} (t : Tab α) (n : Nat) : Option Nat := (List.range n).find? (fun i => (Tab.get? t i).isNone)

/-- What DQDECL makes of a block (R375, R377): the handle, or the error code. -/
def State.declare (s : State) (w0 : Reg64) (rest : Bool) : State × Except Nat Nat :=
  let cl := clusterOf s.cur
  let cap := bits w0 0 16 + 1
  let arr := bits w0 32 32
  if rest ∨ bits w0 29 3 ≠ 0 ∨ 65536 < arr then (s, .error 1)
  else if (s.cluster cl).pool < 32 * cap + 64 * arr then (s, .error 2)
  else match freeNumber (s.cluster cl).dqs 64 with
    | none => (s, .error 3)
    | some n =>
      (s.setDq cl n { lid := s.me.lid, pid := s.pidOf s.cur, cap := cap, consumers := bits w0 22 6 + 1, blot := bits w0 28 1 == 1, arrCap := arr, closes := List.replicate (bits w0 16 6 + 1) 0 }, .ok n)

def execDqdecl (f t : BitVec 6) (s : State) : Host.Outcome State Fault Refusal :=
  run (.dqdecl f t) s (fun s =>
    let a := s.getG f.toNat
    if a.toNat % 64 ≠ 0 then .trap 2 a
    else if ¬ s.inScratchpads a 64 then .trap 3 a
    else afterAcquire s .queue (fun s =>
      if s.ownBusy (offset a) 64 then .wait s .pending
      else withSpmEcc s [(offset a, 64)] (fun s =>
        let m := s.view s.cur
        let r := s.declare (r64 (Mem.read m (offset a) 8)) (Mem.read m (offset a + 8) 56 != 0)
        let s := r.1
        .done (if t ≠ 0 then s.putG t.toNat (match r.2 with | .ok n => r64 n | .error e => r64 (2 ^ 63 + e))
          else s.deliverMsg s.cur s.me.uid [completionWord 1 0x2D 0 (match r.2 with | .ok n => n * 256 | .error e => e)]))))

/-- The record of a group (R370). -/
def State.recAt (s : State) (f : BitVec 6) : Rec :=
  let w := s.getG (f.toNat + 3)
  ⟨s.getG f.toNat, s.getG (f.toNat + 1), s.getG (f.toNat + 2), BitVec.ofNat 32 (bits w 0 32), BitVec.ofNat 32 (bits w 32 32)⟩

/-- A DQ instruction that must wait: it waits behind those present (R374, R386). -/
def queueUp (t : BitVec 6) (sel : Nat) (k : OpKind) (s : State) : Act :=
  let id := s.nextId
  let off := if t = 0 then none else some (s.me.gOff t.toNat)
  let s := s.post k (fun q => { q with off := off, major := 0x2D, sel := sel })
  .wait (s.modMe (fun x => { x with blocked := some id })) .queue

def execDqpush (f t h : BitVec 6) (s : State) : Host.Outcome State Fault Refusal :=
  run (.dqpush f t h) s (onQueue h true false (fun n s =>
    let cl := clusterOf s.cur
    let e := s.bufferError s.cur cl n
    let s := e.1.afterQueue cl n
    let r := s.recAt f
    -- behind a waiting DQPUSH only the halt and the round are judged at once (R380)
    let judged := match s.dq? cl n with | some q => q.halted || decide (r.round.toNat < q.front) | none => false
    let p := if e.2 then (s, some haltWord) else if (s.firstWait false cl n).isSome ∧ judged = false then (s, none) else s.pushAt s.cur cl n r s.nextId false
    match p.2 with
    | some st => .done ((p.1.afterQueue cl n).dqStatus t 1 st)
    | none => queueUp t 1 (.dqpush n r) p.1))

def execDqpop (f t h : BitVec 6) (s : State) : Host.Outcome State Fault Refusal :=
  run (.dqpop f t h) s (onQueue h true false (fun n s =>
    let cl := clusterOf s.cur
    let e := s.bufferError s.cur cl n
    let s := (e.1.unhold cl n s.me.uid).afterQueue cl n
    let inp := s.stageInput cl s.me == some n
    let halted := match s.dq? cl n with | some q => q.halted | none => false
    let full : Bool := match s.me.stage with | some r => inp && decide (64 ≤ r.popped) && !halted | none => false
    match (if e.2 then some (s, haltWord) else if full || (s.firstWait true cl n).isSome then none else s.popAt s.cur cl n f.toNat) with
    | some (s, st) => .done ((s.afterQueue cl n).dqStatus t 2 st)
    | none => if inp then .done (s.dqStatus t 2 2) else queueUp t 2 (.dqpop n f.toNat) s))

def execDqcons (t h : BitVec 6) (s : State) : Host.Outcome State Fault Refusal :=
  run (.dqcons t h) s (onQueue h false false (fun n s =>
    let cl := clusterOf s.cur
    let s := (s.bufferError s.cur cl n).1
    match s.dq? cl n with
    | none => .trap 1 (r64 n)
    | some q =>
      if q.halted then .done (s.dqStatus t 3 haltWord)
      else
        let b := q.blotAll
        let s := s.setDq cl n b.1
        if b.2 then .done ((s.haltQueue s.cur cl n).dqStatus t 3 haltWord)
        else .done ((s.afterQueue cl n).dqStatus t 3 (b.1.recs.length * 256))))

/-- DQCLOSE at a queue (R381): the status word. -/
def State.closeAt (s : State) (cl h : Nat) (p r : Nat) : State × Nat :=
  match s.dq? cl h, s.pq? cl h with
  | some q, _ =>
    if q.halted then (s, haltWord)
    else match q.closes[p]? with
      | none => (s, 5)
      | some c =>
        if r ≠ c then (s, 4)
        else
          let q' : DQueue := { q with closes := q.closes.set p ((c + 1) % 2 ^ 32) }
          if q'.front ≤ q.front then (s.setDq cl h q', 0)
          else
            let b := q'.release q.front
            let s := s.setDq cl h b.1
            if b.2 then (s.haltQueue s.cur cl h, haltWord) else (s, 0)
  | none, some q =>
    if p ≠ 0 then (s, 5) else if r ≠ q.close then (s, 4)
    else (s.setPq cl h { q with items := q.items ++ [.marker r], close := (q.close + 1) % 2 ^ 32 }, 0)
  | none, none => (s, 6)

def execDqclose (f t h : BitVec 6) (s : State) : Host.Outcome State Fault Refusal :=
  run (.dqclose f t h) s (onQueue h true false (fun n s => afterStores s (fun s =>
    let cl := clusterOf s.cur
    let e := s.bufferError s.cur cl n
    let s := e.1.afterQueue cl n
    let r := if e.2 then (s, haltWord) else s.closeAt cl n (s.getG f.toNat).toNat (bits (s.getG (f.toNat + 1)) 0 32)
    .done ((r.1.afterQueue cl n).dqStatus t 7 r.2))))

/-! ## Arrangements (R388 to R391)

An arrangement lies in the cluster buffer: an error of two bits met there halts its queue, and the instruction has no effect but its status word
(R290, R373, log 11). -/

def ArrEntry.before (a b : ArrEntry) : Bool := a.key.ult b.key || (a.key == b.key && a.val.ult b.val)

def insertEntry (e : ArrEntry) : List ArrEntry → List ArrEntry
  | [] => [e]
  | x :: l => if e.before x then e :: x :: l else x :: insertEntry e l

/-- The value a record's halves form (R370). -/
def valueOf (vhi vlo : Reg64) : BitVec 128 := vhi ++ vlo

def DQueue.multOf (q : DQueue) (k : Reg64) (v : BitVec 128) : Reg64 :=
  match q.arr.find? (fun e => e.key == k && e.val == v) with | some e => e.mult | none => 0

def DQueue.putMult (q : DQueue) (k : Reg64) (v : BitVec 128) (m : Reg64) : DQueue :=
  let l := q.arr.filter (fun e => !(e.key == k && e.val == v))
  { q with arr := if m = 0 then l else insertEntry ⟨k, v, m⟩ l }

def execDqarr (f t h : BitVec 6) (s : State) : Host.Outcome State Fault Refusal :=
  run (.dqarr f t h) s (onQueue h false true (fun n s =>
    let cl := clusterOf s.cur
    let b := s.bufferError s.cur cl n
    let s := b.1
    if b.2 then .done (s.dqStatus t 4 haltWord) else
    match s.dq? cl n with
    | none => .trap 1 (r64 n)
    | some q =>
      let r := s.recAt f
      let v := valueOf r.vhi r.vlo
      let old := q.multOf r.key v
      let new := old + r.mult.signExtend 64
      if old = 0 ∧ new ≠ 0 ∧ q.arrCap ≤ q.arr.length then .trap 0xE (r64 n)
      else
        let s := s.setDq cl n (q.putMult r.key v new)
        .done ((if t ≠ 0 then s.putG t.toNat old else s).putG (f.toNat + 3) new)))

def execDqlook (f h : BitVec 6) (s : State) : Host.Outcome State Fault Refusal :=
  run (.dqlook f h) s (onQueue h false true (fun n s =>
    let b := s.bufferError s.cur (clusterOf s.cur) n
    let s := b.1
    if b.2 then .done (s.dqStatus 0 5 haltWord) else
    match s.dq? (clusterOf s.cur) n with
    | none => .trap 1 (r64 n)
    | some q =>
      let c := (s.getG (f.toNat + 1)).toNat
      match (q.arr.filter (fun e => e.key == s.getG f.toNat))[c]? with
      | some e => .done ((((s.putG (f.toNat + 1) (r64 (c + 1))).putG (f.toNat + 2) (e.val.extractLsb' 0 64)).putG (f.toNat + 3) (e.val.extractLsb' 64 64)).putG (f.toNat + 4) e.mult)
      | none => .done ((((s.putG (f.toNat + 1) (r64 (2 ^ 64 - 1))).putG (f.toNat + 2) 0).putG (f.toNat + 3) 0).putG (f.toNat + 4) 0)))

/-- One output entry as eight words (R391). -/
def joinEntry (b : Rec) (e : ArrEntry) : List Reg64 :=
  [b.key, b.vlo, b.vhi, e.val.extractLsb' 0 64, e.val.extractLsb' 64 64, b.mult.signExtend 64 * e.mult, b.round.zeroExtend 64, 0]

/-- A delta record in memory (R370). -/
def recIn (m : Mem) (a : Nat) : Rec :=
  ⟨r64 (Mem.read m a 8), r64 (Mem.read m (a + 8) 8), r64 (Mem.read m (a + 16) 8), BitVec.ofNat 32 (Mem.read m (a + 24) 4), BitVec.ofNat 32 (Mem.read m (a + 28) 4)⟩

/-- Words laid out as the element writes of a store. -/
def wordEls (a : Nat) : List Reg64 → List (Nat × Nat × Nat)
  | [] => []
  | w :: l => (a, 8, w.toNat) :: wordEls (a + 8) l

/-- The join from batch record i on with e entries written (R391), in a memory where each entry is written before the next record is
read; `prev` is the key of the record before. The element writes, and i, e and the status. -/
def joinGo (q : DQueue) (ba oa c : Nat) : Nat → Nat → Nat → Option Reg64 → Mem → List (Nat × Nat × Nat) → List (Nat × Nat × Nat) × Nat × Nat × Nat
  | 0, i, e, _, _, out => (out, i, e, 0)
  | k + 1, i, e, prev, m, out =>
    let b := recIn m (ba + 32 * i)
    if prev.any (fun p => b.key.ult p) then (out, i, e, 2)
    else if b.mult = 0 then joinGo q ba oa c k (i + 1) e (some b.key) m out
    else
      let l := q.arr.filter (fun x => x.key == b.key)
      if c < e + l.length then (out, i, e, 1)
      else
        let els := wordEls (oa + 64 * e) (l.map (joinEntry b)).flatten
        joinGo q ba oa c k (i + 1) (e + l.length) (some b.key) (els.foldl (fun m w => Mem.write m w.1 w.2.1 w.2.2) m) (out ++ els)

def execDqjoin (f t h : BitVec 6) (s : State) : Host.Outcome State Fault Refusal :=
  run (.dqjoin f t h) s (onQueue h false true (fun n s =>
    match s.dq? (clusterOf s.cur) n with
    | none => .trap 1 (r64 n)
    | some q =>
      let ba := s.getG f.toNat
      let cnt := s.getG (f.toNat + 1)
      let oa := s.getG (f.toNat + 2)
      let cap := s.getG (f.toNat + 3)
      let at' := fun (k : Nat) => (⟨.g (f.toNat + k), false, false⟩ : Opd)
      if 65536 < cnt.toNat then .trapOn [gsn h, at' 1] 1 cnt
      else if 65536 < cap.toNat then .trapOn [gsn h, at' 1, at' 3] 1 cap
      else if ba.toNat % 32 ≠ 0 then .trapOn [gsn h, at' 1, at' 3, at' 0] 2 ba
      else if oa.toNat % 64 ≠ 0 then .trap 2 oa
      else if ¬ s.inScratchpads ba (32 * cnt.toNat) then .trap 3 ba
      else if ¬ s.inScratchpads oa (64 * cap.toNat) then .trap 3 oa
      else afterAcquire s .queue (fun s =>
        if s.ownBusy (offset ba) (32 * cnt.toNat) then .wait s .pending
        else withSpmEcc s [(offset ba, 32 * cnt.toNat)] (fun s =>
          let b := s.bufferError s.cur (clusterOf s.cur) n
          let s := b.1
          if b.2 then .done (s.dqStatus t 6 haltWord) else
          let r := joinGo q (offset ba) (offset oa) cap.toNat cnt.toNat 0 0 none (s.view s.cur) []
          let s := if r.1 = [] then s else s.storeEls r.1
          .done (s.putG t.toNat (r64 (r.2.2.2 * 2 ^ 62 + r.2.1 * 2 ^ 32 + r.2.2.1)))))))

/-! ## The frontier (R393) -/

/-- The frontier word of a handle; none where it names nothing. -/
def State.frontier (s : State) (v : Nat) : Option Reg64 :=
  let cl := clusterOf s.cur
  let word := fun (d f : Nat) => r64 (d % 2 ^ 32 * 2 ^ 32 + f % 2 ^ 32)
  if 2 ^ 15 ≤ v then
    if v / 16 % 2 ^ 11 ≠ 0 then none
    else match Tab.get? (s.cluster cl).pipes (v % 16) with
      | some p => if p.pid = s.pidOf s.cur then some (word p.rounds p.rounds) else none
      | none => none
  else if 128 ≤ v ∨ ¬ s.handleOk v then none
  else match s.dq? cl v, s.pq? cl v with
    | some q, _ => some (word q.drained q.front)
    | none, some q => some (word q.popped q.close)
    | none, none => none

def execDqfront (t h : BitVec 6) (s : State) : Host.Outcome State Fault Refusal :=
  run (.dqfront t h) s (fun s =>
    let v := bits (s.getG h.toNat) 0 16
    match s.frontier v with
    | some w => .done (s.putG t.toNat w)
    | none => .trap 1 (r64 v))

/-! ## Service of the waiting instructions -/

/-- The operation is served if it is the first of its kind waiting at its queue (R380, R386). -/
def serveEvent (pop : Bool) (op : Nat) (s : State) : State :=
  match s.op? op with
  | none => s
  | some o =>
    let h := match o.kind with | .dqpush h _ => if pop then none else some h | .dqpop h _ => if pop then some h else none | _ => none
    match h with
    | none => s
    | some h =>
      if (s.firstWait pop o.cluster h).map (fun p => p.id) = some op then
        let p := s.serveWait o
        if p.2 then p.1.pokePipes o.cluster else p.1
      else s

def execWaitingDqpopService (op : Nat) (s : State) : Host.Outcome State Fault Refusal := .next (serveEvent true op s)
def execWaitingDqpushService (op : Nat) (s : State) : Host.Outcome State Fault Refusal := .next (serveEvent false op s)

end Sys2Proof.Machine
end

