-- ==== Sys2Proof/Machine/System.lean ====
section
/-! DEFINITION. System instructions and registers (R27 to R30, R170 to R178), services of the control plane (R173), status traps
(R281) and YIELD (R107). -/

namespace Sys2Proof.Machine

/-! ## System registers -/

/-- A mask of n bits with the bits of units out of service clear (R26). -/
def serviceMask (n : Nat) (out : Nat → Bool) : Reg64 :=
  (List.range n).foldl (fun (m : Reg64) i => if out i then m else m ||| r64 (2 ^ i)) 0

/-- A die is in service while one of its clusters is: no rule says when a die leaves (log 79, the model's choice). -/
def State.dieOut (s : State) (d : Nat) : Bool := (List.range 16).all (fun i => s.clustersOut.contains (16 * d + i))

/-- The capability registers as cluster k reads them (R27 to R29). The bits of the panels and cores of a cluster that has left stay set, since
R293 clears the cluster's bit alone (log 79, the model's choice). -/
def State.cap (s : State) (k n : Nat) : Option Reg64 :=
  if n = 0x100 then some 0x504B0A0900010000
  else if n = 0x101 then some (serviceMask 4 s.dieOut)
  else if n = 0x102 then some (serviceMask 64 (fun c => s.clustersOut.contains c))
  else if n = 0x103 then some (serviceMask 32 (fun p => s.panelsOut.contains (32 * k + p)))
  else if 0x104 ≤ n ∧ n ≤ 0x107 then some (serviceMask 64 (fun b => s.coresOut.contains (256 * k + 64 * (n - 0x104) + b)))
  else if n = 0x108 then some (serviceMask 8 (fun t => s.stacksOut.contains t))
  else if 0x109 ≤ n ∧ n ≤ 0x10C then some (serviceMask 64 (fun b => s.nibsOut.contains (64 * (n - 0x109) + b)))
  else if n = 0x10D then some 0x120
  else if n = 0x10E then some 0x40
  else if n = 0x10F then some 0x04B00708
  else if n = 0x110 then some (s.ports.zeroExtend 64)
  else if n = 0x111 then some (r64 (s.domSize.toNat * 256 + s.domIndex.toNat))
  else none

/-- What SYSR reads (R177); none for an unlisted number. A control core, which has no global core id and stands in no cluster and no panel,
reads cid as 16435 + n/5 of its hart's place n among the control cores' numbers, the bits of "the reader's cluster" as all in service, and
the gate.idle of a panel of its own; in a routine tid and ctok read 0 and lid its caller's launch (log 75, the model's choice). -/
def State.sysRead (s : State) (n : Nat) : Option Reg64 :=
  let x := s.me
  if n = 0 then some x.xstat
  else if n = 1 then some x.fcr
  else if n = 2 then some x.srs
  else if n = 3 then some (x.tid.zeroExtend 64)
  else if n = 4 then some (x.lid.zeroExtend 64)
  else if n = 5 then some (r64 (cidOf s.cur))
  else if n = 6 then some (r64 (if isCore s.cur then slOf s.cur else 0))
  else if n = 8 then some (r64 x.grant)
  else if n = 0x10 then some (r64 (s.stepOf x.uid))
  else if n = 0x20 then some x.xvec
  else if n = 0x21 then some x.xcause
  else if n = 0x22 then some x.xpc
  else if n = 0x23 then some x.xval
  else if n = 0x30 then some (r64 (s.panel (panelOf s.cur)).gateIdle)
  else if n = 0x31 then some (r64 x.rcTimeout)
  else if n = 0x200 then some (x.ctok.zeroExtend 64)
  else if n = 0x300 then some 0
  else s.cap (clusterOf s.cur) n

def execSysr (d : BitVec 6) (n : BitVec 12) (s : State) : Host.Outcome State Fault Refusal :=
  run (.sysr d n) s (fun s => match s.sysRead n.toNat with | some v => .done (s.putG d.toNat v) | none => .trap 1 (n.zeroExtend 64))

/-- The reserved bits of xstat (R178). -/
def xstatReserved (v : Reg64) : Bool := bits v 43 8 != 0 || bits v 8 24 != 0 || bits v 2 4 != 0

/-- What SYSW does with a value (R177): the word's own xval where a value is reserved, the number where the register is not
written. A SYSW that sets xstat.rpt starts no frame; an ERET takes it up (log 86, the model's choice). -/
def sysWrite (d : BitVec 6) (n : BitVec 12) (v : Reg64) (s : State) : Act :=
  let x := s.me
  let w := (Instr.sysw d n).word.zeroExtend 64
  let k := n.toNat
  let put := fun (f : Slot → Slot) => Act.done (s.modMe f)
  if k = 0 then
    if xstatReserved v then .trap 1 w
    else if bits v 0 2 ≠ x.priv then .trap 5 (n.zeroExtend 64)
    else put (fun x => { x with xstat := v })
  else if k = 1 then (if fcrOk v then put (fun x => { x with fcr := v }) else .trap 1 w)
  else if k = 2 then put (fun x => { x with srs := v })
  else if k = 0x20 then (if bits v 0 2 ≠ 0 then .trap 2 v else put (fun x => { x with xvec := v }))
  else if k = 0x21 then put (fun x => { x with xcause := v })
  else if k = 0x22 then put (fun x => { x with xpc := v })
  else if k = 0x23 then put (fun x => { x with xval := v })
  else if k = 0x30 then
    if v.toNat = 0 ∨ (64 ≤ v.toNat ∧ v.toNat ≤ 1048575) then .done (s.modPanel (panelOf s.cur) (fun p => { p with gateIdle := v.toNat })) else .trap 1 w
  else if k = 0x31 then (if 1 ≤ v.toNat ∧ v.toNat ≤ 1000000 then put (fun x => { x with rcTimeout := v.toNat }) else .trap 1 w)
  else if k = 0x300 then
    if bits v 2 14 ≠ 0 ∨ bits v 0 2 = 3 then .trap 1 w
    else .wait (s.txinvWrite s.cur (bits v 0 2) (BitVec.ofNat 16 (bits v 48 16)) (bits v 16 32)) .binding
  else .trap 1 (n.zeroExtend 64)

def execSysw (d : BitVec 6) (n : BitVec 12) (s : State) : Host.Outcome State Fault Refusal :=
  run (.sysw d n) s (fun s => sysWrite d n (s.getG d.toNat) s)

/-! ## TRAP, ERET, NOP, BRK, CANCK, HALT, YIELD -/

/-- TRAP (R173): a service record with g1 to g8, its status pending in d; a code from 0x800 up traps, and in a routine any code
does (R334). -/
def execTrap (d : BitVec 6) (c : BitVec 12) (s : State) : Host.Outcome State Fault Refusal :=
  run (.trap d c) s (fun s =>
    if s.me.routine.isSome ∨ 0x800 ≤ c.toNat then .trap 0xD (c.zeroExtend 64)
    else .done (s.postTo d.toNat (.service c.toNat ((List.range 8).map (fun i => s.getG (i + 1)))) (fun o => { o with mute := true })))

/-- ERET's check of the RPT fields against their frame (R178). -/
def State.frameOk (s : State) (h : Nat) : Bool :=
  let x := s.slot h
  match s.wordAt h (x.xpc - r64 (4 * (x.rptI + 1))) with
  | none => false
  | some w => sel 26 6 w == 0x10 && decide (x.rptI < (Rpt.ofWord w).len) && decide (x.rptJ < (Rpt.ofWord w).reps)

def execEret (s : State) : Host.Outcome State Fault Refusal :=
  run .eret s (fun s =>
    let x := s.me
    let w := Instr.eret.word.zeroExtend 64
    if ¬ x.tr then .trap 1 w
    else if x.xcause = 0xA then .retire s
    else
      let s' := s.modMe Slot.returnTrap
      if ¬ x.rptBit then .jump s' x.xpc
      else if ¬ s.frameOk s.cur then .trap 1 w
      else
        let at0 := x.xpc - r64 (4 * (x.rptI + 1))
        match s'.capture s.cur at0 ((s.wordAt s.cur at0).getD 0) with
        | none => .jump s' x.xpc
        | some t => s'.trapActAt t.1 t.2.1 t.2.2 0)

def execNop (s : State) : Host.Outcome State Fault Refusal := run .nop s (fun s => .done s)
def execBrk (c : BitVec 12) (s : State) : Host.Outcome State Fault Refusal := run (.brk c) s (fun _ => .trap 0xC (c.zeroExtend 64))

/-- CANCK (R175). -/
def execCanck (s : State) : Host.Outcome State Fault Refusal :=
  run .canck s (fun s => if s.taskDead s.me then .trap 0xA (s.me.ctok.zeroExtend 64) else .done s)

/-- HALT stops issue on a control core (R176); elsewhere it has trapped at issue. -/
def execHalt (s : State) : Host.Outcome State Fault Refusal := run .halt s (fun s => .done (s.modMe (fun x => { x with halted := true })))

def execControlCoreRestart (n : Nat) (s : State) : Host.Outcome State Fault Refusal :=
  .next (if n < 16 then s.modSlot (ctlHart n) (fun x => { x with halted := false }) else s)

/-- YIELD: the slot is not ready for the next 4 clk (R107). -/
def execYield (s : State) : Host.Outcome State Fault Refusal := run .yield s (fun s => .done (s.modMe (fun x => { x with notBefore := s.clk + 5 })))

/-- The slot is ready again 4 clk after its YIELD (R107). -/
def execYieldEnd (cid sl : Nat) (s : State) : Host.Outcome State Fault Refusal :=
  .next (if (s.slot (hartOf cid sl)).notBefore ≤ s.clk ∧ sl < 5 ∧ (s.slot (hartOf cid sl)).notBefore ≠ 0 then s.modSlot (hartOf cid sl) (fun x => { x with notBefore := 0 }) else s)

def execExit (s : State) : Host.Outcome State Fault Refusal := run .exit s (fun s => .retire s)

/-! ## What comes before a hart's next instruction (R289, R290, R364) -/

/-- The word at a hart's pc is filled again from its code page (R290): the state, and whether the granule read had an error too. -/
def State.refill (s : State) (h : Nat) : State × Bool :=
  let pc := (s.slot h).pc
  let c := s.codeOf h
  match s.codeAt c.1 c.2 pc with
  | none => (s, false)
  | some a =>
    match (s.cluster c.1).frames.find? (fun f => (c.1 * 16 + f.n) * 65536 == a / 65536 * 65536) with
    | none => (s, false)
    | some f =>
      let p := f.ppn * 65536 + a % 65536
      let s := s.foldAt p 4
      let r := s.granulesRead p 4
      (if r.2 then r.1 else { r.1 with imem := Mem.write r.1.imem a 4 (Mem.read r.1.ext p 4) }, r.2)

/-- A storage error in the word a hart fetches, with its record and count (R285, R290, R292): one of one bit is corrected in place; of one of
two the word is filled again, and a second failure ends the task. The second part says whether the fetch goes on. -/
def State.fetchError (s : State) (h : Nat) : State × Bool :=
  match s.softErrors.findSome? (fun e => match e with | .fetch k d tw => if k = h then some (d, tw) else none | _ => none) with
  | none => (s, true)
  | some (d, tw) =>
    let x := s.slot h
    let s : State := { s with softErrors := s.softErrors.erase (.fetch h d tw) }
    let rec4 := x.recordOf h 4 8 x.pc x.pc
    let s := (if isCore h then s.record (clusterOf h) { rec4 with ukind := 13 } else s.recordMgmt rec4).countHart h
    if d = false then (s, true)
    else
      let r := s.refill h
      let s := r.1
      if (tw || r.2) = false then (s, true)
      else if isTask h then ((s.record (clusterOf h) (x.recordOf h 1 8 x.pc x.pc)).modSlot h (Slot.beginRetire s.clk), false)
      else (s.deliver h 8 x.pc x.pc 0, false)

/-- The residues of what an instruction of the hart reads (R289), where neither an earlier trap condition of R83 nor a wait keeps it from
reading: the second part says whether the instruction is executed. -/
def State.readOf (s : State) (i : Instr) : State × Bool :=
  if (s.residue s.cur).isNone ∧ s.me.bad = [] ∨ isEvent i ∨ ¬ Sys2Proof.Machine.ready i s then (s, true)
  else
    let r := s.readCheck i (s.touched i)
    match r.2 with
    | some b => (r.1.residueTrap s.cur b, false)
    | none => (r.1, true)

def State.readNext (s : State) : State × Bool := s.readOf (s.fetched s.cur)

/-- What comes before a hart's next instruction: a shadow to commit again, which traps as MXGO would where its rectangle is gone (log 57);
events of its cluster's engines; a storage error of its fetch; a residue mismatch; a routine's word is held at its unit. The second part says
whether the instruction is executed then. -/
def State.prelude (s : State) (h : Nat) : State × Bool :=
  match s.shadowLost h with
  | some o => ((s.dropShadow o).trapAt h 1 (((s.wordAt h o.pc).getD 0).zeroExtend 64) (s.slot h).pc 0, false)
  | none => match s.recommit h with
    | none => (s.mark .tile, false)
    | some s =>
      let f := (if isCore h then s.engineEvents (clusterOf h) else s).fetchError h
      if ¬ f.2 then f else ({ f.1.holdWord h with cur := h } : State).readNext

/-! ## Status traps (R244, R281) -/

/-- What a slot sent for the instruction it waits with is withdrawn, and the instruction counts as not issued (R119, R281). -/
def State.withdraw (s : State) (h : Nat) : State :=
  let x := s.slot h
  let sent := x.blocked.bind s.op?
  let s := match x.blocked with | some id => s.dropOp id | none => s
  let x := match sent with | some o => (match o.kind with | .fullEmpty 2 _ _ => { x with acks := x.acks - 1 } | _ => x) | none => x
  (s.setSlot h { x with blocked := none, waiting := none }).modCore (cidOf h) (fun c => { c with bufWait := c.bufWait.filter (fun q => q != slOf h) })

/-- The oldest queued status of a slot is taken, where one may be (R281). -/
def State.takeStatus (s : State) (h : Nat) : State :=
  if s.takesStatus h then
    match (s.slot h).statusQ with
    | [] => s
    | q :: rest =>
      let pc := (s.slot h).pc
      ((s.withdraw h).modSlot h (fun x => { x with statusQ := rest })).trapAt h q.1 q.2 pc 0
  else s

def execStatusTrap (cid sl : Nat) (s : State) : Host.Outcome State Fault Refusal :=
  .next (if sl < 4 then s.takeStatus (hartOf cid sl) else s)

/-! ## Pending values and services -/

/-- A service ends with a status, which travels to the caller's register (R173). -/
def State.serve (s : State) (o : Op) (status : Nat) : State := s.setOp { o with kind := .value (r64 status) [] }

def serviceOp (op : Nat) (ok : Nat → Bool) (k : Op → List Reg64 → State) (s : State) : State :=
  match s.op? op with
  | some o => match o.kind with | .service c args => if ok c then k o args else s | _ => s
  | none => s

def execNullService (op : Nat) (s : State) : Host.Outcome State Fault Refusal := .next (serviceOp op (fun c => c == 0) (fun o _ => s.serve o 0) s)
def execNoSuchService (op : Nat) (s : State) : Host.Outcome State Fault Refusal :=
  .next (serviceOp op (fun c => decide (3 ≤ c)) (fun o _ => s.serve o 0xFF) s)

/-- The free pages that can hold a page at an address on the same channels (R297). -/
def State.pageFor (s : State) (l va : Nat) : Option Nat :=
  let n := pageSize l / 65536
  s.freePages.find? (fun p => p % n == 0 && (if l = 0 then p % 256 == channelOf va else if l = 1 then p / 32 % 8 == va / 2 ^ 21 % 8 else true)
    && (List.range n).all (fun i => s.freePages.contains (p + i)))

/-- The tables down to level l of an address, new ones from system software's table memory; none when it has no more. -/
def State.tableFor (s : State) (l va : Nat) : Nat → Nat → Option (State × Nat)
  | 0, _ => none
  | k + 1, t =>
    if k = l then some (s, t + 8 * (va / 2 ^ levelShift k % 2 ^ levelBits k))
    else
      let a := t + 8 * (va / 2 ^ levelShift k % 2 ^ levelBits k)
      let e := r64 (Mem.read s.ext a 8)
      if bits e 0 1 = 1 then State.tableFor s l va k (bits e 8 40 * 256)
      else match s.freeTables with
        | [] => none
        | f :: rest => State.tableFor { s with freeTables := rest, ext := Mem.write (Mem.clear f (f + 4096) s.ext) a 8 (f + 1) } l va k f

/-- Map page (R173): the status, and the state with the leaf written; sums held for the entries it reads are folded first (R237). Mapped
already is a page whose first address is; a larger page over smaller ones that begin further on takes the place of their table; and a page that
no one range holds whole has status 2 (log 20, the model's choice). -/
def State.mapPage (s : State) (pid : BitVec 16) (va size : Nat) : State × Nat :=
  let l := size
  if 2 < size ∨ va % pageSize l ≠ 0 ∨ va < 0x40000000 ∨ 2 ^ 48 ≤ va then (s, 4)
  else match (s.proc pid).ranges.find? (fun r => r.base ≤ va && va + pageSize l ≤ r.base + r.size) with
    | none => (s, 2)
    | some r =>
      let s := s.foldWalk pid va
      if (s.walk pid va).isSome then (s, 1)
      else match s.pageFor l va, (match (s.proc pid).root with | some t => some (s, t) | none => (match s.freeTables with | f :: rest => some ((({ s with freeTables := rest, ext := Mem.clear f (f + 4096) s.ext } : State).modProc pid (fun p => { p with root := some f })), f) | [] => none)) with
        | some p, some (s', t) =>
          match s'.tableFor l va 4 t with
          | none => (s, 3)
          | some (s', a) =>
            ({ s' with ext := Mem.write s'.ext a 8 (p * 65536 + r.attrs.getD 6 + 1), freePages := s'.freePages.filter (fun q => q < p ∨ p + pageSize l / 65536 ≤ q) }, 0)
        | _, _ => (s, 3)

def execMapPage (op : Nat) (s : State) : Host.Outcome State Fault Refusal :=
  .next (serviceOp op (fun c => c == 1) (fun o args =>
    let r := s.mapPage o.pid (args.getD 0 0).toNat (args.getD 1 0).toNat
    r.1.serve o r.2) s)

/-- The address of the leaf entry of a mapped page. -/
def leafAddr (m : Mem) : Nat → Nat → Nat → Option (Nat × Nat)
  | 0, _, _ => none
  | l + 1, t, va =>
    let a := t + 8 * (va / 2 ^ levelShift l % 2 ^ levelBits l)
    let e := r64 (Mem.read m a 8)
    if bits e 0 1 = 0 then none else if bits e 1 3 ≠ 0 then some (l, a) else if l = 0 then none else leafAddr m l (bits e 8 40 * 256) va

/-- Unmap page (R173): the leaf goes, and the station entries, before the status; it waits for every walk under way, of any process (R299). The
physical page is free again, with its bytes (log 9, the model's choice). -/
def execUnmapPage (op : Nat) (s : State) : Host.Outcome State Fault Refusal :=
  .next (serviceOp op (fun c => c == 2) (fun o args =>
    let va := (args.getD 0 0).toNat
    match (if va < 2 ^ 48 then (s.proc o.pid).root else none) with
    | none => s.serve o 1
    | some t =>
      let s := s.foldWalk o.pid va
      match leafAddr s.ext 4 t va with
      | none => s.serve o 1
      | some (l, a) =>
        if s.stations.any (fun q => !q.2.walks.isEmpty) then s
        else
          let p := bits (r64 (Mem.read s.ext a 8)) 16 32
          (({ s with ext := Mem.write s.ext a 8 0, freePages := s.freePages ++ (List.range (pageSize l / 65536)).map (fun i => p + i) } : State).dropEntries 0 o.pid (va / 65536)).serve o 0) s)

end Sys2Proof.Machine
end

