-- ==== Sys2Proof/Machine/Tasks.lean ====
section
/-! DEFINITION. Tasks and launches: acceptance, eligibility, placement, spawning, stealing, forks, retirement, pre-emption, resumption
and cancellation (R90 to R104, R108 to R122), and the assignment of clusters (R18, R238, R412). -/

namespace Sys2Proof.Machine

/-! ## Fitting a task to a core (R98) -/

/-- Bytes [a, a + n) and [b, b + m) meet. -/
def meets (p : Nat × Nat) (a n : Nat) : Bool := overlaps p.1 p.2 a n

/-- The lowest-addressed free range of a size, aligned, below a total. -/
def freeRange (used : List (Nat × Nat)) (size align total : Nat) : Option Nat :=
  if size = 0 then some 0
  else ((List.range (total / align)).map (fun i => align * i)).find? (fun o => decide (o + size ≤ total) && !used.any (fun p => meets p o size))

def State.liveSlots (s : State) (cid : Nat) : List Slot := ((List.range 4).map (fun i => s.slot (hartOf cid i))).filter (fun x => x.live)
def State.savedSlots (s : State) (cid : Nat) : List Slot := (s.saved.filter (fun v => v.cid == cid)).map (fun v => v.slot)

def State.freeSlot (s : State) (cid : Nat) : Option Nat := (List.range 4).find? (fun i => !(s.slot (hartOf cid i)).live)

def State.freeWindow (s : State) (cid size : Nat) : Option Nat := freeRange ((s.liveSlots cid).map (fun x => (x.winOff, x.winSize))) size size 8192

def State.freeScratch (s : State) (cid size : Nat) : Option Nat :=
  freeRange ((s.liveSlots cid ++ s.savedSlots cid).map (fun x => (x.scratchOff, x.scratch))) size 256 65536

/-- Phasers of a cluster that no task's reservation and no orphan holds (R98, R266). -/
def State.freePhaserSlots (s : State) (cl : Nat) : Nat :=
  512 - (((s.harts.filter (fun p => isTask p.1 && clusterOf p.1 == cl && p.2.live)).foldl (fun n p => n + p.2.phasers) 0)
    + ((s.saved.filter (fun v => v.cid / 256 == cl)).foldl (fun n v => n + v.slot.phasers) 0)
    + ((s.cluster cl).phasers.filter (fun p => p.2.orphan)).length)

def State.coreIn (s : State) (cid : Nat) : Bool := !s.coreOut cid

/-- Where a task goes on a core: slot, window and scratchpad range. -/
structure Place where
  sl : Nat
  win : Nat
  scratch : Nat
  deriving DecidableEq, Repr

/-- The fit of R98 but for the code image. -/
def State.place (s : State) (cid window scratch phasers : Nat) : Option Place :=
  if ¬ s.coreIn cid ∨ s.freePhaserSlots (cid / 256) < phasers then none
  else match s.freeSlot cid, s.freeWindow cid window, s.freeScratch cid scratch with
    | some sl, some w, some q => some ⟨sl, w, q⟩
    | _, _, _ => none

/-! ## Code images (R99, R286) -/

/-- Physical 64 KiB pages of a launch's image, from the page of its entry on. -/
def State.imagePages (s : State) (pid : BitVec 16) : Nat → Nat → List Nat
  | 0, _ => []
  | n + 1, page =>
    if 2 ^ 48 ≤ page * 65536 then []
    else match s.translate pid (page * 65536) false false true with
      | some (p, _) => p / 65536 :: State.imagePages s pid n (page + 1)
      | none => []

/-- The leaf entry of a page, the station's or the tables', has x set, whatever its other fields hold. -/
def State.codeLeaf (s : State) (pid : BitVec 16) (page : Nat) : Bool :=
  match s.cached pid (page * 65536), s.walk pid (page * 65536) with
  | some e, _ => pteX e.pte
  | none, some p => pteX p.2
  | none, none => false

/-- The page at which an image that holds a page ends though its leaf has x: its other fields are illegal (R225), so its fill faults (R99, R286). -/
def State.imageBad (s : State) (pid : BitVec 16) (page : Nat) : Option Nat :=
  let n := (s.imagePages pid 16 page).length
  if 0 < n ∧ n < 16 ∧ (page + n) * 65536 < 2 ^ 48 ∧ s.codeLeaf pid (page + n) then some (page + n) else none

/-- Granules that the fill of an image reads, each with an error once more: its record, and for the replay an event of the station through which
dispatch fills (R286, R291), the spec naming no unit (log 11, the model's choice). -/
def State.imageRead (s : State) (p n : Nat) : State :=
  let k := (s.softErrors.filter (fun e => match e with | .granule g _ => overlaps (64 * g) 64 p n | _ => false)).length
  (List.range k).foldl (fun s _ => s.noteUnit (18816 + stationOf p)) (s.granulesRead p n).1

/-- One page of an image gets its frame: the one that holds it, or the lowest free one, filled from memory, of which a granule with an error is
read again (R290). -/
def State.loadPage (s : State) (cl : Nat) (lid : Word) (ppn : Nat) : Option (State × Nat) :=
  let c := s.cluster cl
  match c.frames.find? (fun f => f.ppn == ppn) with
  | some f => some (s.modCluster cl (fun c => { c with frames := c.frames.map (fun g => if g.n = f.n then { g with users := if g.users.contains lid then g.users else g.users ++ [lid] } else g) }), f.n)
  | none =>
    match (List.range 16).find? (fun n => !c.frames.any (fun f => f.n == n)) with
    | none => none
    | some n =>
      let s := (s.foldAt (ppn * 65536) 65536).imageRead (ppn * 65536) 65536
      let s := s.modCluster cl (fun c => { c with frames := c.frames ++ [⟨n, ppn, [lid]⟩] })
      some ({ s with imem := Mem.copyFrom s.imem ((cl * 16 + n) * 65536) s.ext (ppn * 65536) 65536 }, n)

def State.loadPages (s : State) (cl : Nat) (lid : Word) : List Nat → Option (State × List Nat)
  | [] => some (s, [])
  | p :: l => match s.loadPage cl lid p with
    | none => none
    | some (s, n) => (State.loadPages s cl lid l).map (fun r => (r.1, n :: r.2))

/-- The launch's image is in the cluster, or is loaded; none where too few frames are free (R98, R99). -/
def State.loadImage (s : State) (cl : Nat) (l : Launch) : Option State :=
  if (s.cluster cl).images.any (fun i => i.lid == l.lid) then some s
  else
    let page := l.entry.toNat / 65536
    (s.loadPages cl l.lid (s.imagePages l.pid 16 page)).map (fun r => r.1.modCluster cl (fun c => { c with images := c.images ++ [⟨l.lid, page, r.2⟩] }))

/-- The image holds no page: a fill fault at the entry address (R99, R286). -/
def State.noImage (s : State) (cl : Nat) (l : Launch) : Bool :=
  !(s.cluster cl).images.any (fun i => i.lid == l.lid) && (s.imagePages l.pid 1 (l.entry.toNat / 65536)).isEmpty

/-- What makes the fill of a launch's image fault, as the virtual address: no page, a page to be loaded with a granule whose second reading
fails too (R286, R290, log 11), or after these a page with an illegal leaf (R225, R286). -/
def State.imageFault (s : State) (cl : Nat) (l : Launch) : Option Reg64 :=
  if s.noImage cl l then some l.entry
  else if (s.cluster cl).images.any (fun i => i.lid == l.lid) then none
  else
    let page := l.entry.toNat / 65536
    let unread := ((s.imagePages l.pid 16 page).zipIdx page).findSome? (fun p =>
      if (s.cluster cl).frames.any (fun f => f.ppn == p.1) then none
      else s.softErrors.findSome? (fun e => match e with | .granule g true => if g / 1024 = p.1 then some (r64 (p.2 * 65536 + g % 1024 * 64)) else none | _ => none))
    unread.or ((s.imageBad l.pid page).map (fun n => r64 (n * 65536)))

/-- A fill fault (R286). A granule at the address has been read again for it. -/
def State.fillFault (s : State) (cl : Nat) (l : Launch) (va : Reg64) : State :=
  let s := match s.translate l.pid va.toNat false false true with | some (p, _) => s.imageRead (p / 64 * 64) 64 | none => s
  (s.record cl { time := 0, seq := 0, lid := l.lid, val := va, pc := l.entry, unit := l.die, ukind := 10, kind := 7, cause := 4, status := 4 }).cancelLaunch l.lid

/-! ## Starting a task (R102) -/

/-- What a task starts with. The sc flag of a task with no reservation, a child or a recruit, is off: the SC attribute is held by
reservations (R104). -/
structure Start where
  entry : Reg64
  regs : List (Nat × Reg64)
  window : Nat
  scratch : Nat := 0
  phasers : Nat := 0
  tid : Word
  lid : Word
  ctok : Word
  watch : Bool
  sc : Bool
  /-- sp holds the address after the reservation (else 0). -/
  sp : Bool := false
  stage : Option StageRef := none
  deriving DecidableEq, Repr

/-- The start state of R102. -/
def Start.slot (t : Start) (cid uid : Nat) (pid : BitVec 16) (p : Place) : Slot :=
  let x : Slot := { live := true, uid := uid, pid := pid, pc := t.entry, winSize := t.window, winOff := p.win, srs := r64 (t.lid.toNat * 2 ^ 32 + t.tid.toNat) ^^^ seedXor, tid := t.tid, lid := t.lid, ctok := t.ctok, watch := t.watch, sc := t.sc, stage := t.stage, scratchOff := p.scratch, scratch := t.scratch, phasers := t.phasers, phLeft := t.phasers }
  let x := t.regs.foldl (fun (x : Slot) r => x.putG r.1 r.2) x
  if t.sp ∧ x.lnInside ∧ x.gOff 55 + 8 ≤ x.winSize then x.putG 55 (r64 (cid * 65536 + p.scratch + t.scratch)) else x

/-- A task starts on a core: the full bits of its reservation are cleared (R102), which lets STFEs parked at their words complete (R236), and
it counts for its launch (R101). -/
def State.startTask (s : State) (cid : Nat) (p : Place) (t : Start) : State :=
  let base := cid * 65536 + p.scratch
  let h := hartOf cid p.sl
  let x := t.slot cid s.nextId (((s.cluster (cid / 256)).pid).getD 0) p
  let s := s.setSlot h { x with callId := (s.slot h).callId }
  let gone := s.full.filter (fun a => base ≤ a ∧ a < base + t.scratch)
  let s : State := { s with nextId := s.nextId + 1, full := s.full.filter (fun a => a < base ∨ base + t.scratch ≤ a), launches := s.launches.map (fun l => if l.lid = t.lid then { l with ran := l.ran + 1 } else l) }
  gone.foldl (fun s a => s.serveParked (s.ops.length + 1) a) s

def State.launch? (s : State) (lid : Word) : Option Launch := s.launches.find? (fun l => l.lid == lid)

/-! ## Records (R92 to R94) -/

/-- Sequence numbers from a last one on, skipping 0 and those still held (R94). -/
def State.nextLid (s : State) (die : Nat) : Nat → Nat → Nat
  | 0, n => n
  | f + 1, n =>
    let k := (n + 1) % 2 ^ 30
    if k = 0 ∨ s.held (BitVec.ofNat 32 (die * 2 ^ 30 + k)) then State.nextLid s die f k else k

/-- Clusters of a mask that are assigned to the process and in service (R93). -/
def State.admitted (s : State) (pid : BitVec 16) (mask : Reg64) : List Nat :=
  (List.range 64).filter (fun c => mask.getLsbD c && s.holds pid c && !s.clustersOut.contains c)

/-- The reason for which a record is rejected, by its code (R93); 0 for none. -/
def State.rejectCode (s : State) (die : Nat) (pid : BitVec 16) (firmware : Bool) (w : List Reg64) : Nat :=
  let r := fun i => w.getD i 0
  let prio := bits (r 5) 56 3
  if bits (r 7) 0 64 ≠ 0 ∨ bits (r 6) 4 60 ≠ 0 ∨ bits (r 5) 59 5 ≠ 0 ∨ bits (r 5) 50 6 ≠ 0 then 1
  else if prio = 7 ∧ ¬ firmware then 2
  else if bits (r 5) 0 32 % 256 ≠ 0 ∨ 65536 < bits (r 5) 0 32 ∨ 16 < bits (r 5) 32 16 then 3
  else if bits (r 0) 0 2 ≠ 0 ∨ bits (r 0) 48 16 ≠ 0 then 4
  else if bits (r 3) 0 32 ≠ 0 ∧ s.admitted pid (r 2) = [] then 5
  else if bits (r 6) 1 1 = 1 then 6
  else if 4096 ≤ (s.launches.filter (fun l => l.die == die && l.prio == prio && decide (l.next < l.count))).length then 7
  else 0

def windowBytes (code : Nat) : Nat := if code = 0 then 256 else 1024 * 2 ^ code

/-- A record is accepted or rejected (R93, R94): the code, and the launch id. -/
def State.acceptRecord (s : State) (die : Nat) (pid : BitVec 16) (origin : Origin) (w : List Reg64) : State × Nat × Word :=
  let code := s.rejectCode die pid (origin == .firmware) w
  if code ≠ 0 then (s, code, 0)
  else
    let r := fun i => w.getD i 0
    let seq := s.nextLid die (s.launches.length + 2) (Tab.getD s.lidSeq die 0)
    let lid := BitVec.ofNat 32 (die * 2 ^ 30 + seq)
    let cls := s.admitted pid (r 2)
    let l : Launch := { lid := lid, die := die, pid := pid, seq := seq, accepted := s.clk, entry := r 0, args := r 1, count := bits (r 3) 0 32, token := BitVec.ofNat 32 (bits (r 3) 32 32), pred0 := BitVec.ofNat 32 (bits (r 4) 0 32), pred1 := BitVec.ofNat 32 (bits (r 4) 32 32), clusters := cls.foldl (fun (m : Reg64) c => m ||| r64 (2 ^ c)) 0, window := windowBytes (bits (r 5) 48 2), scratch := bits (r 5) 0 32, phasers := bits (r 5) 32 16, prio := bits (r 5) 56 3, notify := bits (r 6) 3 1 == 1, sc := bits (r 6) 2 1 == 1, watch := bits (r 6) 0 1 == 1, origin := origin, walk := (cls.headD 0) * 256 }
    (({ s with lidSeq := Tab.set s.lidSeq die seq, launches := s.launches ++ [l] } : State).settle, 0, lid)

/-- LAUNCH sends its record to the command processor of its die (R158). -/
def execLaunch (f t : BitVec 6) (s : State) : Host.Outcome State Fault Refusal :=
  run (.launch f t) s (fun s => .done (s.postTo t.toNat (.launch ((List.range 8).map (fun i => s.getG (f.toNat + i)))) (fun q => { q with major := 0x1A, sel := 3 })))

/-- The oldest record sent to a die's command processor is accepted or rejected (R93, R158). On rejection the launch id in the result is 0; R158
says so of the message only, and of a register it is the model's choice (log 80). -/
def execLaunchRecordAcceptance (die : Nat) (s : State) : Host.Outcome State Fault Refusal :=
  .next (match s.ops.find? (fun o => dieOf o.owner == die && (match o.kind with | .launch _ => true | _ => false)) with
    | none => s
    | some o => match o.kind with
      | .launch w =>
        let r := s.acceptRecord die o.pid (.task o.owner o.task) w
        r.1.setOp { o with kind := if o.off.isSome then .value (r64 (r.2.2.toNat + r.2.1 * 2 ^ 32)) [] else .value (r64 r.2.1) [r.2.2.zeroExtend 64] }
      | _ => s)

/-! ## Priority (R96, R97) -/

/-- 100 µs in clk (R7). -/
def clk100us : Nat := 180000

/-- The priority steps a launch has gained by age (R96). Once its last task is placed the rule gives none, and the steps stay as that
placement left them (log 64, the model's choice). -/
def Launch.steps (l : Launch) (clk : Nat) : Nat :=
  match l.eligible with
  | some t => if l.next < l.count then (clk - t) / clk100us else l.aged
  | none => 0

def Launch.age (l : Launch) (clk : Nat) : Launch := { l with aged := l.steps clk }

/-- Effective priority (R96). -/
def Launch.eff (clk : Nat) (l : Launch) : Nat := if l.prio = 7 then 7 else min 6 (l.prio + l.steps clk)

def State.unplaced (s : State) (l : Launch) : Bool := l.eligible.isSome && !s.launchDead l && decide (l.next < l.count)

/-- The next task has waited 100 µs for a fit (R97). -/
def State.reserve (s : State) (l : Launch) : Launch := if s.unplaced l ∧ clk100us ≤ s.clk - l.waitFrom then { l with reserving := true } else l

def execPriorityAging (lid : Nat) (s : State) : Host.Outcome State Fault Refusal :=
  .next { s with launches := s.launches.map (fun l => if l.lid.toNat = lid then l.age s.clk else l) }

def execLaunchReserving (lid : Nat) (s : State) : Host.Outcome State Fault Refusal :=
  .next { s with launches := s.launches.map (fun l => if l.lid.toNat = lid then s.reserve l else l) }

/-! ## Reservations, resumption and children come first (R97, R109, R120) -/

def State.effOf (s : State) (lid : Word) : Nat := match s.launch? lid with | some l => l.eff s.clk | none => 0

/-- A reserving launch keeps a cluster of its mask from the tasks of a launch of strictly lower priority (R97). -/
def State.barred (s : State) (lid : Word) (cl : Nat) : Bool :=
  s.launches.any (fun r => r.reserving && s.unplaced r && r.clusters.getLsbD cl && decide (s.effOf lid < r.eff s.clk))

/-- A saved task could come back to its core now; that system software still deschedules its process does not keep it (log 31, the model's
choice). -/
def State.canResume (s : State) (v : Saved) : Bool :=
  !(s.slot (hartOf v.cid v.sl)).live && (s.freeWindow v.cid v.slot.winSize).isSome && s.coreIn v.cid && !s.barred v.slot.lid (v.cid / 256)

/-- A task that can resume on the core comes before new tasks of a launch of equal or lower priority (R120). -/
def State.resumesFirst (s : State) (lid : Word) (cid : Nat) : Bool :=
  s.saved.any (fun v => v.cid == cid && decide (s.effOf lid ≤ s.effOf v.slot.lid) && s.canResume v)

/-- The place of a new task of a launch on a core, which no reservation and no resumption keeps from it (R97, R98, R120). -/
def State.placeFor (s : State) (lid : Word) (cid window scratch phasers : Nat) : Option Place :=
  if s.barred lid (cid / 256) ∨ s.resumesFirst lid cid then none else s.place cid window scratch phasers

/-- The window size of a launch's tasks. -/
def State.windowOf (s : State) (lid : Word) : Nat := match s.launch? lid with | some l => l.window | none => 256

/-- The core's youngest child could start now. -/
def State.canStartChild (s : State) (cid : Nat) : Bool :=
  match (s.core cid).deque with
  | [] => false
  | d :: _ => (s.placeFor d.lid cid (s.windowOf d.lid) 0 0).isSome

/-! ## Dispatch (R97, R100) -/

/-- The cores a launch's mask admits, from its walk pointer on, wrapping (R100). -/
def Launch.order (l : Launch) : List Nat :=
  let all := (List.range 64).filter (fun c => l.clusters.getLsbD c)
  let cores := all.flatMap (fun c => (List.range 256).map (fun i => 256 * c + i))
  cores.filter (fun c => decide (l.walk ≤ c)) ++ cores.filter (fun c => decide (c < l.walk))

/-- The launch's next task fits a core, which nothing with precedence claims (R97, R98, R109, R120). -/
def State.taskFits (s : State) (l : Launch) (cid : Nat) : Option Place :=
  if ¬ s.holds l.pid (cid / 256) ∨ s.canStartChild cid then none
  else if ¬ s.noImage (cid / 256) l ∧ (s.loadImage (cid / 256) l).isNone then none
  else s.placeFor l.lid cid l.window l.scratch l.phasers

/-- The first core from the walk pointer on that the next task fits (R100). -/
def State.firstFit (s : State) (l : Launch) : Option (Nat × Place) := l.order.findSome? (fun c => (s.taskFits l c).map (fun p => (c, p)))

/-- a comes before b in the order of R97. -/
def Launch.before (clk : Nat) (a b : Launch) : Bool :=
  decide (b.eff clk < a.eff clk) || (a.eff clk == b.eff clk && (decide (a.accepted < b.accepted) || (a.accepted == b.accepted && decide (a.die < b.die))))

def insertLaunch (clk : Nat) (l : Launch) : List Launch → List Launch
  | [] => [l]
  | x :: r => if l.before clk x then l :: x :: r else x :: insertLaunch clk l r

/-- The launches with a task for a cluster, in the order of R97. -/
def State.candidates (s : State) (cl : Nat) : List Launch :=
  (s.launches.filter (fun l => s.unplaced l && l.clusters.getLsbD cl)).foldl (fun acc l => insertLaunch s.clk l acc) []

/-- The next task of a launch placed (R100, R102). -/
def State.placeNext (s : State) (l : Launch) (cid : Nat) (p : Place) : State :=
  match s.loadImage (cid / 256) l with
  | none => s
  | some s =>
    let s := s.startTask cid p { entry := l.entry, regs := [(1, l.args), (2, r64 l.next), (3, r64 l.count)], window := l.window, scratch := l.scratch, phasers := l.phasers, tid := BitVec.ofNat 32 l.next, lid := l.lid, ctok := l.token, watch := l.watch, sc := l.sc, sp := true }
    let rest := l.order.dropWhile (fun c => c != cid)
    let walk := (rest.tail ++ l.order).headD 0
    { s with launches := s.launches.map (fun x => if x.lid = l.lid then { x with next := l.next + 1, walk := walk, reserving := false, waitFrom := s.clk } else x) }

/-- The next task of a launch fits some core of a cluster (R97). -/
def State.fitsIn (s : State) (cl : Nat) (l : Launch) : Bool := l.order.any (fun c => c / 256 == cl && (s.taskFits l c).isSome)

/-- The dispatcher of a cluster chooses the first launch in order whose next task fits a core of the cluster (R97). It places that task where the
first core from the walk pointer on that it fits is in this cluster, and leaves it to another dispatcher else (R100, log 34). -/
def execTaskPlacement (cl : Nat) (s : State) : Host.Outcome State Fault Refusal :=
  let s : State := { s with launches := s.launches.map (fun l => s.reserve (l.age s.clk)) }
  .next (if 64 ≤ cl then s
    else match (s.candidates cl).find? (s.fitsIn cl) with
      | none => s
      | some l => match s.firstFit l with
        | none => s
        | some (c, p) =>
          if c / 256 ≠ cl then s
          else match s.imageFault cl l with | some va => s.fillFault cl l va | none => s.placeNext l c p)

/-! ## Spawned children (R108 to R110, R155) -/

/-- Bit 6 of xstat: the last SPAWN ran its child inline. -/
def Slot.setSp (x : Slot) (b : Bool) : Slot := { x with xstat := setBits x.xstat 6 1 b.toNat }

/-- SPAWN (R155). Its inline run writes ln, which for it is g54 alone (R64). -/
def execSpawn (f : BitVec 6) (s : State) : Host.Outcome State Fault Refusal :=
  run (.spawn f) s (fun s =>
    let entry := s.getG f.toNat
    let args := (List.range 4).map (fun i => s.getG (f.toNat + 1 + i))
    let x := s.me
    if bits entry 0 2 ≠ 0 then .trap 2 entry
    else if (s.core (cidOf s.cur)).deque.length < 16 then
      .done ((s.modCore (cidOf s.cur) (fun c => { c with deque := ⟨entry, args, x.lid, x.tid⟩ :: c.deque })).modMe (fun x => x.setSp false))
    else .jump (s.modMe (fun x => ((((x.setSp true).putG 1 (args.getD 0 0)).putG 2 (args.getD 1 0)).putG 3 (args.getD 2 0)).putG 4 (args.getD 3 0) |>.putG 54 (x.pc + 4))) entry)

/-- The youngest child of a core starts in a free slot (R109). A start in the clk of a probe comes before the probe (R110), so none comes
after it in that clk. -/
def execChildStart (cid : Nat) (s : State) : Host.Outcome State Fault Refusal :=
  .next (match (s.core cid).deque with
    | [] => s
    | d :: rest => match s.launch? d.lid, (if (s.core cid).probedAt = some s.clk then none else s.placeFor d.lid cid (s.windowOf d.lid) 0 0) with
      | some l, some p =>
        (s.modCore cid (fun c => { c with deque := rest })).startTask cid p { entry := d.entry, regs := (d.args.zipIdx 1).map (fun a => (a.2, a.1)), window := l.window, tid := d.tid, lid := d.lid, ctok := l.token, watch := l.watch, sc := false }
      | _, _ => s)

/-- One step of the steal LFSR (R110). -/
def lfsrStep (x : BitVec 16) : BitVec 16 :=
  let b := (x.getLsbD 15 ^^ x.getLsbD 13 ^^ x.getLsbD 12 ^^ x.getLsbD 10)
  (x <<< 1) ||| (BitVec.ofBool b).zeroExtend 16

/-- A core is idle (R110): no task that can issue, nothing in its deque, a free slot. -/
def State.coreIdle (s : State) (cid : Nat) : Bool :=
  s.coreIn cid && (s.cluster (cid / 256)).pid.isSome && (s.core cid).deque.isEmpty && (s.freeSlot cid).isSome
    && !(List.range 4).any (fun i => let x := s.slot (hartOf cid i); x.issues && x.waiting.isNone && !x.preempt && decide (x.notBefore ≤ s.clk))

/-- An idle core's probe, at most one in 64 clk (R110). -/
def execStealProbe (cid : Nat) (s : State) : Host.Outcome State Fault Refusal :=
  .next (if ¬ s.coreIdle cid ∨ s.clk < (s.core cid).probeDue then s
    else
      let l := lfsrStep (s.core cid).lfsr
      let s := s.modCore cid (fun c => { c with lfsr := l, probeDue := s.clk + 64 })
      let v := cid / 256 * 256 + l.toNat % 256
      let d := (s.core v).deque
      let s := s.modCore v (fun c => { c with probedAt := some s.clk })
      if v = cid ∨ ¬ s.coreIn v ∨ d = [] then s
      else
        let k := if d.length = 1 then 1 else d.length / 2
        (s.modCore v (fun c => { c with deque := d.take (d.length - k) })).modCore cid (fun c => { c with deque := c.deque ++ d.drop (d.length - k) }))

/-! ## Forks (R111 to R113, R156, R157) -/

def execFork (f : BitVec 6) (s : State) : Host.Outcome State Fault Refusal :=
  run (.fork f) s (fun s =>
    let lo := s.getG f.toNat
    let t := s.getG (f.toNat + 1)
    let g := s.getG (f.toNat + 2)
    let c := s.getG (f.toNat + 3)
    if bits c 0 2 ≠ 0 then .trap 2 c
    else if t = 0 then .jump (((s.putG 1 lo).putG 2 lo).putG 3 c) c
    else
      let id := s.nextId
      let s := s.post (.fork lo t (if g = 0 then 1 else g) c ((List.range 5).map (fun i => s.getG (4 + i)))) (fun q => { q with mute := true, off := some (s.me.gOff 1) })
      .done (s.modMe (fun x => { x with pend := x.pend ++ [(x.gOff 1, id), (x.gOff 2, id), (x.gOff 3, id)] })))

/-- The cores of a cluster in the order recruitment looks at them: panels q by p XOR q, then octet slots (R111). -/
def recruitOrder (cid : Nat) : List Nat :=
  (List.range 32).flatMap (fun k => (List.range 8).map (fun c => cid / 256 * 256 + ((cid / 8 % 32) ^^^ k) * 8 + c))

/-- The places of up to w recruits, one after another, each on the first core of the order that it fits (R111). -/
def State.plan (lid : Word) (window : Nat) (order : List Nat) : Nat → State → List (Nat × Place)
  | 0, _ => []
  | w + 1, s =>
    match order.findSome? (fun c => (s.placeFor lid c window 0 0).map (fun p => (c, p))) with
    | none => []
    | some a => a :: State.plan lid window order w (s.startTask a.1 a.2 { entry := 0, regs := [], window := window, tid := 0, lid := lid, ctok := 0, watch := false, sc := false })

/-- Tasks started at the places of a plan, the i-th as `t i` says. -/
def State.startAll (t : Nat → Start) (s : State) (plan : List (Nat × Place)) : State := plan.zipIdx.foldl (fun s a => s.startTask a.1.1 a.1.2 (t a.2)) s

/-- Bounds of part i of P over [lo, lo + T) (R112). -/
def partBound (lo : Reg64) (t p i : Nat) : Reg64 := lo + r64 (i * (t / p) + min i (t % p))

/-- The forker's g1 to g3 arrive at the window bytes they had when FORK issued (R63, R125). -/
def Slot.forkResult (x : Slot) (off : Nat) (l : List Reg64) : Slot :=
  { x.mend off (8 * l.length) with win := (l.zipIdx).foldl (fun (m : Mem) p => Mem.write m (off + 8 * p.2) 8 p.1.toNat) x.win }

/-- Recruitment for a FORK ends (R111, R112): the recruits start, and the forker's g1 to g3 arrive. Recruits take the watch flag of
the launch they belong to, the recruits of a stage task too (log 65, the model's choice). -/
def execForkRecruitment (op : Nat) (s : State) : Host.Outcome State Fault Refusal :=
  .next (match s.op? op with
    | none => s
    | some o => match o.kind with
      | .fork lo t g c regs =>
        let cl := o.cluster
        let window := (s.slot o.owner).winSize
        let w := min ((t.toNat + g.toNat - 1) / g.toNat - 1) 63
        let cell := freeNumber (s.cluster cl).cells 128
        let plan := if cell.isNone then [] else State.plan o.lid window (recruitOrder (cidOf o.owner)) w s
        let r := plan.length
        let p := r + 1
        let n := cell.getD 0
        let g3 := if r = 0 then c else r64 (2 ^ 63 + n)
        let tok := match s.launch? o.lid with | some l => l.token | none => o.ctok
        let watch := match s.launch? o.lid with | some l => l.watch | none => false
        let start := fun (i : Nat) => ({ entry := o.pc + 4, regs := [(1, partBound lo t.toNat p (i + 1)), (2, partBound lo t.toNat p (i + 2)), (3, g3)] ++ (regs.zipIdx 4).map (fun a => (a.2, a.1)), window := window, tid := o.tid, lid := o.lid, ctok := tok, watch := watch, sc := false } : Start)
        let s := if r = 0 then s else (s.startAll start plan).modCluster cl (fun c' => { c' with cells := Tab.set c'.cells n ⟨p, o.lid, c⟩ })
        (s.modTask o.owner o.task (fun x => { (x.forkResult (o.off.getD 8) [partBound lo t.toNat p 0, partBound lo t.toNat p 1, g3]) with pend := x.pend.filter (fun q => q.2 != op) })).dropOp op
      | _ => s)

/-- Everything the task issued has completed (R118), but for a waiting instruction that can be withdrawn, a shadow that can be
withdrawn, and events on their way. -/
def State.drained (s : State) (h : Nat) (except : Option Nat) : Bool :=
  let x := s.slot h
  s.ops.all (fun o => o.owner != h || o.task != x.uid || except == some o.id || (match o.kind with | .event _ _ _ _ _ _ _ _ => true | _ => false))
    && x.acks == 0

/-- JOINC (R113, R157). The last participant goes on at once; another's decrement comes once everything the task issued has completed,
as its retirement asks (R118), and a participant whose cell has come down to it meanwhile is the last. -/
def execJoinc (f : BitVec 6) (s : State) : Host.Outcome State Fault Refusal :=
  run (.joinc f) s (fun s =>
    let v := s.getG f.toNat
    let cl := clusterOf s.cur
    if ¬ v.getLsbD 63 then (if bits v 0 2 ≠ 0 then .trap 2 v else .jump s v)
    else match Tab.get? (s.cluster cl).cells (bits v 0 7) with
      | none => .trap 1 v
      | some c =>
        if bits v 7 56 ≠ 0 ∨ c.lid ≠ s.me.lid then .trap 1 v
        else if c.count ≤ 1 then .jump (s.modCluster cl (fun x => { x with cells := Tab.erase x.cells (bits v 0 7) })) c.cont
        else if ¬ s.drained s.cur none then .wait s .drain
        else .retire (s.modCluster cl (fun x => { x with cells := Tab.set x.cells (bits v 0 7) { c with count := c.count - 1 } })))

/-! ## Retirement (R118) -/

/-- The slot is empty again: its window, ports and inbox are gone; its next call id stays (R329). -/
def State.vacate (s : State) (h : Nat) : State :=
  (s.setSlot h { callId := (s.slot h).callId }).modCore (cidOf h) (fun c => { c with bufWait := c.bufWait.filter (fun q => q != slOf h) })

/-- A task that retires before the shadow saved with it could be committed again has it committed first, unless its rectangle is gone
(R364). -/
def execTaskRetirement (cid sl : Nat) (s : State) : Host.Outcome State Fault Refusal :=
  let h := hartOf cid sl
  let s := if sl < 4 ∧ (s.slot h).live ∧ (s.slot h).retiring then (match s.shadowLost h with | some o => s.dropShadow o | none => (s.recommit h).getD s) else s
  let x := s.slot h
  .next (if sl < 4 ∧ x.live ∧ x.retiring ∧ s.drained h none then (((s.vacate h).endTask cid x.uid x).pokeGroups).settle else s)

/-! ## Pre-emption, saving and resumption (R119, R120, R287, R364) -/

/-- The two cases in which the control plane pre-empts a task (R119): a launch of strictly higher effective priority has a task to
place in the cluster, and the task's own launch is not of priority 7; or system software deschedules the process. -/
def State.mayPreempt (s : State) (h : Nat) : Bool :=
  let x := s.slot h
  s.descheduled.contains x.pid
    || (s.launches.any (fun l => s.unplaced l && l.clusters.getLsbD (clusterOf h) && decide (s.effOf x.lid < l.eff s.clk))
      && (s.launch? x.lid).all (fun l => l.prio != 7))

/-- A request is taken at an instruction boundary, after a status trap that waits there (R282). -/
def execPreemptionRequest (cid sl : Nat) (s : State) : Host.Outcome State Fault Refusal :=
  let h := hartOf cid sl
  .next (if sl < 4 ∧ (s.slot h).live ∧ ¬ (s.slot h).retiring ∧ ¬ (s.slot h).preempt ∧ ¬ (s.slot h).edge ∧ s.mayPreempt h then
      (s.takeStatus h).modSlot h (fun x => if x.retiring then x else { x with preempt := true, drainFrom := s.clk })
    else s)

/-- A shadow the task has committed and the engine has not taken is withdrawn (R364). -/
def State.withdrawShadow (s : State) (h : Nat) : State :=
  match (s.panel (panelOf h)).committed.bind s.op? with
  | some o => if o.owner = h ∧ o.task = (s.slot h).uid then (s.setOp { o with stage := 9 }).modPanel (panelOf h) (fun p => { p with committed := none }) else s
  | none => s

/-- A saved task's shadow does not count as outstanding. -/
def State.shadowOp (s : State) (h : Nat) : Option Nat :=
  match (s.panel (panelOf h)).committed.bind s.op? with
  | some o => if o.owner = h ∧ o.task = (s.slot h).uid then some o.id else (s.withdrawn h).map (fun o => o.id)
  | none => (s.withdrawn h).map (fun o => o.id)

def execSlotStateSave (cid sl : Nat) (s : State) : Host.Outcome State Fault Refusal :=
  let h := hartOf cid sl
  let x := s.slot h
  .next (if sl < 4 ∧ x.live ∧ x.preempt ∧ ¬ x.retiring ∧ ¬ x.edge ∧ (s.withdraw h).drained h (s.shadowOp h) then
      let s := (s.withdraw h).withdrawShadow h
      let y := s.slot h
      let s := s.vacate h
      if s.taskDead y then ((s.endTask cid y.uid y).pokeGroups).settle
      else { s with saved := s.saved ++ [⟨cid, sl, { y with grant := 0, preempt := false }⟩] }
    else s)

/-- A launch of strictly higher effective priority has its next task placed on the core first (R97, R120). -/
def State.outranked (s : State) (v : Saved) : Bool :=
  s.launches.any (fun l => s.unplaced l && decide (s.effOf v.slot.lid < l.eff s.clk) && (s.firstFit l).any (fun p => p.1 == v.cid))

/-- The n-th saved task comes back (R120), in its place among the renegotiations of the clk (R168): window, lane request and, inside an RPT frame, the checks of R146
again (R287). Where one fails, xpc holds the RPT's address while xstat keeps the frame's rpt, rptj and rpti (log 57, the model's choice). -/
def execResumption (n : Nat) (s : State) : Host.Outcome State Fault Refusal :=
  .next (match s.saved[n]? with
    | none => s
    | some v =>
      if ¬ s.canResume v ∨ s.outranked v ∨ s.renegLate (hartOf v.cid v.sl) then s
      else match s.freeWindow v.cid v.slot.winSize with
        | none => s
        | some w =>
          let h := hartOf v.cid v.sl
          let s := (({ s with saved := s.saved.eraseIdx n } : State).setSlot h { v.slot with winOff := w, callId := (s.slot h).callId }).renegotiate h
          let x := v.slot
          if ¬ x.rptOn then s
          else
            let at0 := x.pc - r64 (4 * (x.rptI + 1))
            match s.capture h at0 ((s.wordAt h at0).getD 0) with
            | none => s
            | some t => s.deliver h t.1 t.2.1 t.2.2 0)

def execTokenCancellation (token : BitVec 32) (s : State) : Host.Outcome State Fault Refusal := .next (s.cancelToken token)

/-- The wait of R106 a slot is in, and since when: a drain for its retirement or pre-emption, or its instruction's wait. -/
def Slot.waitsIn (x : Slot) : Option (Wait × Nat) := if x.retiring ∨ x.preempt then some (.drain, x.drainFrom) else x.waiting

/-- A slot that has waited longer than the watchdog period is entered once, with a notice (R124, R398, R407). -/
def execWatchdogReport (cid sl : Nat) (s : State) : Host.Outcome State Fault Refusal :=
  let h := hartOf cid sl
  let x := s.slot h
  .next (match x.waitsIn with
    | none => s
    | some (w, t) =>
      if sl < 5 ∧ x.live ∧ s.watchdogPeriod < s.clk - t ∧ ¬ s.watchdog.contains (cid, sl, x.lid, w, t) then
        ({ s with watchdog := s.watchdog ++ [(cid, sl, x.lid, w, t)] } : State).mgmtNotice s.watchdogVec
      else s)

/-! ## Clusters (R18, R110, R91, R238, R342, R412) -/

/-- A cluster goes to a process: scratchpads, full bits, table memories, panels and cluster state at their reset values. -/
def execClusterAssignment (cl : Nat) (pid : BitVec 16) (s : State) : Host.Outcome State Fault Refusal :=
  .next (if 64 ≤ cl ∨ (s.cluster cl).pid.isSome ∨ s.clustersOut.contains cl then s
    else
      let c := s.cluster cl
      let cids := (List.range 256).map (fun i => cl * 256 + i)
      let s := s.modCluster cl (fun _ => { pid := some pid, errs := c.errs, errSeq := c.errSeq, errOver := c.errOver, monFall := c.monFall })
      let s := cids.foldl (fun s i => (s.modCore i (fun c => { lfsr := 0xACE1 ^^^ BitVec.ofNat 16 (i % 256), probeDue := s.clk, noticeDrops := c.noticeDrops })).modSlot (hartOf i 4) (fun x => { x with srs := r64 (i * 2 ^ 32 + 0xFFFFFFFF) ^^^ seedXor })) s
      { s with spm := Mem.clear (cl * 2 ^ 24) ((cl + 1) * 2 ^ 24) s.spm, full := s.full.filter (fun a => a / 2 ^ 24 != cl), tblMem := Mem.clear (cl * 32 * 4096) ((cl + 1) * 32 * 4096) s.tblMem, tblWrites := s.tblWrites.filter (fun q => q.2.1 / 256 != cl), opMem := Mem.clear (cl * 512 * 16896) ((cl + 1) * 512 * 16896) s.opMem, accMem := Mem.clear (cl * 256 * 16384) ((cl + 1) * 256 * 16384) s.accMem, panels := s.panels.filter (fun p => p.1 / 32 != cl) })

/-- The nibs fold what they hold for a cluster (R238). -/
def State.foldCluster (s : State) (cl : Nat) : State :=
  let all := s.nibs.flatMap (fun n => n.2.sums.filter (fun q => q.cluster == cl))
  let s : State := { s with nibs := s.nibs.map (fun n => (n.1, { n.2 with sums := n.2.sums.filter (fun q => q.cluster != cl) })) }
  all.foldl (fun s q => let k := if q.fp64 then 8 else 4; { s with ext := Mem.write s.ext q.phys k (foldSums [q] (Mem.read s.ext q.phys k)) }) s

/-- A nib that holds a sum of the cluster, or is to take one, runs a routine: it cannot fold yet (R238, R336). -/
def State.releaseBusy (s : State) (cl : Nat) : Bool :=
  s.forwards.any (fun f => f.sum.cluster == cl && (s.slot (nibHart (channelOf f.sum.addr))).live)
    || s.nibs.any (fun n => (s.slot (nibHart n.1)).live && n.2.sums.any (fun q => q.cluster == cl))

/-- The bindings of a process that holds no cluster any more are gone (R263). -/
def State.unbound (s : State) (pid : BitVec 16) : State :=
  if (List.range 64).any (fun c => (s.cluster c).pid == some pid) then s else s.modProc pid (fun p => { p with bindings := [] })

/-- The control plane releases a cluster with no work left (R238): flush, forwards, folds, its plastic regions go
(R303), its pipelines are freed, so that no controller stays a member of a phaser of the process (R18, R392), it is unassigned, and with its
last cluster a process loses its bindings (R263). -/
def execClusterRelease (cl : Nat) (s : State) : Host.Outcome State Fault Refusal :=
  let busy := s.harts.any (fun p => isCore p.1 && clusterOf p.1 == cl && p.2.live) || s.saved.any (fun v => v.cid / 256 == cl)
    || s.cores.any (fun c => c.1 / 256 == cl && !c.2.deque.isEmpty) || s.ops.any (fun o => o.cluster == cl && isCore o.owner)
  .next (if 64 ≤ cl ∨ (s.cluster cl).pid.isNone ∨ busy then s
    else
      let s := s.flush cl
      if s.releaseBusy cl then s
      else
      let pid := (s.cluster cl).pid.getD 0
      let fw := s.forwards.filter (fun f => f.sum.cluster == cl)
      let s : State := { s with forwards := s.forwards.filter (fun f => f.sum.cluster != cl) }
      let s := (fw.foldl (fun s f => s.takeSum f.sum) s).foldCluster cl
      let s := (s.cluster cl).pipes.foldl (fun s p => s.freePipe cl p.1 1) s
      let c := s.cluster cl
      let s := s.keepRegions (fun r => r.base / 2 ^ 24 != cl)
      (s.modCluster cl (fun _ => { errs := c.errs, errSeq := c.errSeq, errOver := c.errOver, monFall := c.monFall })).unbound pid)

end Sys2Proof.Machine
end

