-- ==== Sys2Proof/Machine/Pipes.lean ====
section
/-! DEFINITION. Pipelines (R114 to R116, R160 to R165, R392). -/

namespace Sys2Proof.Machine

/-- The parts of a declaration block (R160). -/
structure PipeBlock where
  k : Nat
  nq : Nat
  done : Nat
  cores : List Nat
  descs : List Reg64
  templates : List (List Reg64)
  /-- A reserved bit is set, k is out of range, or a template's stage flag is clear (code 1). -/
  reserved : Bool
  deriving DecidableEq, Repr

/-- Reserved bits of a launch record, or its stage flag clear (R92, R163): the reserved bits of a template count as reserved bits of the
block, though R160 has PIPEDECL ignore its other fields. A template whose entry is misaligned, or whose scratch or phasers break the limits of
R92 and R93, meets no code of R163 and is accepted (log 76, the model's choice). -/
def templateBad (w : List Reg64) : Bool :=
  let r := fun i => w.getD i 0
  bits (r 7) 0 64 != 0 || bits (r 6) 4 60 != 0 || bits (r 5) 59 5 != 0 || bits (r 5) 50 6 != 0 || bits (r 6) 1 1 == 0

/-- A descriptor with a reserved bit: bits 15:12 and 3:2, the handle of a plain queue, the capacity of a delta queue (R160; log 76, the
model's choice). -/
def descBad (d : Reg64) : Bool :=
  bits d 12 4 != 0 || bits d 2 2 != 0 || (bits d 0 2 == 1 && bits d 32 32 != 0) || (bits d 0 2 == 2 && bits d 16 16 != 0)

def pipeBlock (m : Mem) (a : Nat) : PipeBlock :=
  let h := r64 (Mem.read m a 8)
  let k := bits h 0 4
  let ok := decide (1 ≤ k ∧ k ≤ 8)
  let descs := (List.range 16).map (fun j => r64 (Mem.read m (a + 40 + 8 * j) 8))
  let tps := (List.range (if ok then k else 0)).map (fun i => (List.range 8).map (fun j => r64 (Mem.read m (a + 256 + 64 * i + 8 * j) 8)))
  { k := k, nq := bits h 4 4 + 1, done := bits h 16 16, cores := (List.range 256).filter (fun c => (Mem.read m (a + 8) 32).testBit c), descs := descs, templates := tps, reserved := bits h 32 32 != 0 || bits h 8 8 != 0 || !ok || Mem.read m (a + 168) 88 != 0 || descs.any descBad || tps.any templateBad }

/-- Bytes of a block of k stages (R160); with a k outside 1 to 8 the 256 bytes before the templates (log 76, the model's choice). -/
def blockBytes (k : Nat) : Nat := 256 + 64 * (if 1 ≤ k ∧ k ≤ 8 then k else 0)

/-- The block is well formed (R160), and its delta handles name queues of the process (R163). A plain queue of capacity 0 is not well formed
(log 76, the model's choice). -/
def State.blockOk (s : State) (b : PipeBlock) : Bool :=
  let used := b.descs.take b.nq
  let stage := fun (n : Nat) => n == 15 || decide (n < b.k)
  (b.descs.drop b.nq).all (fun d => d == 0)
    && used.all (fun d =>
      let prod := bits d 4 4
      let cons := bits d 8 4
      (bits d 0 2 == 1 || bits d 0 2 == 2) && stage prod && stage cons && !(prod == 15 && cons == 15) && (prod == 15 || decide (prod < cons))
        && (if bits d 0 2 = 1 then bits d 16 16 != 0 else decide (bits d 32 32 < 64) && s.handleOk (bits d 32 32)))
    && (List.range b.k).all (fun i => (used.filter (fun d => bits d 8 4 == i)).length == 1)

/-- Plain queues for the descriptors of kind 1, one after another (R163); none where the buffer or the table cannot hold them. -/
def State.allocPlain (s : State) (cl pipe : Nat) : List Reg64 → Option (State × List PipeQueue)
  | [] => some (s, [])
  | d :: l =>
    let prod := bits d 4 4
    let cons := bits d 8 4
    if bits d 0 2 = 2 then (State.allocPlain s cl pipe l).map (fun r => (r.1, ⟨bits d 32 32, prod, cons, 0⟩ :: r.2))
    else
      let cap := bits d 16 16
      match freeNumber (s.cluster cl).pqs 64 with
      | none => none
      | some n =>
        if (s.cluster cl).pool < 32 * cap then none
        else (State.allocPlain (s.setPq cl (64 + n) { pipe := pipe, cap := cap }) cl pipe l).map (fun r => (r.1, ⟨64 + n, prod, cons, cap⟩ :: r.2))

def stageTemplate (w : List Reg64) : StageTemplate :=
  let r := fun i => w.getD i 0
  ⟨r 0, r 1, windowBytes (bits (r 5) 48 2), bits (r 5) 0 32, bits (r 5) 32 16, bits (r 6) 0 1 == 1, bits (r 6) 2 1 == 1⟩

/-- PIPEDECL's result (R163): the handle, or the error code; the declared pipeline holds the launch's image (R99). -/
def State.pipeDeclare (s : State) (b : PipeBlock) : State × Except Nat Nat :=
  let cl := clusterOf s.cur
  let x := s.me
  if b.reserved then (s, .error 1)
  else if ¬ s.blockOk b then (s, .error 2)
  else if b.cores = [] ∨ b.cores.any (fun c => !s.coreIn (cl * 256 + c)) ∨ 4 * b.cores.length < b.k then (s, .error 3)
  else
    let free := freeNumber (s.cluster cl).pipes 16
    match s.allocPlain cl (free.getD 16) (b.descs.take b.nq) with
    | none => (s, .error 4)
    | some (s', qs) => match free with
      | none => (s, .error 5)
      | some n =>
        (s'.modCluster cl (fun c => { c with pipes := Tab.set c.pipes n { lid := x.lid, token := x.ctok, pid := s.pidOf s.cur, owner := x.lid, cores := b.cores, done := b.done, queues := qs, stages := b.templates.map stageTemplate } }), .ok n)

/-- A result of a PIPE instruction travels to its register, or to the inbox as `msg` (R125, R162). -/
def State.pipeResult (s : State) (t : BitVec 6) (sel : Nat) (v msg : Reg64) : State :=
  s.postTo t.toNat (.value (if t = 0 then msg else v) []) (fun q => { q with major := 0x1B, sel := sel })

/-- PIPEDECL's result, and the same as an inbox message carries it: the handle or the code in its info, the code as its status (R162, R163). -/
def declared (r : Except Nat Nat) (reg : Bool) : Reg64 :=
  match r with
  | .ok h => r64 (if reg then h else h * 256)
  | .error e => r64 (if reg then 2 ^ 63 + e else e * 256 + e)

/-- PIPEDECL reads its block at issue, or later while an acquire, or an access of its slot, holds it back (R162, R163, R243). -/
def execPipedecl (f t : BitVec 6) (s : State) : Host.Outcome State Fault Refusal :=
  run (.pipedecl f t) s (fun s =>
    let a := s.getG f.toNat
    if a.toNat % 64 ≠ 0 then .trap 2 a
    else if ¬ s.inScratchpads a 256 then .trap 3 a
    else
      let n := blockBytes (Mem.read (s.view s.cur) (offset a) 1 % 16)
      if ¬ s.inScratchpads a n then .trap 3 a
      else withSpmEcc s [(offset a, n)] (fun s =>
        if s.accessesHeld ∨ s.ownBusy (offset a) n = true then .done (s.postTo t.toNat (.declare a) (fun q => { q with major := 0x1B }))
        else
          let r := s.pipeDeclare (pipeBlock (s.view s.cur) (offset a))
          .done (r.1.pipeResult t 0 (declared r.2 true) (declared r.2 (t != 0)))))

/-- A value that has been formed reaches its register or the inbox (R125). The next part of a load that was held or
is on its way, a VTILD or a PIPEDECL is performed once no acquire holds it and no earlier access of its slot is in its way (R214, R243). -/
def execPendingValueArrival (op : Nat) (s : State) : Host.Outcome State Fault Refusal :=
  .next (match s.op? op with
    | some o => match o.kind with
      | .value v words => (s.resolve o v words).dropOp op
      | .load parts rest sx =>
        if s.heldBack o ∨ s.portShut o = true ∨ parts.head?.any (fun p => s.earlierAtomic o p.1 p.2.1) = true then s else s.performLoad o parts rest sx
      | .table dst n src =>
        if s.heldBack o ∨ s.earlierAtomic o src n = true then s else (s.dropOp op).copyTable (cidOf o.owner) dst (Mem.bytes (s.viewBefore o) src n)
      | .declare a =>
        let b := pipeBlock (s.viewBefore o) (offset a)
        if s.heldBack o ∨ s.earlierAtomic o (offset a) (blockBytes b.k) = true then s
        else
          let r := ({ s with cur := o.owner } : State).pipeDeclare b
          (({ r.1 with cur := s.cur } : State).resolve o (declared r.2 o.off.isSome) []).dropOp op
      | _ => s
    | none => s)

/-- The pipeline a register names, held by the process (R164, R165). -/
def State.pipe? (s : State) (v : Reg64) : Option Pipe :=
  if 16 ≤ v.toNat then none
  else match Tab.get? (s.cluster (clusterOf s.cur)).pipes v.toNat with
    | some p => if p.pid = s.pidOf s.cur then some p else none
    | none => none

/-- The shares of k stages over S slots (R114). -/
def pipeShares (k n : Nat) : List Nat := (List.range k).map (fun i => n / k + (if i < n % k then 1 else 0))

/-- The controller joins the done phaser in mode .sig, where it names one of the process (R392). -/
def State.joinDone (s : State) (cl n : Nat) (p : Pipe) : State × Bool :=
  if p.done = 0xFFFF ∨ 2 ^ 15 ≤ p.done ∨ ¬ s.holds p.pid (p.done / 512) then (s, false)
  else match s.phaser? p.done with
    | none => (s, false)
    | some q =>
      if 1024 ≤ q.members.length then (s, false)
      else ({ s.setPhaser p.done { q with members := q.members ++ [⟨ctlUid cl n, true, false, false, q.phase, s.nextId⟩] } with nextId := s.nextId + 1 }, true)

def execPipego (f t : BitVec 6) (s : State) : Host.Outcome State Fault Refusal :=
  run (.pipego f t) s (fun s =>
    let v := s.getG f.toNat
    let cl := clusterOf s.cur
    match s.pipe? v with
    | none => .done (s.pipeResult t 1 1 1)
    | some p =>
      if p.started then .done (s.pipeResult t 1 2 2)
      else
        let r := s.joinDone cl v.toNat p
        let p' := { p with started := true, shares := pipeShares p.stages.length (4 * p.cores.length), lid := s.me.lid, token := s.me.ctok, nextCheck := s.clk + 4096, joined := r.2 }
        .done (((r.1.modCluster cl (fun c => { c with pipes := Tab.set c.pipes v.toNat p' })).pokePipe cl v.toNat).pipeResult t 1 0 0))

/-- PIPEWAIT completes at the first idle moment after its issue (R165). -/
def execPipewait (f t : BitVec 6) (x : BitVec 1) (s : State) : Host.Outcome State Fault Refusal :=
  run (.pipewait f t x) s (fun s =>
    let v := s.getG f.toNat
    match s.pipe? v with
    | none => .done (s.pipeResult t 2 1 1)
    | some _ => .done ((s.postTo t.toNat (.pipewait v.toNat (x == 1)) (fun q => { q with major := 0x1B, sel := 2 })).pokePipe (clusterOf s.cur) v.toNat))

/-! ## The controller (R115, R116) -/

/-- A DQPOP on the queue would deliver something (R115). -/
def State.queueReady (s : State) (cl h : Nat) : Bool :=
  match s.dq? cl h, s.pq? cl h with
  | some q, _ => !q.halted && (q.pop 0).isSome
  | none, some q => (q.pop 0).isSome
  | none, none => false

/-- An output queue is full (R115). -/
def State.queueFull (s : State) (cl h : Nat) : Bool :=
  match s.dq? cl h, s.pq? cl h with
  | some q, _ => decide (q.storage ≤ q.recs.length) && (decide (3 * q.cap / 64 ≤ q.chunks) || decide ((s.cluster cl).pool < 2048))
  | none, some q => decide (q.cap ≤ q.count)
  | none, none => false

def State.stageBlocked (s : State) (cl : Nat) (p : Pipe) (stage : Nat) : Bool := p.queues.any (fun q => q.prod == stage && s.queueFull cl q.handle)

/-- The image of the stage tasks' launch, loaded or resident (R98); none once that launch has retired, and no stage task is placed (log 85, the
model's choice). -/
def State.stageImage (s : State) (cl : Nat) (p : Pipe) : Option State :=
  match s.launch? p.lid with | some l => if (s.imageFault cl l).isSome then none else s.loadImage cl l | none => none

/-- A stage task that fits but for its launch's image meets the fill fault of that image, where it has one (R99, R286). -/
def State.stageFault (s : State) (cl : Nat) (p : Pipe) (t : StageTemplate) : State :=
  match s.launch? p.lid with
  | none => s
  | some l => match s.imageFault cl l with
    | none => s
    | some va => if (s.noImage cl l ∨ (s.loadImage cl l).isSome) ∧ p.cores.any (fun c => (s.placeFor p.lid (cl * 256 + c) t.window t.scratch t.phasers).isSome) then s.fillFault cl l va else s

/-- A stage task is placed on the lowest core of the core set that it fits (R115, R164). -/
def execStageTaskPlacement (cl pipe stage : Nat) (s : State) : Host.Outcome State Fault Refusal :=
  .next (match Tab.get? (s.cluster cl).pipes pipe with
    | none => s
    | some p => match p.stages[stage]?, p.queues.find? (fun q => q.cons == stage) with
      | some t, some q =>
        if ¬ p.started ∨ p.shares.getD stage 0 ≤ s.stageTasks cl pipe (some stage) ∨ ¬ s.queueReady cl q.handle ∨ s.stageBlocked cl p stage then s
        else match s.stageImage cl p with
          | none => s.stageFault cl p t
          | some s' =>
            match p.cores.findSome? (fun c => (s'.placeFor p.lid (cl * 256 + c) t.window t.scratch t.phasers).map (fun w => (cl * 256 + c, w))) with
            | none => s
            | some (cid, w) => s'.startTask cid w { entry := t.entry, regs := [(1, t.args), (2, r64 q.handle), (3, r64 stage), (4, r64 pipe)], window := t.window, scratch := t.scratch, phasers := t.phasers, tid := 0, lid := p.lid, ctok := p.token, watch := t.watch, sc := t.sc, sp := true, stage := some ⟨pipe, stage, 0⟩ }
      | _, _ => s)

/-- The occupancy of a stage as records and capacity (R116). -/
def State.stageOccupancy (s : State) (cl : Nat) (p : Pipe) (stage : Nat) : Nat × Nat :=
  match p.queues.find? (fun q => q.cons == stage) with
  | none => (0, 1)
  | some q => match s.dq? cl q.handle, s.pq? cl q.handle with
    | some d, _ => (d.recs.length, d.cap)
    | none, some d => (d.count, d.cap)
    | none, none => (0, 1)

/-- The best of a list of stages by a strict order on occupancies; ties keep the lowest (R116). -/
def bestStage (occ : Nat → Nat × Nat) (better : Nat × Nat → Nat × Nat → Bool) : List Nat → Option Nat
  | [] => none
  | i :: l => some (l.foldl (fun b j => if better (occ j) (occ b) then j else b) i)

/-- a's occupancy is below b's. -/
def occLess (a b : Nat × Nat) : Bool := decide (a.1 * b.2 < b.1 * a.2)

/-- Every 4,096 clk the controller picks the donor and the recipient of one share (R116). -/
def execPipelineOccupancyCheck (cl pipe : Nat) (s : State) : Host.Outcome State Fault Refusal :=
  .next (match Tab.get? (s.cluster cl).pipes pipe with
    | none => s
    | some p =>
      if ¬ p.started ∨ s.clk < p.nextCheck then s
      else
        let all := List.range p.stages.length
        let occ := s.stageOccupancy cl p
        let move := match bestStage occ occLess (all.filter (fun i => decide (2 ≤ p.shares.getD i 0))), bestStage occ (fun a b => occLess b a) (all.filter (fun i => !s.stageBlocked cl p i)) with
          | some d, some r => if d = r ∨ (¬ occLess (occ d) (occ r) ∧ ¬ occLess (occ r) (occ d)) then none else some (d, r)
          | _, _ => none
        s.modCluster cl (fun c => { c with pipes := Tab.set c.pipes pipe { p with nextCheck := p.nextCheck + 4096, move := if p.move.isSome then p.move else move } }))

end Sys2Proof.Machine
end

