-- ==== Sys2Proof/Machine/Outside.lean ====
section
/-! DEFINITION. The outside: the acceptance of requests (R403), the host (R395 to R399) and the management plane (R24, R407 to
R411). -/

namespace Sys2Proof.Machine

/-! ## Requests (R403) -/

/-- The kinds whose acceptance is an event of its own; the others are accepted where they are carried out. -/
def acceptedApart (k : OpKind) : Bool :=
  match k with
  | .atomic _ _ _ _ _ _ _ _ _ | .fullEmpty _ _ _ | .qsend _ _ _ => true
  | _ => false

/-- An access that an acquire of its slot holds in the network interface (R243). -/
def isAccess (k : OpKind) : Bool := match k with | .qsend _ _ _ => false | _ => true

/-- The destination can accept a request: an atomic's unit takes requests, and one of this part has the space for its response, a reply-cache
entry (R293, R401, R402). -/
def State.accepts (s : State) (o : Op) : Bool :=
  match o.kind with
  | .atomic _ _ a _ _ _ _ _ _ => let u := s.callUnit a; s.unitTakes u && (decide (2 ^ 20 ≤ u) || !s.cacheFull u)
  | _ => true

/-- What the destination holds of a request it has accepted: of an atomic of this part the space for its response (R402). -/
def State.holdSpace (s : State) (o : Op) : State :=
  match o.kind with
  | .atomic _ _ a _ _ _ _ _ _ => if s.callUnit a < 2 ^ 20 then { s with replies := s.replies ++ [⟨s.callUnit a, o.id, none⟩] } else s
  | _ => s

/-- The destination accepts a request that has reached it, holds the space for its response, and the request buffer slot is free (R402,
R403). -/
def execRequestAcceptance (op : Nat) (s : State) : Host.Outcome State Fault Refusal :=
  .next (match s.op? op with
    | some o => if o.buf ∧ acceptedApart o.kind ∧ ¬ (isAccess o.kind ∧ s.heldBack o) ∧ s.arrived o ∧ s.accepts o then (s.holdSpace o).setOp { o with buf := false } else s
    | none => s)

/-! ## Launch rings (R397, R398) -/

def State.ring? (s : State) (die n : Nat) : Option LaunchRing := s.rings.find? (fun r => r.die == die && r.n == n)
def State.setRing (s : State) (r : LaunchRing) : State := { s with rings := s.rings.map (fun q => if q.die = r.die ∧ q.n = r.n then r else q) }

/-- A ring descriptor (R397). -/
def LaunchRing.ofDesc (die n d : Nat) : LaunchRing :=
  { die := die, n := n, base := r64 (d / 2 ^ 128), stat := r64 (d / 2 ^ 192), pid := BitVec.ofNat 16 (d / 2 ^ 112), s := d / 2 ^ 108 % 16, vec := d / 2 ^ 96 % 4096 }

def ringOk (d : Nat) (r : LaunchRing) : Bool :=
  d % 2 ^ 96 == 0 && decide (4 ≤ r.s) && decide (r.s ≤ 12) && r.base.toNat % 64 == 0 && r.stat.toNat % 8 == 0

/-- A ring is registered with a command processor, which takes up to 16 (R397). -/
def execRingRegistration (die : Nat) (desc : BitVec 256) (s : State) : Host.Outcome State Fault Refusal :=
  .next (match (List.range 16).find? (fun n => (s.ring? die n).isNone) with
    | some n =>
      let r := LaunchRing.ofDesc die n desc.toNat
      if die < 4 ∧ ringOk desc.toNat r then { s with rings := s.rings ++ [r] } else s
    | none => s)

/-- Some byte of a range has a sum at a nib that runs a routine: what reads or writes it waits (R336, R399, log 71). -/
def State.hostBusy (s : State) (pid : BitVec 16) (va n : Nat) : Bool :=
  (List.range n).any (fun i => (s.translate pid (va + i) false false false).any (fun p => s.foldBusy p.1 1))

/-- A range of external memory read through the stations for the host or a command processor, sums folded first (R237, R399). -/
def State.hostRead (s : State) (pid : BitVec 16) (va n : Nat) : State × Option (List Byte) :=
  let s := s.foldVirt pid va n
  let r := s.readVirt pid va n
  (s, if r.2 then some r.1 else none)

def wordBytes (n : Nat) (v : Reg64) : List Byte := (List.range n).map (fun i => BitVec.ofNat 8 (v.toNat / 256 ^ i))

/-- The ring stops, and says so on its vector (R397); word 1 is a free value (log 2). -/
def State.stopRing (s : State) (r : LaunchRing) : State :=
  let f := s.freeVal
  (f.2.setRing { r with stopped := true }).interrupt r.vec 0xFFFFFFFFFFFFFFFF f.1

/-- Records from the tail count on are read, accepted or rejected, and answered (R397). -/
def State.ringGo (s : State) (die n : Nat) : Nat → State
  | 0 => s
  | k + 1 =>
    match s.ring? die n with
    | none => s
    | some r =>
      let i := r.tail % 2 ^ r.s
      let t := s.hostRead r.pid (r.base.toNat + 64 * i) 64
      match t.2 with
      | none => t.1.stopRing r
      | some l =>
        let a := t.1.acceptRecord die r.pid (.ring die n) ((List.range 8).map (fun j => r64 (natOfBytes ((l.drop (8 * j)).take 8))))
        let s := ((a.1.foldVirt r.pid (r.stat.toNat + 8 * i) 8).writeVirt r.pid (r.stat.toNat + 8 * i) (wordBytes 8 (r64 (a.2.2.toNat + a.2.1 * 2 ^ 32)))).1
        (s.setRing { r with tail := r.tail + 1 }).ringGo die n k

/-- The head count of a ring is written (R397): a head out of range stops the ring. -/
def execRingHeadWrite (die ring : Nat) (head : BitVec 64) (s : State) : Host.Outcome State Fault Refusal :=
  .next (match s.ring? die ring with
    | none => s
    | some r =>
      if r.stopped ∨ s.hostBusy r.pid r.base.toNat (64 * 2 ^ r.s) ∨ s.hostBusy r.pid r.stat.toNat (8 * 2 ^ r.s) then s
      else if head.toNat < r.tail ∨ 2 ^ r.s < head.toNat - r.tail then s.stopRing r
      else s.ringGo die ring (head.toNat - r.tail))

/-! ## Host accesses (R396, R399) -/

def State.tell (s : State) (m : HostMsg) : State := { s with outbox := s.outbox ++ [m] }

/-- A range the host may name: external memory, at most 4 KiB. -/
def hostRange (va : Reg64) (n : Nat) : Bool := decide (0x40000000 ≤ va.toNat) && decide (va.toNat + n ≤ 2 ^ 48) && decide (n ≤ 4096)

def execHostMemoryRead (pid : BitVec 16) (va : BitVec 64) (len : Nat) (s : State) : Host.Outcome State Fault Refusal :=
  .next (if ¬ hostRange va len then s.tell (.accessFault va)
    else if s.hostBusy pid va.toNat len then s
    else
      let r := s.hostRead pid va.toNat len
      match r.2 with
      | some l => r.1.tell (.readData l)
      | none => r.1.tell (.accessFault va))

/-- The bytes before a page that faults are written. -/
def execHostMemoryWrite (pid : BitVec 16) (va : BitVec 64) (bytes : List (BitVec 8)) (s : State) : Host.Outcome State Fault Refusal :=
  .next (if ¬ hostRange va bytes.length then s.tell (.accessFault va)
    else if s.hostBusy pid va.toNat bytes.length then s
    else
      let r := (s.foldVirt pid va.toNat bytes.length).writeVirt pid va.toNat bytes
      r.1.tell (if r.2 = bytes.length then .writeDone else .accessFault va))

/-! ## Management (R24, R407 to R411) -/

/-- A unit is tested in step 2 of bring-up: all but the links, ports and UCIe modules, which train in steps 4 to 6 (R411). -/
def testedFirst (u : Nat) : Bool := !(decide (18688 ≤ u) && decide (u < 18752)) && decide (u < 21096)

/-- Step 2 of bring-up, once the management firmware is verified: the units that fail their test leave service (R26, R411). -/
def State.testUnits (s : State) : State := (s.selfTest.filter testedFirst).foldl State.unitLeaves { s with selfTest := s.selfTest.filter (fun u => !testedFirst u) }

/-- The management controller has its verified firmware. -/
def State.managed (s : State) : Bool := s.firmware.any (fun f => f.unit == 0)

/-- An image is accepted only with a signature that verifies and a version not below the fused rollback counter (R409). Units: 0
the management controller, 1 to 4 command processors, 5 to 260 channel controllers. In reset the order is that of R411: the management
firmware first, with which the units are tested, and then the others' images, none of which anything takes before. -/
def execFirmwareImage (unit version : Nat) (sigOk : Bool) (digest : BitVec 256) (s : State) : Host.Outcome State Fault Refusal :=
  .next (
    if 261 ≤ unit ∨ (¬ s.ready ∧ unit ≠ 0 ∧ ¬ s.managed) then s
    else
    let s := if ¬ s.ready ∧ unit = 0 ∧ sigOk ∧ s.rollback ≤ version then s.testUnits else s
    if sigOk ∧ s.rollback ≤ version then
      ({ s with firmware := s.firmware.filter (fun f => f.unit != unit) ++ [⟨unit, version, digest⟩], refused := s.refused.filter (fun u => u != unit) } : State).tell (.firmware unit true)
    else ({ s with refused := if s.ready then s.refused else insertNat unit s.refused } : State).tell (.firmware unit false))

/-- The 64-bit words of a 256-bit value, lowest first. -/
def words256 (d : BitVec 256) : List Reg64 := (List.range 4).map (fun i => r64 (d.toNat / 2 ^ (64 * i)))

/-- The report (R409): cap.id, the digest of each loaded image, the rollback counter, the nonce, and the signature, whose 3,309
bytes are free values (log 2). -/
def execAttestationReport (nonce : BitVec 256) (s : State) : Host.Outcome State Fault Refusal :=
  .next (
    let sig := (List.range 414).map (fun i => Config.freeWord (s.free + i))
    let words := [0x504B0A0900010000] ++ s.firmware.flatMap (fun f => words256 f.digest) ++ [r64 s.rollback] ++ words256 nonce ++ sig
    ({ s with free := s.free + 414 } : State).tell (.attestation words))

/-- What telemetry reads (R407): 0 monitor fallbacks of a cluster, 1 notices dropped by a core, 2 records overwritten in a cluster's
error area, 3 event times of a unit, the last first, 4 and 5 a die's temperature and power (free values, log 2), 6 its throttle
level, 7 whether a UCIe module of the host link is lost (R395). -/
def execTelemetryRead (item index : Nat) (s : State) : Host.Outcome State Fault Refusal :=
  .next (match item with
    | 0 => if index < 64 then s.tell (.telemetry (s.cluster index).monFall) else s
    | 1 => if index < 16384 then s.tell (.telemetry (s.core index).noticeDrops) else s
    | 2 => if index < 64 then s.tell (.telemetry (s.cluster index).errOver) else s
    | 3 => (Tab.getD s.unitTimes index []).foldl (fun s t => s.tell (.telemetry t)) s
    | 4 | 5 => if index < 4 then (let f := s.freeVal; f.2.tell (.telemetry f.1.toNat)) else s
    | 6 => if index < 4 then s.tell (.telemetry (Tab.getD s.throttle index 0)) else s
    | 7 => if index < 2 then s.tell (.telemetry (s.modulesOut.contains index).toNat) else s
    | _ => s)

/-- Settings of system software (R398, R404, R407, R408): 0 the watchdog period in clk, 1 the power limit in watts, 2 the escape
wait, 3 and 4 the vectors of fault-record and watchdog notices. A value out of range changes nothing. -/
def execManagementSettingWrite (item value : Nat) (s : State) : Host.Outcome State Fault Refusal :=
  .next (match item with
    | 0 => if 1800000 ≤ value ∧ value ≤ 18000000000 then { s with watchdogPeriod := value } else s
    | 1 => if value ≤ 3000 then { s with powerLimit := value } else s
    | 2 => if 16 ≤ value ∧ value ≤ 65535 then { s with escapeWait := value } else s
    | 3 => if value < 4096 then { s with faultVec := value } else s
    | 4 => if value < 4096 then { s with watchdogVec := value } else s
    | _ => s)

/-- A die's throttle level changes at the start of the next throttle period, at most once per 100 µs (R24, R408). -/
def execThrottleLevelChange (die level : Nat) (s : State) : Host.Outcome State Fault Refusal :=
  .next (
    if 4 ≤ die ∨ 8 ≤ level ∨ (Tab.get? s.throttleAt die).any (fun t => decide (s.clk < t + 180000)) = true then s
    else { s with throttleNext := Tab.set s.throttleNext die (level, s.clk / 8 + 1), throttleAt := Tab.set s.throttleAt die s.clk })

/-- A die at its shutdown temperature: power is removed, work in flight is lost, and the cause is kept (R410). -/
def execThermalShutdown (die : Nat) (s : State) : Host.Outcome State Fault Refusal :=
  .next (if 4 ≤ die then s
    else { State.reset with powered := false, shutdownCause := some die, rollback := s.rollback, agenda := s.agenda, free := s.free, nextId := s.nextId, outbox := s.outbox, softErrors := s.softErrors, selfTest := s.selfTest, topology := s.topology, lostPeers := s.lostPeers, descheduled := s.descheduled })

/-- The topology image joins the part to a domain (R400): its signature verifies, the part has a trained port and an index below the
domain's size, and each route leaves by a trained port and passes at most two other parts. -/
def State.joinsDomain (s : State) (ports : BitVec 16) (size : BitVec 8) (index : BitVec 5) : Bool :=
  s.topology.sigOk && decide (ports ≠ 0) && decide (1 ≤ size.toNat) && decide (size.toNat ≤ 32) && decide (index.toNat < size.toNat)
    && s.topology.routes.all (fun r => decide (r.part < size.toNat) && r.part != index.toNat && ports.getLsbD r.port && decide (r.via.length ≤ 2))

/-- The images without which the part stays in reset (R411): the management controller's and the command processors', all verified, and
none refused (R409). -/
def State.verified (s : State) : Bool := (List.range 5).all (fun u => s.firmware.any (fun f => f.unit == u)) && s.refused.isEmpty

/-- The ports of a mask that have not left service (R27): what a port trained before it left does not count. -/
def State.portsUp (s : State) (ports : BitVec 16) : BitVec 16 :=
  (List.range 16).foldl (fun (m : BitVec 16) w => if (s.link (48 + w)).down then m &&& ~~~(BitVec.ofNat 16 (2 ^ w)) else m) ports

/-- Bring-up after the images, in the order of R411: links and modules that do not train leave service (R26, R395), the domain forms (R400), the capability registers take their values, and the ready message goes out. An image that is missing or was refused keeps
the part in reset (R409), and so do two lost modules, since no message can go out (log 66). A part that joins no domain has one of its own
(R29). -/
def execBringUp (ports : BitVec 16) (size : BitVec 8) (index : BitVec 5) (s : State) : Host.Outcome State Fault Refusal :=
  .next (
    if s.ready ∨ ¬ s.verified then s
    else
      let s : State := { s.selfTest.foldl State.unitLeaves s with selfTest := [], powered := true }
      let s : State := { s with ports := s.portsUp ports }
      if s.modulesOut.contains 0 ∧ s.modulesOut.contains 1 then s
      else
        let joined := s.joinsDomain s.ports size index
        ({ s with ready := true, domSize := if joined then size else 1, domIndex := if joined then index else 0 } : State).tell .ready)

end Sys2Proof.Machine
end

