-- ==== Sys2Proof/Machine/Panels.lean ====
section
/-! DEFINITION. Panels: operand slots, semaphores, the shadow, the matrix engine, tiles, rectangles and sub-arrays (R57, R342 to R364,
R417, R418). -/

namespace Sys2Proof.Machine

/-! ## Formats of the matrix engine (R353) -/

structure MxClass where
  n : Nat
  kmax : Nat
  g : Nat
  acc : TileTag
  /-- FMA per clk. -/
  rate : Nat
  deriving DecidableEq, Repr

def mxClass (fmt : Nat) : Option MxClass :=
  if fmt = 8 then some ⟨1, 32, 1, .fp64, 64⟩
  else if fmt = 7 then some ⟨2, 64, 2, .fp32, 256⟩
  else if fmt = 5 ∨ fmt = 6 then some ⟨3, 128, 4, .fp32, 1024⟩
  else if 1 ≤ fmt ∧ fmt ≤ 4 then some ⟨4, 256, 8, .fp32, 4096⟩
  else if fmt = 9 then some ⟨5, 256, 8, .i32, 4096⟩
  else none

/-! ## The shadow's fields (R352) -/

def mxK (w : Reg64) : Nat := bits w 48 9
def mxN (w : Reg64) : Nat := bits w 40 6 + 1
def mxM (w : Reg64) : Nat := bits w 32 6 + 1
def mxSparse (w : Reg64) : Nat := bits w 22 2
def mxTb (w : Reg64) : Bool := bits w 21 1 == 1
def mxTa (w : Reg64) : Bool := bits w 20 1 == 1
def mxBf (w : Reg64) : Nat := bits w 16 4
def mxAf (w : Reg64) : Nat := bits w 12 4
def mxAcc (w : Reg64) : Bool := bits w 11 1 == 1
def mxTile (w : Reg64) : Nat := bits w 8 3
def mxBs (w : Reg64) : Nat := bits w 4 4
def mxAs (w : Reg64) : Nat := bits w 0 4

/-- The shadow is one that MXCFG and MXGO trap on (R353). -/
def mxBad (w w1 : Reg64) : Bool :=
  bits w 57 7 != 0 || bits w 46 2 != 0 || bits w 38 2 != 0 || bits w 24 8 != 0 || bits w1 16 48 != 0
    || (match mxClass (mxAf w), mxClass (mxBf w) with
      | some a, some b =>
        a != b || mxK w == 0 || decide (a.kmax < mxK w) || mxK w % a.g != 0 || (a.n == 1 && mxTile w % 2 == 1) || mxSparse w == 3
          || (mxSparse w != 0 && (mxTa w || mxAf w == 3 || mxAf w == 4 || mxRect w1 != 0)) || (mxSparse w == 1 && mxK w % 16 != 0)
      | _, _ => true)

/-! ## Rectangles (R361, R362) -/

/-- Where an operation of panel p finds A and B: panel and slot of each (R362). -/
def State.mxSources (s : State) (p : Nat) (w w1 : Reg64) : (Nat × Nat) × (Nat × Nat) :=
  match (if mxRect w1 = 0 then none else s.rectOf p (mxRect w1)) with
  | none => ((p, mxAs w), (p, mxBs w))
  | some r =>
    let cl := p / 32
    match (rectMembers cl r).find? (fun m => m.1 == p) with
    | none => ((p, mxAs w), (p, mxBs w))
    | some m =>
      let pa := cl * 32 + (r.2.1 + m.2.1) * 8 + r.2.2.1
      let pb := cl * 32 + r.2.1 * 8 + r.2.2.1 + m.2.2
      let of := fun (q : Nat) (f : Reg64 → Nat) (d : Nat) => match ((s.panel q).committed.bind s.op?).map (fun o => o.kind) with | some (.mx _ v _ _ _) => f v | _ => d
      ((pa, of pa mxAs (mxAs w)), (pb, of pb mxBs (mxBs w)))

/-! ## Elements (R349) -/

/-- The values of a slot read as a format. -/
def slotValues (m : Mem) (p n fmt h : Nat) : Array XNum :=
  let b := slotBase p n
  if fmt = 4 then
    ((List.range 256).flatMap (fun g => decodePef8 (Mem.read m (b + 64 * g) 64))).toArray
  else if fmt = 3 then
    ((List.range 16384).map (fun e =>
      let sc := if h = 0 then e / 32 else e / h / 32 * h + e % h
      bs8Value (Mem.read m (scaleBase p n + sc) 1) (Mem.read m (b + e) 1))).toArray
  else
    let w := 2 ^ (codeLog fmt).getD 0
    ((List.range (16384 / w)).map (fun e => codeValue fmt (Mem.read m (b + e * w) w))).toArray

def at' (a : Array XNum) (i : Nat) : XNum := a.getD i (.zero false)

/-! ## Sums (R57, R58) -/

/-- One group added to the accumulator: the exact sum rounded once under RNE; an integer sum is taken modulo 2^32. -/
def groupAdd (t : TileTag) (acc : Nat) (terms : List XNum) : Nat :=
  match t with
  | .i32 =>
    let v := terms.foldl (fun (n : Int) x => n + sumUnits 0 [x]) (asSigned 32 acc)
    wrap 32 v
  | .fp32 => (fp32.round .rne false 0 (exactSum false (fp32.decode acc :: terms)).1).bits
  | .fp64 => (fp64.round .rne false 0 (exactSum false (fp64.decode acc :: terms)).1).bits

/-- Groups of g terms, the last perhaps shorter, in ascending order. -/
def groupsGo (t : TileTag) (g : Nat) : Nat → Nat → List XNum → Nat
  | 0, acc, _ => acc
  | f + 1, acc, l => if l.isEmpty then acc else groupsGo t g f (groupAdd t acc (l.take g)) (l.drop g)

def sumGroups (t : TileTag) (g acc : Nat) (l : List XNum) : Nat := groupsGo t g l.length acc l

/-- The start of a sum that does not accumulate (R57, R355). -/
def startSum : TileTag → Nat
  | .i32 => 0
  | .fp32 => 2 ^ 31
  | .fp64 => 2 ^ 63

/-! ## Sparse metadata (R355, R356) -/

/-- rp[i] and col[p] of a metadata slot. -/
def metaRp (m : Mem) (p n i : Nat) : Nat := Mem.read m (slotBase p n + 2 * i) 2
def metaCol (m : Mem) (p n i : Nat) : Nat := Mem.read m (slotBase p n + 256 + 2 * i) 2

/-- rp starts at 0 and does not decrease over n steps. -/
def rpOk (rp : Nat → Nat) (n : Nat) : Bool := rp 0 == 0 && (List.range n).all (fun i => decide (rp i ≤ rp (i + 1)))

def metaOk (m : Mem) (p ms : Nat) (w : Reg64) : Bool :=
  let rp := metaRp m p ms
  let col := metaCol m p ms
  let e := 2 ^ (codeLog (mxAf w)).getD 0
  if mxSparse w = 1 then rpOk rp 4 && decide (rp 4 ≤ 16384 / (256 * e)) && (List.range (rp 4)).all (fun i => decide (col i < mxK w / 16))
  else rpOk rp 64 && decide (rp 64 ≤ min (16384 / e) 8064) && (List.range (rp 64)).all (fun i => decide (col i < mxK w))

/-! ## The operation (R354 to R357) -/

/-- The products of element (i, j), in the order of their sum. -/
def mxTerms (m : Mem) (p ms : Nat) (w : Reg64) (c : MxClass) (a b : Array XNum) (i j : Nat) : List XNum :=
  let bAt := fun (kk : Nat) => at' b (if mxTb w then j * c.kmax + kk else kk * 64 + j)
  let prod := fun (x y : XNum) => (exactMul x y).1
  if mxSparse w = 0 then
    (List.range (mxK w)).map (fun kk => prod (at' a (if mxTa w then kk * 64 + i else i * c.kmax + kk)) (bAt kk))
  else if mxSparse w = 1 then
    let lo := metaRp m p ms (i / 16)
    let n := metaRp m p ms (i / 16 + 1) - lo
    (List.range n).flatMap (fun d =>
      let blk := lo + d
      let col := metaCol m p ms blk
      (List.range 16).map (fun x => prod (at' a (256 * blk + 16 * (i % 16) + x)) (bAt (16 * col + x))))
  else
    let lo := metaRp m p ms i
    let n := metaRp m p ms (i + 1) - lo
    (List.range n).map (fun d => prod (at' a (lo + d)) (bAt (metaCol m p ms (lo + d))))

/-- The tile after an operation, element by element; groups of sparse blocks fall on group bounds. -/
def State.mxTileAfter (s : State) (p : Nat) (w : Reg64) (ms : Nat) (src : (Nat × Nat) × (Nat × Nat)) (c : MxClass) : Mem :=
  let ha := ((s.panel src.1.1).slot src.1.2).h
  let hb := ((s.panel src.2.1).slot src.2.2).h
  let a := slotValues s.opMem src.1.1 src.1.2 (mxAf w) ha
  let b := slotValues s.opMem src.2.1 src.2.2 (mxBf w) hb
  let k := Panel.tileWidth c.acc
  (List.range (mxM w)).foldl (fun m i => (List.range (mxN w)).foldl (fun m j =>
    let q := tileAt p (mxTile w) c.acc (64 * i + j)
    let acc := if mxAcc w then Mem.read s.accMem q k else startSum c.acc
    Mem.write m q k (sumGroups c.acc c.g acc (mxTerms s.opMem p ms w c a b i j))) m) s.accMem

/-- An operand slot read as a format with row length l is not claimed (1), or its tag does not agree (2) (R357). -/
def State.slotCode (s : State) (q : Nat × Nat) (fmt l : Nat) : Nat :=
  let x := (s.panel q.1).slot q.2
  if ¬ x.claimed then 1
  else if x.fmt ≠ fmt ∧ (x.fmt ≠ 0 ∨ fmt = 3 ∨ fmt = 4) then 2
  else if fmt = 3 ∧ x.h ≠ 0 ∧ x.h ≠ l then 2
  else 0

/-- The lower of two error codes, 0 being none. -/
def worse (a b : Nat) : Nat := if a = 0 then b else if b = 0 then a else min a b

/-- The error of the operands of an operation. -/
def State.operandCode (s : State) (p : Nat) (w w1 : Reg64) (ms : Nat) : Nat :=
  match mxClass (mxAf w) with
  | none => 2
  | some c =>
    let src := s.mxSources p w w1
    let la := if mxTa w then 64 else c.kmax
    let lb := if mxTb w then c.kmax else 64
    let m := if mxSparse w ≠ 0 ∧ ¬ ((s.panel p).slot ms).claimed then 1 else 0
    worse m (worse (s.slotCode src.1 (mxAf w) la) (s.slotCode src.2 (mxBf w) lb))

/-- The error of the tile and the metadata. -/
def State.tileCode (s : State) (p : Nat) (w : Reg64) (ms : Nat) : Nat :=
  match mxClass (mxAf w) with
  | none => 2
  | some c =>
    let t := (s.panel p).tile (mxTile w)
    if mxAcc w ∧ t.invalid then 3
    else if mxAcc w ∧ (t.tag ≠ c.acc ∨ (c.acc = .fp32 ∧ t.tag = .fp64)) then 4
    else if mxSparse w ≠ 0 ∧ ¬ metaOk s.opMem p ms w then 5
    else 0

/-- Sub-arrays an operation needs (R363). -/
def mxSubs (w w1 : Reg64) : List Nat := List.range (if mxRect w1 ≠ 0 then 4 else (mxM w + 15) / 16)

/-- The time of an operation (R358). -/
def State.mxTime (s : State) (p : Nat) (w w1 : Reg64) (ms : Nat) : Nat :=
  match mxClass (mxAf w) with
  | none => 0
  | some c =>
    let t := 64 * 64 * c.kmax / c.rate
    let base := if mxSparse w = 0 then t
      else if mxSparse w = 1 then max 16 ((metaRp s.opMem p ms 4 * t + c.kmax / 4 - 1) / (c.kmax / 4))
      else max 16 ((64 * metaRp s.opMem p ms 64 + c.rate - 1) / c.rate)
    base + (match (if mxRect w1 = 0 then none else s.rectOf p (mxRect w1)) with | some r => 16 * (r.2.2.2.1 + r.2.2.2.2 - 2) | none => 0)

/-- The committed operation of a panel. -/
def State.committedOp (s : State) (p : Nat) : Option (Op × Reg64 × Reg64 × Nat) :=
  match (s.panel p).committed.bind s.op? with
  | some o => match o.kind with | .mx _ w w1 ms _ => some (o, w, w1, ms) | _ => none
  | none => none

/-- An OFILL into the slot is in flight (R343). -/
def State.filling (s : State) (q : Nat × Nat) : Bool :=
  s.ops.any (fun o => match o.kind with | .ofill p ctl _ => p == q.1 && bits ctl 0 4 == q.2 | _ => false)

/-- The start conditions of R351 for one panel, sub-arrays apart. -/
def State.mxReady (s : State) (p : Nat) : Bool :=
  match s.committedOp p with
  | none => false
  | some (_, w, w1, ms) =>
    let src := s.mxSources p w w1
    (s.panel p).running.isNone && (bits w1 3 1 == 0 || decide (0 < (s.panel p).sem (bits w1 0 3))) && !s.filling src.1 && !s.filling src.2
      && (mxSparse w == 0 || !s.filling (p, ms))

/-- Members of the operation a panel has committed: the rectangle's, or itself. -/
def State.mxMembers (s : State) (p : Nat) : List Nat :=
  match s.committedOp p with
  | none => []
  | some (_, _, w1, _) => if mxRect w1 = 0 then [p] else match s.rectOf p (mxRect w1) with
    | some r => (rectMembers (p / 32) r).map (fun m => m.1)
    | none => [p]

/-- Fields every member of a rectangle must share (R362). -/
def mxShared (w : Reg64) : Nat × Nat × Bool × Bool × Nat × Nat × Nat := (mxAf w, mxBf w, mxTa w, mxTb w, mxM w, mxN w, mxK w)

/-- One member starts with an error code found for the whole (R351). -/
def State.mxStart (s : State) (p code : Nat) (reads : List Nat) : State :=
  match s.committedOp p with
  | none => s
  | some (o, w, w1, ms) =>
    let own := if code = 0 then s.tileCode p w ms else code
    let s := s.setOp { o with stage := 1, status := own, due := s.clk + s.mxTime p w w1 ms, kind := .mx p w w1 ms reads }
    s.modPanel p (fun x => { x with committed := none, running := some o.id, sems := if bits w1 3 1 = 1 then Tab.set x.sems (bits w1 0 3) (x.sem (bits w1 0 3) - 1) else x.sems })

/-- The engine takes a committed shadow, with the other members of its rectangle, and starts; gated sub-arrays wake first (R351,
R362, R363), in no clk of its die's throttle (R24). -/
def execMxOperationStart (cl panel : Nat) (s : State) : Host.Outcome State Fault Refusal :=
  let p := cl * 32 + panel
  .next (match s.committedOp p with
    | none => s
    | some (_, w, w1, _) =>
      let ms := s.mxMembers p
      let same := ms.all (fun q => match s.committedOp q with | some (_, _, v, _) => mxRect v == mxRect w1 | none => false)
      if 32 ≤ panel ∨ ¬ same ∨ ¬ ms.all s.mxReady ∨ s.throttled (p * 8) then s
      else
        let cold := ms.filter (fun q => match s.committedOp q with | some (_, v, v1, _) => (mxSubs v v1).any (fun i => !(s.panel q).awake.contains i) | none => false)
        if cold ≠ [] then cold.foldl (fun s q => s.modPanel q (fun x => if x.waking.isNone then { x with waking := some (s.clk + 288) } else x)) s
        else
          let agree := ms.all (fun q => match s.committedOp q with | some (_, v, _, _) => mxShared v == mxShared w | none => false)
          let code := if ¬ agree then 6 else ms.foldl (fun c q => match s.committedOp q with | some (_, v, v1, m) => worse c (s.operandCode q v v1 m) | none => c) 0
          let reads := ms.map (fun q => (q, match s.committedOp q with
            | some (_, v, v1, m) => let src := s.mxSources q v v1; [16 * src.1.1 + src.1.2, 16 * src.2.1 + src.2.2] ++ (if mxSparse v ≠ 0 then [16 * q + m] else [])
            | none => []))
          reads.foldl (fun s q => s.mxStart q.1 code q.2) s)

/-- The waking sub-arrays of a panel are awake (R363). -/
def execSubarrayWake (cl panel : Nat) (s : State) : Host.Outcome State Fault Refusal :=
  let p := cl * 32 + panel
  .next (match (s.panel p).waking with
    | none => s
    | some t =>
      if s.clk < t then s
      else
        let need := match s.committedOp p with | some (_, w, w1, _) => mxSubs w w1 | none => []
        s.modPanel p (fun x => { x with waking := none, awake := (List.range 4).filter (fun i => x.awake.contains i || need.contains i), idle := need.foldl (fun t i => Tab.set t i s.clk) x.idle }))

/-- An idle sub-array is gated (R363, R177). -/
def execSubarrayGating (cl panel sub : Nat) (s : State) : Host.Outcome State Fault Refusal :=
  let p := cl * 32 + panel
  let x := s.panel p
  let used := match x.running.bind s.op? with | some o => (match o.kind with | .mx _ w w1 _ _ => (mxSubs w w1).contains sub | _ => false) | none => false
  .next (if ¬ x.awake.contains sub ∨ used = true ∨ x.gateIdle = 0 ∨ s.clk < Tab.getD x.idle sub 0 + x.gateIdle then s
    else s.modPanel p (fun x => { x with awake := x.awake.filter (fun i => i != sub) }))

/-- A semaphore's count with the posts that wait for their slots' stores (log 77, the model's choice). -/
def State.semCount (s : State) (p n : Nat) : Nat :=
  (s.panel p).sem n + (s.ops.filter (fun o => match o.kind with | .semv q m => q == p && m == n | _ => false)).length

/-- A post of a semaphore for a slot: the state, and whether it was lost at 15 (R350). The count goes up once what the slot has stored
before is home, for what R350 orders in hb (log 77, the model's choice). -/
def State.post15 (s : State) (h p n : Nat) : State × Bool :=
  if 15 ≤ s.semCount p n then (s, true)
  else if (s.slot h).acks = 0 then (s.countUp p n, false)
  else ({ ({ s with cur := h } : State).post (.semv p n) (fun o => { o with mute := true }) with cur := s.cur }, false)

/-- The record of an engine error (R285, R357). -/
def State.engineError (s : State) (o : Op) (ukind unit code : Nat) : State :=
  s.record o.cluster { time := 0, seq := 0, tid := o.tid, ctok := o.ctok, lid := o.lid, info := r64 code, pc := o.pc, unit := unit, ukind := ukind, cid := cidOf o.owner, kind := 3, cause := 0x10, status := 0x10, slot := slOf o.owner }

/-- The first listed storage error of a panel, met by an operation (R290, R291): one of one bit is corrected; one of two bits is an engine error
of the operation, after the replay of an MX operation (`replay`), which alone is replayed. What is corrected or replayed has its record and counts
(R285, R292). -/
def State.panelError (s : State) (p : Nat) (replay : Bool) : State × Bool :=
  match s.softErrors.findSome? (fun e => match e with | .panel q d => if q = p then some d else none | _ => none) with
  | none => (s, false)
  | some d =>
    let s : State := { s with softErrors := s.softErrors.erase (.panel p d) }
    if d ∧ ¬ replay then (s, true) else ((s.record (p / 32) { time := 0, seq := 0, unit := p, ukind := 4, kind := 4, cause := 8 }).noteUnit (16384 + p), d)

/-- The panels that a started operation of panel p reads, and with it the other members of its rectangle (R362). -/
def State.mxPanels (s : State) (p : Nat) (w1 : Reg64) (reads : List Nat) : List Nat :=
  (reads ++ (if mxRect w1 = 0 then [] else s.ops.flatMap (fun o => match o.kind with
    | .mx q _ v1 _ l => if o.stage = 1 ∧ q / 32 = p / 32 ∧ mxRect v1 = mxRect w1 then l else []
    | _ => []))).map (fun x => x / 16)

/-- The errors at the panels of an operation; one met again on the replay ends every started operation that reads that panel, with every
member of a rectangle that reads it (R362): the state, and whether there was one. -/
def State.panelErrors (s : State) (l : List Nat) : State × Bool :=
  l.foldl (fun (r : State × Bool) q =>
    let e := r.1.panelError q true
    if ¬ e.2 then (e.1, r.2)
    else ({ e.1 with ops := e.1.ops.map (fun o => match o.kind with | .mx p _ w1 _ reads => if o.stage = 1 ∧ o.status = 0 ∧ (e.1.mxPanels p w1 reads).contains q = true then { o with status := 7 } else o | _ => o) }, true)) (s, false)

/-- A matrix operation completes (R354 to R357): the tile written whole, the post, the completion word. One whose own error takes its panel out
of service has ended with it (R293). -/
def execMxOperationCompletion (op : Nat) (s : State) : Host.Outcome State Fault Refusal :=
  .next (match s.op? op with
    | some o => match o.kind with
      | .mx p w w1 ms reads =>
        if o.stage ≠ 1 ∨ s.clk < o.due then s
        else
          let e := s.panelErrors (p :: s.mxPanels p w1 reads).eraseDups
          let s := e.1
          let sweep := fun (s : State) => ((reads.map (fun q => q / 16)).foldl (fun s q => s.sweepSlots q) s).sweepRects (p / 32)
          if (s.op? op).isNone then sweep s
          else
          let code := if o.status ≠ 0 then o.status else if e.2 then 7 else 0
          let src : (Nat × Nat) × (Nat × Nat) := ((reads.getD 0 0 / 16, reads.getD 0 0 % 16), (reads.getD 1 0 / 16, reads.getD 1 0 % 16))
          let s := match code, mxClass (mxAf w) with
            | 0, some c => ({ s with accMem := s.mxTileAfter p w ms src c } : State).modPanel p (fun x => if mxAcc w then x else x.retag (mxTile w) c.acc)
            | _, _ => s.engineError o 4 p code
          let r := if bits w1 7 1 = 1 then s.post15 o.owner p (bits w1 4 3) else (s, false)
          let s := r.1.modPanel p (fun x => { x with running := none, idle := (mxSubs w w1).foldl (fun t i => Tab.set t i s.clk) x.idle })
          let v := r64 ((if r.2 then 2 ^ 39 else 0) + code * 256 + (if code = 0 then 0 else 0x10))
          sweep (((s.resolve o v []).dropOp op).qntAfter (p / 32) op)
      | _ => s
    | none => s)

/-! ## OPM instructions (R345 to R350) -/

def execOclaim (t n : BitVec 6) (s : State) : Host.Outcome State Fault Refusal :=
  run (.oclaim t n) s (fun s =>
    let p := panelOf s.cur
    let free := (List.range 16).filter (fun i => ((s.panel p).slot i).claim.isNone)
    if free.length < n.toNat then .done (s.putG t.toNat 0)
    else
      let l := free.take n.toNat
      let uid := s.me.uid
      let s := s.modPanel p (fun x => { x with slots := l.foldl (fun t i => Tab.set t i { (Tab.getD t i {}) with claim := some uid, releasing := false }) x.slots })
      .done (s.putG t.toNat (r64 (l.foldl (fun m i => m + 2 ^ i) 0))))

def execOrel (f : BitVec 6) (s : State) : Host.Outcome State Fault Refusal :=
  run (.orel f) s (fun s =>
    let v := s.getG f.toNat
    let p := panelOf s.cur
    let l := (List.range 16).filter (fun i => v.getLsbD i)
    if bits v 16 48 ≠ 0 ∨ l.any (fun i => let q := (s.panel p).slot i; !q.claimed || q.claim != some s.me.uid) then .trap 1 v
    else .done ((s.modPanel p (fun x => { x with slots := l.foldl (fun t i => Tab.set t i { (Tab.getD t i {}) with releasing := true }) x.slots })).sweepSlots p))

def execSemp (n : BitVec 3) (s : State) : Host.Outcome State Fault Refusal :=
  run (.semp n) s (fun s =>
    let p := panelOf s.cur
    let c := (s.panel p).sem n.toNat
    if c = 0 then .wait s .semaphore else .done (s.modPanel p (fun x => { x with sems := Tab.set x.sems n.toNat (c - 1) })))

def execSemv (n : BitVec 3) (s : State) : Host.Outcome State Fault Refusal :=
  run (.semv n) s (fun s =>
    let r := s.post15 s.cur (panelOf s.cur) n.toNat
    if r.2 then .trap 1 ((Instr.semv n).word.zeroExtend 64) else .done r.1)

/-! ## OFILL (R347, R348, R417) -/

/-- The source bytes of a fill, in order: scale and element bytes as they come. -/
def fillSources (a : Nat) (runs : Bool) : List Nat :=
  if runs then (List.range 8).flatMap (fun r => (List.range 2112).map (fun i => runAt a r + i)) else (List.range 16384).map (fun i => a + i)

def fillBlocks (a : Nat) (ct runs : Bool) : List Nat := if ct then (List.range 16896).map (fun i => a + i) else fillSources a runs

/-- A wrong control word of OFILL (R347). -/
def State.ofillBad (s : State) (ctl : Reg64) (ext : Bool) : Bool :=
  let fmt := bits ctl 4 4
  let ct := bits ctl 8 1 == 1
  let h := bits ctl 16 16
  let q := (s.panel (panelOf s.cur)).slot (bits ctl 0 4)
  bits ctl 32 32 != 0 || bits ctl 9 7 != 0 || decide (10 ≤ fmt) || (ext && fmt != 0) || (ct && !ext && fmt != 3) || (ct && h != 64 && h != 256) || (!ct && h != 0)
    || !q.claimed || q.claim != some s.me.uid

def execOfill (f t : BitVec 6) (s : State) : Host.Outcome State Fault Refusal :=
  run (.ofill f t) s (fun s =>
    let ctl := s.getG f.toNat
    let src := s.getG (f.toNat + 1)
    let off := offset src
    let ext := !onChip off
    let ct := bits ctl 8 1 == 1
    let runs := bits ctl 4 4 == 3 && !ct
    if s.ofillBad ctl true ∧ s.ofillBad ctl false then .trapOn (inGrp f [0]) 1 ctl
    else if s.ofillBad ctl ext then .trap 1 ctl
    else if src.toNat % 64 ≠ 0 ∨ (!ext ∧ runs ∧ ¬ runStart off) then .trap 2 src
    else match s.address src with
      | some (off, none) =>
        let own := (fillBlocks off ct runs).all (fun a => onChip a && clusterOfAddr a == clusterOf s.cur)
        if ¬ ext ∧ (¬ own ∨ ¬ s.holds (s.pidOf s.cur) (clusterOf s.cur)) then .trap 3 src
        else .done (s.postTo t.toNat (.ofill (panelOf s.cur) ctl (r64 off)) (fun q => { q with major := 0x29, sel := 2, due := s.clk + s.me.rcTimeout * 1800 }))
      | _ => .trap 3 src)

/-- Data and scales of a slot from the source bytes of a fill (R348). -/
def fillWrite (m : Mem) (p n h : Nat) (ct runs : Bool) (l : List Byte) : Mem :=
  if ct then
    (List.range (512 / h)).foldl (fun m g =>
      let grp := (l.drop (33 * h * g)).take (33 * h)
      Mem.store (Mem.store m (scaleBase p n + g * h) (grp.take h)) (slotBase p n + 32 * h * g) (grp.drop h)) m
  else if runs then
    (List.range 8).foldl (fun m r =>
      let grp := (l.drop (2112 * r)).take 2112
      Mem.store (Mem.store m (scaleBase p n + 64 * r) (grp.take 64)) (slotBase p n + 2048 * r) (grp.drop 64)) m
  else Mem.store m (slotBase p n) l

/-- The first source byte that faults: how many precede it, its status and address. A panel reads no granule again (R290). -/
def State.fillFaultAt (s : State) (h : Nat) (pid : BitVec 16) (need : PageNeed) : List Nat → Nat → Option (Nat × Nat × Nat)
  | [], _ => none
  | a :: l, k => if s.failsAt pid a then some (k, 0x10, a) else match s.byteFault h pid a false need with
    | some st => some (k, st, a)
    | none => State.fillFaultAt s h pid need l (k + 1)

/-- An OFILL completes (R343, R348): after the started operations that read the slot and the earlier fills of it. -/
def execOfillCompletion (op : Nat) (s : State) : Host.Outcome State Fault Refusal :=
  .next (match s.op? op with
    | some o => match o.kind with
      | .ofill p ctl src =>
        let n := bits ctl 0 4
        let a := src.toNat
        let ct := bits ctl 8 1 == 1
        let h := bits ctl 16 16
        let page := if onChip a then none else (s.leaf o.pid a).map (fun e => e.2)
        let fmt := if onChip a then bits ctl 4 4 else match page with | some e => pteFmt e | none => 0
        let runs := fmt == 3 && !ct
        let srcs := fillBlocks a ct runs
        let busy := s.ops.any (fun q => match q.kind with | .mx _ _ _ _ reads => q.stage == 1 && reads.contains (16 * p + n) | .ofill p' c' _ => p' == p && bits c' 0 4 == n && decide (q.id < op) | _ => false)
        if busy ∨ s.heldBack o ∨ srcs.any (fun b => s.earlierOwn o b 1) then s
        else
          let s := srcs.foldl (fun s b => s.foldByte o.pid b) s
          let wrong := !onChip a && page.isSome && ((ct && fmt != 3) || (runs && !runStart a))
          let bad := if wrong then some (0, 4, a) else s.fillFaultAt o.owner o.pid (if onChip a then none else some (fmt, true)) srcs 0
          match bad with
          | none =>
            let s : State := { s with opMem := fillWrite s.opMem p n h ct runs (srcs.map (fun b => s.byteAt o.pid b)) }
            let s := s.modPanel p (fun x => { x with slots := Tab.set x.slots n { (x.slot n) with fmt := fmt, h := if ct then h else 0 } })
            (((s.sweepErrors o.pid srcs).resolve o (tokenWord srcs.length 0) []).dropOp op).sweepSlots p
          | some (k, st, b) =>
            if st = 0xF ∧ s.clk < o.due then s
            else
              let s : State := { s with opMem := Mem.store s.opMem (slotBase p n) ((List.range 16384).map (fun i => (Config.freeWord (s.free + i)).truncate 8)), free := s.free + 16384 }
              let s := s.modPanel p (fun x => { x with slots := Tab.set x.slots n { (x.slot n) with fmt := 0, h := 0 } })
              let u : Nat × Nat := if st = 4 then (7, stationOf b) else (4, p)
              ((((s.sweepErrors o.pid srcs).recordOp o st (r64 b) (r64 k) u.1 u.2).resolve o (tokenWord k st) []).dropOp op).sweepSlots p
      | _ => s
    | none => s)

/-! ## The shadow (R351 to R353) -/

def execMxcfg (f : BitVec 6) (s : State) : Host.Outcome State Fault Refusal :=
  run (.mxcfg f) s (fun s =>
    let w := s.getG f.toNat
    let w1 := s.getG (f.toNat + 1)
    let p := panelOf s.cur
    if mxBad w w1 then .trap 1 ((Instr.mxcfg f).word.zeroExtend 64)
    else if (s.panel p).committed.isSome then .wait s .shadow
    else .done (s.modPanel p (fun x => { x with w0 := w, w1 := w1 })))

def execMxsp (n : BitVec 4) (s : State) : Host.Outcome State Fault Refusal :=
  run (.mxsp n) s (fun s =>
    let p := panelOf s.cur
    if (s.panel p).committed.isSome then .wait s .shadow else .done (s.modPanel p (fun x => { x with mslot := n.toNat })))

def execMxgo (t : BitVec 6) (s : State) : Host.Outcome State Fault Refusal :=
  run (.mxgo t) s (fun s =>
    let p := panelOf s.cur
    let x := s.panel p
    if mxBad x.w0 x.w1 ∨ (mxRect x.w1 ≠ 0 ∧ (s.rectOf p (mxRect x.w1)).isNone) then .trap 1 ((Instr.mxgo t).word.zeroExtend 64)
    else if x.committed.isSome then .wait s .shadow
    else
      let id := s.nextId
      .done ((s.postTo t.toNat (.mx p x.w0 x.w1 x.mslot []) (fun q => { q with major := 0x28, sel := 1 })).modPanel p (fun x => { x with committed := some id })))

/-! ## Tiles (R343, R359, R360, R418) -/

/-- The tiles a format occupies from n on. -/
def tilePair (n : Nat) (t : TileTag) : List Nat := if t = .fp64 then [n / 2 * 2, n / 2 * 2 + 1] else [n]

/-- The engine holds a committed or running operation on one of these tiles. -/
def State.tileHeld (s : State) (p : Nat) (l : List Nat) : Bool :=
  s.ops.any (fun o => match o.kind with
    | .mx q w _ _ _ => q == p && o.stage != 9 && (match mxClass (mxAf w) with | some c => (tilePair (mxTile w) c.acc).any (fun i => l.contains i) | none => false)
    | _ => false)

def tagOf (y : BitVec 2) : TileTag := if y = 1 then .fp64 else if y = 2 then .i32 else .fp32

def execMxz (y : BitVec 2) (n : BitVec 3) (s : State) : Host.Outcome State Fault Refusal :=
  run (.mxz y n) s (fun s =>
    let p := panelOf s.cur
    let t := tagOf y
    if s.tileHeld p (tilePair n.toNat t) then .wait s .tile
    else
      let b := tileBase p n.toNat
      .done (({ s with accMem := Mem.clear b (b + 4096 * Panel.tileWidth t) s.accMem } : State).modPanel p (fun x => x.retag n.toNat t)))

/-- The control word of MXRD and MXWR (R360). -/
structure TileIo where
  stride : Nat
  sat : Bool
  chk : Bool
  rnd : Nat
  type : Nat
  tile : Nat
  deriving DecidableEq, Repr

def TileIo.ofWord (w : Reg64) : TileIo := ⟨bits w 32 16, bits w 12 1 == 1, bits w 11 1 == 1, bits w 8 3, bits w 4 3, bits w 0 3⟩

def TileIo.size (c : TileIo) : Nat := if c.type = 7 then 8 else if c.type = 6 ∨ c.type = 2 then 4 else 2
def TileIo.step (c : TileIo) : Nat := if c.stride = 0 then 64 * c.size else c.stride

def tileIoBad (w : Reg64) (write : Bool) : Bool :=
  let c := TileIo.ofWord w
  bits w 48 16 != 0 || bits w 13 19 != 0 || bits w 7 1 != 0 || bits w 3 1 != 0 || c.rnd == 5 || c.rnd == 6 || c.type == 0 || c.type == 1 || c.type == 3
    || (c.type == 7 && c.tile % 2 == 1) || (c.stride != 0 && decide (c.stride < 64 * c.size)) || (write && (c.rnd != 0 || c.sat || c.chk))

/-- The checks of R360 on the address a under a control word. -/
def State.tileIoTrap (s : State) (a w : Reg64) : Option (Nat × Reg64) :=
  let c := TileIo.ofWord w
  if a.toNat % c.size ≠ 0 then some (2, a)
  else if c.stride % c.size ≠ 0 then some (2, r64 c.stride)
  else if ¬ s.inScratchpads a (63 * c.step + 64 * c.size) then some (3, a)
  else none

/-- Tag and type are an allowed pair; an odd tile that holds part of an FP64 tile matches none (R360, R418). -/
def tilePairOk (t : TileTag) (n type : Nat) : Bool :=
  match t with
  | .fp32 => type == 4 || type == 5 || type == 6
  | .fp64 => (type == 6 || type == 7) && n % 2 == 0
  | .i32 => type == 2

def typeFmt (type : Nat) : Fmt := if type = 4 then fp16 else if type = 5 then bf16 else if type = 6 then fp32 else fp64

/-- The elements of a tile rounded in row order, with srs after them (R360, R418). -/
def roundTile (t : TileTag) (type : Nat) (mode : Rnd) (sat : Bool) : List Nat → Reg64 → List Nat × Reg64
  | [], q => ([], q)
  | x :: l, q =>
    if t = .i32 then let r := roundTile t type mode sat l q; (x :: r.1, r.2)
    else
      let y := (typeFmt type).round mode sat q ((if t = .fp64 then fp64 else fp32).decode x)
      let r := roundTile t type mode sat l y.srs
      (y.bits :: r.1, r.2)

/-- MXRD (R360, R418): its bytes are home when it completes (R106, R359), so an earlier store of the slot to them, still on its way, is waited
for (R223). A storage error of the panel that is not corrected gives the status of an engine error (R290). -/
def execMxrd (f t : BitVec 6) (s : State) : Host.Outcome State Fault Refusal :=
  run (.mxrd f t) s (fun s =>
    let a := s.getG f.toNat
    let w := s.getG (f.toNat + 1)
    let c := TileIo.ofWord w
    let p := panelOf s.cur
    if tileIoBad w false then .trapOn (inGrp f [1]) 1 ((Instr.mxrd f t).word.zeroExtend 64)
    else match s.tileIoTrap a w with
    | some e => .trap e.1 e.2
    | none => afterAcquire s .tile (fun s =>
      let q := (s.panel p).tile c.tile
      let rows := (List.range 64).map (fun i => (offset a + i * c.step, 64 * c.size))
      if s.tileHeld p (tilePair c.tile q.tag) then .wait s .tile
      else if rows.any (fun r => s.ownInFlight r.1 r.2) then .wait s .pending
      else if q.invalid then .done (s.putG t.toNat 0x310)
      else if ¬ tilePairOk q.tag c.tile c.type then .done (s.putG t.toNat 0x410)
      else
        let e := s.panelError p false
        let s := e.1
        let x := s.me
        let words := (List.range 4096).map (fun i => Mem.read s.accMem (tileAt p c.tile q.tag i) (Panel.tileWidth q.tag))
        let r := roundTile q.tag c.type (x.modeOf c.rnd) c.sat words x.srs
        if e.2 then .done (s.putG t.toNat 0x710)
        else match (if (c.chk || x.watch) ∧ q.tag ≠ .i32 then r.1.findIdx? (fun y => (typeFmt c.type).nonFinite y) else none) with
        | some i => .trap 9 (r64 i)
        | none => .done (((s.writeSpms (r.1.zipIdx.map (fun e => (offset a + e.2 / 64 * c.step + e.2 % 64 * c.size, c.size, e.1)))).modMe (fun x => { x with srs := r.2 })).putG t.toNat 0)))

def execMxwr (f : BitVec 6) (s : State) : Host.Outcome State Fault Refusal :=
  run (.mxwr f) s (fun s =>
    let a := s.getG f.toNat
    let w := s.getG (f.toNat + 1)
    let c := TileIo.ofWord w
    let p := panelOf s.cur
    if tileIoBad w true then .trapOn (inGrp f [1]) 1 ((Instr.mxwr f).word.zeroExtend 64)
    else match s.tileIoTrap a w with
    | some e => .trap e.1 e.2
    | none => afterAcquire s .tile (fun s =>
      let tag : TileTag := if c.type = 2 then .i32 else if c.type = 7 then .fp64 else .fp32
      if s.tileHeld p (tilePair c.tile tag) then .wait s .tile
      else if s.ownBusy (offset a) (63 * c.step + 64 * c.size) then .wait s .pending
      else withSpmEcc s ((List.range 64).map (fun i => (offset a + i * c.step, 64 * c.size))) (fun s =>
        let m := s.view s.cur
        let k := Panel.tileWidth tag
        let mem := (List.range 4096).foldl (fun mem i =>
          let x := Mem.read m (offset a + i / 64 * c.step + i % 64 * c.size) c.size
          let y := if c.type = 4 ∨ c.type = 5 then (fp32.round .rne false 0 ((typeFmt c.type).decode x)).bits else x
          Mem.write mem (tileAt p c.tile tag i) k y) s.accMem
        .done (({ s with accMem := mem } : State).modPanel p (fun x => x.retag c.tile tag)))))

/-! ## MXRECT (R361) -/

/-- The result of MXRECT.FORM. -/
def State.rectResult (s : State) (p id r0 c0 a b : Nat) : Nat :=
  let cl := p / 32
  let members := (rectMembers cl (0, r0, c0, a, b)).map (fun m => m.1)
  let rs := (s.cluster cl).rects
  let out := decide (4 < r0 + a) || decide (8 < c0 + b) || !members.contains p
  if id = 0 ∨ (Tab.get? rs id).isSome then 1
  else if ¬ out ∧ rs.any (fun r => (rectMembers cl r.2).any (fun m => members.contains m.1)) then 2
  else if ¬ out ∧ members.any (fun q => s.panelsOut.contains q) then 3
  else if out then 4
  else 0

def execMxrectForm (f t : BitVec 6) (s : State) : Host.Outcome State Fault Refusal :=
  run (.mxrectForm f t) s (fun s =>
    let v := s.getG f.toNat
    let p := panelOf s.cur
    let id := bits v 0 8
    let r0 := bits v 8 2
    let c0 := bits v 12 3
    let a := bits v 16 2 + 1
    let b := bits v 20 3 + 1
    if bits v 23 41 ≠ 0 ∨ bits v 18 2 ≠ 0 ∨ bits v 15 1 ≠ 0 ∨ bits v 10 2 ≠ 0 then .trap 1 ((Instr.mxrectForm f t).word.zeroExtend 64)
    else
      let r := s.rectResult p id r0 c0 a b
      let uid := s.me.uid
      let s := if r = 0 then s.modCluster (p / 32) (fun c => { c with rects := Tab.set c.rects id (uid, r0, c0, a, b) }) else s
      .done (s.putG t.toNat (r64 r)))

def execMxrectFree (f t : BitVec 6) (s : State) : Host.Outcome State Fault Refusal :=
  run (.mxrectFree f t) s (fun s =>
    let v := s.getG f.toNat
    let cl := clusterOf s.cur
    let id := bits v 0 8
    if bits v 8 56 ≠ 0 then .trap 1 ((Instr.mxrectFree f t).word.zeroExtend 64)
    else match Tab.get? (s.cluster cl).rects id with
      | none => .done (s.putG t.toNat 1)
      | some r =>
        if r.1 ≠ s.me.uid then .done (s.putG t.toNat 1)
        else if s.rectBusy cl id then .wait s .tile
        else .done ((s.modCluster cl (fun c => { c with rects := Tab.erase c.rects id })).putG t.toNat 0))

end Sys2Proof.Machine
end

