-- ==== Sys2Proof/Machine/Quant.lean ====
section
/-! DEFINITION. The quantisation engine: QNT, its queue, its commands and its halt (R365 to R368). -/

namespace Sys2Proof.Machine

/-! ## Issue (R365) -/

def execQnt (f t : BitVec 6) (r : BitVec 1) (s : State) : Host.Outcome State Fault Refusal :=
  run (.qnt f t r) s (fun s =>
    let a := s.getG f.toNat
    if a.toNat % 64 ≠ 0 then .trap 2 a
    else if ¬ s.inScratchpads a 64 then .trap 3 a
    else withBuffer s (fun s => .done (s.postTo t.toNat (.qnt (offset a) (r == 1) [] []) (fun q => { q with major := 0x2A, sel := 0, buf := true }))))

/-! ## The queue (R365, R368) -/

/-- A QNT ends with a code: the word of R357. -/
def State.endQnt (s : State) (o : Op) (code : Nat) : State := (s.resolve o (r64 (code * 256 + (if code = 0 then 0 else 0x10))) []).dropOp o.id

/-- A QNT the engine holds no command ahead of. -/
def State.qntFirst (s : State) (o : Op) : Bool :=
  !s.ops.any (fun p => p.owner == o.owner && p.task == o.task && p.stage == 0 && decide (p.id < o.id) && (match p.kind with | .qnt _ _ _ _ => true | _ => false))

/-- The engine accepts a command and reads its block, after the accesses before it (R223, R243); a halted queue runs none but a .RESTART
(R365, R368). A block with an error that is not corrected is code 7 (R290). -/
def execQntAcceptance (op : Nat) (s : State) : Host.Outcome State Fault Refusal :=
  .next (match s.op? op with
    | some o => match o.kind with
      | .qnt a restart _ _ =>
        let c := s.cluster o.cluster
        if o.stage ≠ 0 ∨ ¬ s.qntFirst o ∨ 32 ≤ c.qntQ.length ∨ s.heldBack o ∨ s.earlierOwn o a 64 then s
        else
          let s := match s.eccDouble a 64 with
            | some b => (s.spmRecord b).setOp { o with stage := 1, buf := false, status := 7, kind := .qnt a restart [] [] }
            | none => (s.eccCorrect a 64).setOp { o with stage := 1, buf := false, kind := .qnt a restart ((List.range 8).map (fun i => r64 (Mem.read s.spm (a + 8 * i) 8))) [] }
          if c.qntHalt ∧ ¬ restart then s.endQnt { o with buf := false } 12
          else s.modCluster o.cluster (fun c => { c with qntQ := c.qntQ ++ [op], qntHalt := false })
      | _ => s
    | none => s)

/-! ## Encoding (R367) -/

def XNum.abs : XNum → XNum
  | .inf _ => .inf false
  | .zero _ => .zero false
  | .fin _ m e => .fin false m e
  | x => x

/-- The scale of a block of exact values; 0xFF where some value is not finite. -/
def qntScale (xs : List XNum) : Nat :=
  if xs.any (fun x => match x with | .nan _ | .inf _ => true | _ => false) then 0xFF
  else
    let a := xs.foldl (fun (m : XNum) x => if numLe m x.abs then x.abs else m) (.zero false)
    match a with
    | .fin _ m e => (min 254 (max 0 ((Nat.log2 m : Int) + e + 119))).toNat
    | _ => 127

/-- An element under its scale, rounded to FP8E4 with SAT. -/
def qntElem (rnd scale : Nat) (x : XNum) : Nat :=
  if scale = 0xFF then 0 else (fp8e4.round ((Rnd.ofCode rnd).getD .rne) true 0 (x.scale (127 - (scale : Int)))).bits

/-- The blocks of a row-major list. -/
def chunks {α : Type} (n : Nat) : Nat → List α → List (List α)
  | 0, _ => []
  | f + 1, l => l.take n :: chunks n f (l.drop n)

/-- The granule of one row. -/
def qntGranule (rnd : Nat) (xs : List XNum) : Nat :=
  let sc := qntScale xs
  if sc = 0xFF then 0xFF else encodePef8 sc (xs.map (qntElem rnd sc))

/-- Address and value of every destination byte: the last BS8 run has all its scales (R39). The bytes count as completed in this order, the
scales of every run first (R225; log 89, the model's choice). -/
def qntBytes (q : QntBlock) (dst : Nat) (xs : List XNum) : List (Nat × Byte) :=
  if q.ofmt = 3 then
    let bl := chunks 32 (q.rows * q.cols / 32) xs
    let n := bl.length
    let scales := bl.map qntScale
    (List.range ((n + 63) / 64 * 64)).map (fun b => (bs8Scale dst b, BitVec.ofNat 8 (scales.getD b 0x7F)))
      ++ ((bl.zip scales).zipIdx.map (fun (p : (List XNum × Nat) × Nat) => p.1.1.zipIdx.map (fun (e : XNum × Nat) => (bs8Elem dst p.2 e.2, BitVec.ofNat 8 (qntElem q.rnd p.1.2 e.1))))).flatten
  else
    ((chunks 64 q.rows xs).zipIdx.map (fun (p : List XNum × Nat) =>
      let g := qntGranule q.rnd p.1
      (List.range 64).map (fun i => (dst + 64 * p.2 + i, BitVec.ofNat 8 (g / 256 ^ i))))).flatten

/-- The exact source values, row by row, with the bytes they are made from. -/
def State.qntSource (s : State) (q : QntBlock) (tile : List Reg64) : List (List Nat × XNum) :=
  (List.range q.rows).flatMap (fun i => (List.range q.cols).map (fun j =>
    if q.pad then
      let a := s.keyOf q.sadr + i * q.stride + j * q.size
      ((List.range q.size).map (fun k => a + k), (if q.sfmt = 5 then bf16 else fp32).decode (Mem.read s.spm a q.size))
    else ([], fp32.decode (tile.getD (1 + 64 * i + j) 0).toNat)))

/-! ## Commands (R343, R367, R368) -/

/-- Matrix operations committed or running on a tile. -/
def State.tileOps (s : State) (p n : Nat) : List Nat :=
  s.ops.filterMap (fun o => match o.kind with
    | .mx q w _ _ _ => if q == p && o.stage != 9 && (match mxClass (mxAf w) with | some c => (tilePair (mxTile w) c.acc).contains n | none => false) then some o.id else none
    | _ => none)

/-- The engine starts the next command; a tile is taken now, or after the operations on it that are committed or running (R343,
R367). -/
def execQntCommandStart (cl : Nat) (s : State) : Host.Outcome State Fault Refusal :=
  .next (match (s.cluster cl).qntRun, (s.cluster cl).qntQ with
    | none, op :: rest =>
      match s.op? op with
      | some o => match o.kind with
        | .qnt a r w _ =>
          let q := QntBlock.ofWords w
          let p := cl * 32 + q.panel
          let waits := if q.pad ∨ o.status = 7 then [] else s.tileOps p q.tile
          let s := s.modCluster cl (fun c => { c with qntQ := rest, qntRun := some op })
          let o := { o with stage := 2, kind := .qnt a r w waits }
          if q.pad ∨ o.status = 7 ∨ waits ≠ [] then s.setOp { o with reply := [] } else s.qntTakes cl o w
        | _ => s
      | none => s.modCluster cl (fun c => { c with qntQ := rest })
    | _, _ => s)

/-- A command error: the record and the halt with every command behind it, and the mark of a tile whose storage failed; the others have
marked it where the command took it (R368). -/
def State.qntError (s : State) (cl : Nat) (o : Op) (q : QntBlock) (code : Nat) : State :=
  let s := s.engineError o 3 cl code
  let p := cl * 32 + q.panel
  let s := if q.pad ∨ s.panelsOut.contains p ∨ code ≠ 7 ∨ o.status = 7 then s else s.modPanel p (fun x => x.setTile q.tile { (x.tile q.tile) with invalid := true })
  let l := (s.cluster cl).qntQ
  let s := (s.modCluster cl (fun c => { c with qntQ := [], qntRun := none, qntHalt := true })).endQnt o code
  l.foldl (fun s id => match s.op? id with | some b => s.endQnt b 12 | none => s) s

/-- The writes of a command as the moves of a copy (R271): the destination page carries ofmt. -/
def State.qntMoves (s : State) (q : QntBlock) (srcs : List (List Nat × XNum)) : List Move :=
  let d := s.keyOf q.dst
  (qntBytes q d (srcs.map (fun e => e.2))).map (fun b => ⟨b.1, [], b.2, none, if onChip d then none else some (q.ofmt, true)⟩)

/-- A destination byte faults: on-chip it must lie in the issuing cluster (R366). -/
def State.qntFault (s : State) (o : Op) (m : Move) : Option (Nat × Nat) :=
  if onChip m.dst ∧ clusterOfAddr m.dst ≠ o.cluster then some (3, m.dst)
  else if 2 ^ 53 ≤ m.dst then some (3, m.dst)
  else s.moveFault o.owner o.pid m

/-- A command completes (R367, R368). -/
def execQntCommandCompletion (cl : Nat) (s : State) : Host.Outcome State Fault Refusal :=
  .next (match (s.cluster cl).qntRun.bind s.op? with
    | none => s.modCluster cl (fun c => { c with qntRun := none })
    | some o => match o.kind with
      | .qnt _ _ w waits =>
        let q := QntBlock.ofWords w
        let srcs := s.qntSource q o.reply
        let bytes := srcs.flatMap (fun e => e.1)
        if o.status = 7 then s.qntError cl o q 7
        else if waits.any (fun i => (s.op? i).isSome) ∨ bytes.any (fun a => s.earlierOwn o a 1) then s
        else
          let e := if q.pad then (s, bytes.any (s.brokenAt o.pid)) else s.panelError (cl * 32 + q.panel) false
          let c := s.qntCode cl o.pid w o.reply
          let code := if 8 ≤ c then c else worse c (if e.2 then 7 else 0)
          if code ≠ 0 then (e.1.sweepErrors o.pid bytes).qntError cl o q code
          else
            let s := e.1.foldMoves o.pid (e.1.qntMoves q srcs)
            let l := s.qntMoves q srcs
            if l.any (fun m => s.earlierOwn o m.dst 1) then s
            else
              let k := l.findIdx (fun m => (s.qntFault o m).isSome)
              let bad := (l[k]?).bind (s.qntFault o)
              let inside := l.filter (fun m => !(onChip m.dst && clusterOfAddr m.dst != o.cluster))
              let s := (((s.sweepErrors o.pid bytes).writeMoves o.owner o.pid (fun _ => false) inside k).modCluster cl (fun c => { c with qntRun := none }))
              match bad with
              | none => s.endQnt o 0
              | some (st, a) =>
                let u : Nat × Nat := if st = 4 then (7, stationOf a) else (3, cl)
                ((s.recordOp o st (r64 a) (r64 k) u.1 u.2).resolve o (r64 st) []).dropOp o.id
      | _ => s.modCluster cl (fun c => { c with qntRun := none }))

end Sys2Proof.Machine
end

