-- ==== Sys2Proof/Machine/Remote.lean ====
section
/-! DEFINITION. Remote calls: their issue, the routines, the replies and the reply caches (R325 to R341). -/

namespace Sys2Proof.Machine

/-! ## RCALL (R328, R329) -/

/-- Call ids of a slot still in flight. -/
def State.idsInFlight (s : State) (h : Nat) : List (BitVec 16) :=
  s.ops.filterMap (fun o => match o.kind with | .rcall _ _ _ id _ => if o.owner = h then some id else none | _ => none)

/-- The next call id from one on, skipping those in flight (R329). -/
def nextId (used : List (BitVec 16)) : Nat → BitVec 16 → BitVec 16
  | 0, i => i
  | f + 1, i => if used.contains i then nextId used f (i + 1) else i

/-- RCALL (R328, R329): a call record and a request buffer slot are taken, and the call leaves. -/
def execRcall (f t n : BitVec 6) (r : BitVec 1) (s : State) : Host.Outcome State Fault Refusal :=
  run (.rcall f t n r) s (fun s =>
    let entry := s.getG f.toNat
    let target := s.getG (f.toNat + 1)
    let c := s.codeOf s.cur
    if entry.toNat % 4 ≠ 0 then .trapOn (grp f 1) 2 entry
    else if (s.codeAt c.1 c.2 entry).isNone then .trapOn (grp f 1) 3 entry
    else if (s.atomicCheck target 1).isSome then .trap 3 target
    else (if r = 1 then afterStores s else fun k => k s) (fun s =>
      if 16 ≤ s.callsUsed s.cur then .wait s .request
      else withBuffer s (fun s =>
        let x := s.me
        let id := nextId (s.idsInFlight s.cur) 17 x.callId
        let pay := (List.range n.toNat).map (fun j => s.getG (f.toNat + 2 + j))
        let s := s.postTo t.toNat (.rcall entry target pay id (s.callUnit target)) (fun q => { q with major := 0x1E, buf := true, call := true, due := s.clk + x.rcTimeout * 1800 })
        .done (s.modMe (fun x => { x with callId := id + 1 })))))

/-! ## RRET (R331) -/

/-- RRET ends the routine with the values g1 to gm (R331). -/
def execRret (m : BitVec 3) (s : State) : Host.Outcome State Fault Refusal :=
  run (.rret m) s (fun s =>
    if s.me.routine.isNone then .trap 1 ((Instr.rret m).word.zeroExtend 64)
    else .jump (s.endRoutine s.cur 0 ((List.range m.toNat).map (fun i => s.getG (i + 1)))) s.me.pc)

/-! ## Arrival, the routine, and its budget (R327, R330, R336, R339) -/

/-- A call ends without having run: its reply carries 0xFFFF_FFFF as the offset (R333). -/
def State.failCall (s : State) (o : Op) (status : Nat) (w : Reg64) : State :=
  s.setOp { o with stage := 3, since := s.clk, buf := false, status := status, reply := [w, r64 (0xFFFFFFFF * 2 ^ 32)] }

/-- The caller's own network interface ends the call (R333, R340): status 0x0F with a detail. -/
def State.loseCall (s : State) (o : Op) (detail : Nat) : State := s.failCall { o with die := dieOf o.owner } 0xF (r64 detail)

/-- What another part answers: a status and words of its choosing (log 10). -/
def State.peerReply (s : State) (o : Op) : State :=
  let f := s.free
  let v := fun (i : Nat) => Config.freeWord (f + i)
  let st := [0, 1, 2, 3, 4, 8, 0xD, 0xF, if o.watch then 9 else 0].getD ((v 0).toNat % 9) 0
  let words := if st = 0 then (List.range ((v 1).toNat % 5)).map (fun i => v (i + 2)) else [v 2, v 3 &&& 0xFFFFFFFF00000000]
  let s : State := { s with free := f + 6 }
  let s := s.setOp { o with stage := 3, since := s.clk, buf := false, status := st, reply := words }
  if st = 9 then s.cancelToken o.ctok else s

/-- A copy of a call that has arrived (R339), which its sender sent again after a transient fault (R291, R301), an input of the state (log 11): with the
reply held, the reply is sent again; else it is discarded. The replay is an event of the sending core, whose network interface R293 does not list
(log 11, the model's choice). -/
def State.copyArrives (s : State) (o : Op) (u : Nat) : State :=
  if ¬ s.softErrors.contains (.call o.id) then s
  else
  let s : State := { s with softErrors := s.softErrors.erase (.call o.id) }
  State.countHart (if s.replies.any (fun e => e.op == o.id && e.reply == some (o.status, o.reply)) ∧ o.stage = 3 then s.setOp { o with die := placeOf u, since := s.clk } else s) o.owner

/-- A call arrives at its unit (R325, R326, R335, R339): it waits its turn there, or its target does not translate or lies in a cluster
that has gone to another process (R18). -/
def execRemoteCallArrival (op : Nat) (s : State) : Host.Outcome State Fault Refusal :=
  .next (match s.op? op with
    | some o => match o.kind with
      | .rcall _ target _ _ u =>
        let earlier := s.ops.any (fun p => p.owner == o.owner && p.task == o.task && decide (p.id < op) && p.stage == 0 && (match p.kind with
          | .rcall _ _ _ _ v => v == u
          | .atomic _ _ a _ _ _ _ _ _ => s.callUnit a == u
          | _ => false))
        if o.stage ≠ 0 then s.copyArrives o u
        else if earlier ∨ ¬ s.arrived o then s
        else if 2 ^ 20 ≤ u then (if s.peerIn (peerOf u) then s.peerReply o else s)
        else if isNib u ∧ (s.translate o.pid (offset target) false false false).isNone then s.failCall o 4 target
        else if ¬ isNib u ∧ ¬ s.holds o.pid (clusterOf u) then s.failCall o 3 target
        else if s.unitOut u ∨ s.cacheFull u then s
        else ({ s with replies := s.replies ++ [⟨u, op, none⟩] } : State).setOp { o with stage := 1, buf := false }
      | _ => s
    | none => s)

/-- The start state of a routine (R330). Words held for another process or another launch's image are not kept (R16, R327, log 74). -/
def Slot.startRoutine (x : Slot) (h uid : Nat) (entry target : Reg64) (pay : List Reg64) (r : RoutineRef) : Slot :=
  let y := Slot.initial h
  let y : Slot := { y with live := true, uid := uid, pid := r.pid, pc := entry, srs := x.srs, grant := if isNib h then 16 else 0, request := if isNib h then 16 else 0, watch := r.watch, lid := r.lid, routine := some r, words := if x.lid = r.lid then x.words.filter (fun w => w.1 == r.pid) else [] }
  (pay.zipIdx.foldl (fun (y : Slot) (p : Reg64 × Nat) => y.putG (p.2 + 1) p.1) y).putG 9 target

/-- The nib turns to a process: its local store is zeroed and its srs set again for a new one (R327, R330). -/
def State.turnNib (s : State) (n : Nat) (pid : BitVec 16) : State :=
  let s := match (s.nib n).lastPid with
    | some p =>
      if p = pid then s
      else ({ s with nibMem := Mem.clear (n * 65536) ((n + 1) * 65536) s.nibMem } : State).modSlot (nibHart n) (fun x => { x with srs := (Slot.initial (nibHart n)).srs })
    | none => s
  s.modNib n (fun x => { x with lastPid := some pid })

/-- The caller's earlier events come before the routine's (R223, R233, R335): no acquire or load of the slot is still held, and no access of
it to the scratchpad the routine reaches is on its way. -/
def State.callerFirst (s : State) (o : Op) (u : Nat) : Bool := !s.heldBack o && (isNib u || !s.earlierOwn o (cidOf u * 65536) 65536)

/-- A unit starts the first routine that waits for it (R330, R336), or ends the call whose process has lost the cluster meanwhile (R18). -/
def execRoutineStart (op : Nat) (s : State) : Host.Outcome State Fault Refusal :=
  .next (match s.op? op with
    | some o => match o.kind with
      | .rcall entry target pay _ u =>
        let first := (s.replies.filter (fun r => r.unit == u && (s.op? r.op).any (fun p => p.stage == 1 && (match p.kind with | .rcall _ _ _ _ _ => true | _ => false)))).head?
        if o.stage ≠ 1 ∨ ¬ s.unitFree u ∨ s.unitOut u ∨ first.map (fun r => r.op) ≠ some op ∨ ¬ s.callerFirst o u then s
        else if ¬ isNib u ∧ ¬ s.holds o.pid (clusterOf u) then
          ({ s with replies := s.replies.map (fun e => if e.op = op then { e with reply := some (3, [target, r64 (0xFFFFFFFF * 2 ^ 32)]) } else e) } : State).failCall o 3 target
        else
          let s := if isNib u then s.turnNib (nibOf u) o.pid else s
          let r : RoutineRef := { op := op, entry := entry, pid := o.pid, lid := o.lid, cluster := o.cluster, watch := o.watch, ctok := o.ctok, began := s.clk }
          ({ (s.modSlot u (fun x => x.startRoutine u s.nextId entry target pay r)) with nextId := s.nextId + 1 } : State).setOp { o with stage := 2 }
      | _ => s
    | none => s)

/-- A routine stops by itself or is stopped with status 0x0F and a detail (R333, R336). -/
def State.stopCall (s : State) (h : Nat) (detail : Nat) : State :=
  match (s.slot h).routine with
  | some r => s.endRoutine h 0xF [r64 detail, r64 (((s.slot h).pc - r.entry).toNat % 2 ^ 32 * 2 ^ 32)]
  | none => s

/-- The budget of 20 µs is used up (R336): 36,000 clk. A vector access that a nib is in the middle of ends first (R185, log 5). -/
def execRoutineBudgetExpiry (op : Nat) (s : State) : Host.Outcome State Fault Refusal :=
  .next (match s.harts.find? (fun p => p.2.live && p.2.routine.any (fun r => r.op == op)) with
    | some (h, x) => if x.routine.any (fun r => decide (r.began + 36000 ≤ s.clk)) ∧ x.parts.isNone then s.stopCall h 2 else s
    | none => s)

/-! ## Replies (R332, R335, R339) -/

/-- ukind and unit of a reply (R332). -/
def replyUnit (owner : Nat) (target : Reg64) : Nat × Nat :=
  let off := offset target
  if onChip off then (if bits target 53 1 = 0 ∧ coreOfAddr off = cidOf owner then 0 else 1, coreOfAddr off) else (2, channelOf off)

/-- Word 0 of a reply (R332). -/
def replyWord (words status : Nat) (id : BitVec 16) (ukind part unit : Nat) : Reg64 :=
  r64 (2 ^ 61 + words * 2 ^ 56 + status * 2 ^ 48 + id.toNat * 2 ^ 32 + ukind * 2 ^ 29 + part * 2 ^ 24 + unit)

/-- The part that executes a call. -/
def State.replyPart (s : State) (u : Nat) : Nat := if 2 ^ 20 ≤ u then peerOf u else s.domIndex.toNat

/-- A reply arrives (R332, R335): word 0 to the token register, the whole to the inbox; the replies of one unit to a slot, of atomics
too, keep their order. -/
def execReplyArrival (op : Nat) (s : State) : Host.Outcome State Fault Refusal :=
  .next (match s.op? op with
    | some o => match o.kind with
      | .rcall _ target _ id u =>
        if o.stage ≠ 3 ∨ ¬ s.arrived o ∨ s.earlierReply o u then s
        else
          let k := replyUnit o.owner target
          let k := if u < 2 ^ 20 ∧ u = hartOf (cidOf o.owner) 4 then (0, k.2) else k
          let w := replyWord o.reply.length o.status id k.1 (s.replyPart u) k.2
          let s := if o.off.isSome then s.resolve o w [] else s
          (s.dropOp op).deliverMsg o.owner o.task (w :: o.reply)
      | _ => s
    | none => s)

/-- The caller's interface acknowledges a reply it has, and the cache entry is free (R339, R341). -/
def execReplyAcknowledgement (op : Nat) (s : State) : Host.Outcome State Fault Refusal :=
  .next (match s.op? op with
    | some o => match o.kind with
      | .atomic _ _ _ _ _ _ _ _ _ => if 2 ≤ o.stage then { s with replies := s.replies.filter (fun r => r.op != op) } else s
      | _ => s
    | none => { s with replies := s.replies.filter (fun r => r.op != op) })

/-- rc.timeout elapses without a reply (R340, R341, R401), or without a combiner's acceptance of a RADD whose channel it has to reach (R244): the unit has
left service (detail 3), lies beyond a link that is down or in a part that cannot be reached (detail 1), or can be reached and the timer
starts again. A reply that has been formed and has not arrived is no reply yet. A message to a part that cannot be reached ends with status
0x0F too (R401). -/
def execRcTimeoutExpiry (op : Nat) (s : State) : Host.Outcome State Fault Refusal :=
  .next (match s.op? op with
    | some o =>
      let again := s.setOp { o with due := o.due + (s.slot o.owner).rcTimeout * 1800 }
      let detail := fun (u : Nat) => if u < 2 ^ 20 ∧ s.unitOut u then some 3 else if s.canReach o.owner u then none else some 1
      if s.clk < o.due then s
      else match o.kind with
        | .rcall _ _ _ _ u => if 3 ≤ o.stage ∧ s.arrived o then s else match detail u with
          | some d => s.loseCall o d
          | none => again
        | .atomic _ _ a _ _ _ _ _ _ => if 1 ≤ o.stage ∧ (o.stage ≠ 1 ∨ s.arrived o) then s else match detail (s.callUnit a) with
          | some _ => s.setOp { o with stage := 1, die := dieOf o.owner, buf := false, status := 0xF, reply := [0] }
          | none => again
        | .radd a _ _ => if (s.address a).isNone ∨ s.combHolds o a ∨ s.canReach o.owner (s.callUnit a) then again else ((s.pushStatus o 0xF a).dropOp op).ackSlot o
        | .msg _ _ _ part _ =>
          if o.stage ≠ 0 ∨ part = s.domIndex.toNat then s
          else if s.canReach o.owner (2 ^ 20 + part) then again
          else (s.resolve o 0xF []).dropOp op
        | _ => s
    | none => s)

end Sys2Proof.Machine
end

