-- ==== Sys2Proof/Machine/Vector.lean ====
section
/-! DEFINITION. Vector instructions and the inkwell (R179 to R219). -/

namespace Sys2Proof.Machine

/-! ## Elements (R181 to R186) -/

/-- The format of a floating-point element type 4 to 7. -/
def elemFmt (t : BitVec 3) : Fmt := if t = 4 then fp16 else if t = 5 then bf16 else if t = 6 then fp32 else fp64

/-- The launch's watch flag, of a routine its caller's (R186, R416). -/
def Slot.watched (x : Slot) : Bool := match x.routine with | some r => r.watch | none => x.watch

/-- Element results with their flags and the stochastic-rounding state, elements in ascending order (R186). -/
def vfold (f : Nat → Reg64 → Rounded) : List Nat → Reg64 → List (Nat × Nat) × Flags × Reg64
  | [], q => ([], {}, q)
  | i :: l, q =>
    let r := f i q
    let t := vfold f l r.srs
    ((i, r.bits) :: t.1, r.flags.or t.2.1, t.2.2)

/-- The lowest element whose result is an infinity or a NaN (R186). -/
def firstNonFinite (f : Fmt) (l : List (Nat × Nat)) : Option Nat := (l.find? (fun p => f.nonFinite p.2)).map (fun p => p.1)

/-- Floating-point results written to v[d] with their flags, or, in a watched launch, the non-finite trap (R186). -/
def fpDone (d w : Nat) (f : Fmt) (r : List (Nat × Nat) × Flags × Reg64) (s : State) : Act :=
  match (if s.me.watched then firstNonFinite f r.1 else none) with
  | some i => .trap 9 (r64 i)
  | none => .done ((s.putElems d w r.1).withFlags r.2.1 r.2.2)

/-! ## VINT (R188) -/

/-- An exact integer result, wrapped or clamped (R188). -/
def intOut (w : Nat) (sat : BitVec 1) (v : Int) : Nat := if sat = 1 then wrap w (clampInt true w v) else wrap w v

def vint (op : Nat → Nat → Nat → Int) (sat : BitVec 1) (d a b : BitVec 5) (k t : BitVec 3) (s : State) : Act :=
  let w := elemWidth t
  let x := s.getV a.toNat
  let y := s.getV b.toNat
  .done (s.putElems d.toNat w ((s.actives k.toNat w).map (fun i => (i, intOut w sat (op w (elem w x i) (elem w y i))))))

def viAdd (w x y : Nat) : Int := asSigned w x + asSigned w y
def viSub (w x y : Nat) : Int := asSigned w x - asSigned w y
def viMul (w x y : Nat) : Int := asSigned w x * asSigned w y
def viAbs (w x _ : Nat) : Int := (asSigned w x).natAbs
/-- An operation of R130 on the patterns. -/
def viAlu (f : Nat → Nat → Nat → Nat) (w x y : Nat) : Int := f w x y

def execVadd (d a b : BitVec 5) (k t : BitVec 3) (s : BitVec 1) (q : State) : Host.Outcome State Fault Refusal := run (.vadd d a b k t s) q (vint viAdd s d a b k t)
def execVsub (d a b : BitVec 5) (k t : BitVec 3) (s : BitVec 1) (q : State) : Host.Outcome State Fault Refusal := run (.vsub d a b k t s) q (vint viSub s d a b k t)
def execVmul (d a b : BitVec 5) (k t : BitVec 3) (s : BitVec 1) (q : State) : Host.Outcome State Fault Refusal := run (.vmul d a b k t s) q (vint viMul s d a b k t)
def execVmulh (d a b : BitVec 5) (k t : BitVec 3) (q : State) : Host.Outcome State Fault Refusal := run (.vmulh d a b k t) q (vint (viAlu opMulh) 0 d a b k t)
def execVmin (d a b : BitVec 5) (k t : BitVec 3) (q : State) : Host.Outcome State Fault Refusal := run (.vmin d a b k t) q (vint (viAlu opMin) 0 d a b k t)
def execVmax (d a b : BitVec 5) (k t : BitVec 3) (q : State) : Host.Outcome State Fault Refusal := run (.vmax d a b k t) q (vint (viAlu opMax) 0 d a b k t)
def execVminn (d a b : BitVec 5) (k t : BitVec 3) (q : State) : Host.Outcome State Fault Refusal := run (.vminn d a b k t) q (vint (viAlu opMinn) 0 d a b k t)
def execVmaxn (d a b : BitVec 5) (k t : BitVec 3) (q : State) : Host.Outcome State Fault Refusal := run (.vmaxn d a b k t) q (vint (viAlu opMaxn) 0 d a b k t)
def execVand (d a b : BitVec 5) (k t : BitVec 3) (q : State) : Host.Outcome State Fault Refusal := run (.vand d a b k t) q (vint (viAlu opAnd) 0 d a b k t)
def execVor (d a b : BitVec 5) (k t : BitVec 3) (q : State) : Host.Outcome State Fault Refusal := run (.vor d a b k t) q (vint (viAlu opOr) 0 d a b k t)
def execVxor (d a b : BitVec 5) (k t : BitVec 3) (q : State) : Host.Outcome State Fault Refusal := run (.vxor d a b k t) q (vint (viAlu opXor) 0 d a b k t)
def execVshl (d a b : BitVec 5) (k t : BitVec 3) (q : State) : Host.Outcome State Fault Refusal := run (.vshl d a b k t) q (vint (viAlu opShl) 0 d a b k t)
def execVshr (d a b : BitVec 5) (k t : BitVec 3) (q : State) : Host.Outcome State Fault Refusal := run (.vshr d a b k t) q (vint (viAlu opShr) 0 d a b k t)
def execVsar (d a b : BitVec 5) (k t : BitVec 3) (q : State) : Host.Outcome State Fault Refusal := run (.vsar d a b k t) q (vint (viAlu opSar) 0 d a b k t)
def execVabs (d a : BitVec 5) (k t : BitVec 3) (s : BitVec 1) (q : State) : Host.Outcome State Fault Refusal := run (.vabs d a k t s) q (vint viAbs s d a 0 k t)

/-! ## VFP (R190 to R192) -/

/-- Operations that round (R190): the exact result of a, b and the addend c. -/
def vfp (op : Bool → XNum → XNum → XNum → Exact) (sat : BitVec 1) (d a b : BitVec 5) (k t : BitVec 3) (s : State) : Act :=
  let w := elemWidth t
  let f := elemFmt t
  let m := s.me.mode
  let x := s.getV a.toNat
  let y := s.getV b.toNat
  let z := s.getV d.toNat
  fpDone d.toNat w f (vfold (fun i q =>
    let e := op (m == .rdn) (f.decode (elem w x i)) (f.decode (elem w y i)) (f.decode (elem w z i))
    let r := f.round m (sat == 1) q e.1
    { r with flags := e.2.or r.flags }) (s.actives k.toNat w) s.me.srs) s

/-- Operations on the patterns, which do not round (R191, R54). -/
def vfpBits (op : Fmt → Nat → Nat → Nat × Flags) (d a b : BitVec 5) (k t : BitVec 3) (s : State) : Act :=
  let w := elemWidth t
  let f := elemFmt t
  let x := s.getV a.toNat
  let y := s.getV b.toNat
  fpDone d.toNat w f (vfold (fun i q => let r := op f (elem w x i) (elem w y i); ⟨r.1, r.2, q⟩) (s.actives k.toNat w) s.me.srs) s

def vfAdd (rdn : Bool) (a b _ : XNum) : Exact := exactSum rdn [a, b]
def vfSub (rdn : Bool) (a b _ : XNum) : Exact := exactSum rdn [a, b.neg]
def vfMul (_ : Bool) (a b _ : XNum) : Exact := exactMul a b
def vfMa (rdn : Bool) (a b c : XNum) : Exact := exactFma rdn a b c
def vfMs (rdn : Bool) (a b c : XNum) : Exact := exactFma rdn a b c.neg
def vfNma (rdn : Bool) (a b c : XNum) : Exact := exactFma rdn a.neg b c
def vfDiv (_ : Bool) (a b _ : XNum) : Exact := exactDiv a b
def vfSqrt (_ : Bool) (a _ _ : XNum) : Exact := exactSqrt a

def execVfadd (d a b : BitVec 5) (k t : BitVec 3) (s : BitVec 1) (q : State) : Host.Outcome State Fault Refusal := run (.vfadd d a b k t s) q (vfp vfAdd s d a b k t)
def execVfsub (d a b : BitVec 5) (k t : BitVec 3) (s : BitVec 1) (q : State) : Host.Outcome State Fault Refusal := run (.vfsub d a b k t s) q (vfp vfSub s d a b k t)
def execVfmul (d a b : BitVec 5) (k t : BitVec 3) (s : BitVec 1) (q : State) : Host.Outcome State Fault Refusal := run (.vfmul d a b k t s) q (vfp vfMul s d a b k t)
def execVfma (d a b : BitVec 5) (k t : BitVec 3) (s : BitVec 1) (q : State) : Host.Outcome State Fault Refusal := run (.vfma d a b k t s) q (vfp vfMa s d a b k t)
def execVfms (d a b : BitVec 5) (k t : BitVec 3) (s : BitVec 1) (q : State) : Host.Outcome State Fault Refusal := run (.vfms d a b k t s) q (vfp vfMs s d a b k t)
def execVfnma (d a b : BitVec 5) (k t : BitVec 3) (s : BitVec 1) (q : State) : Host.Outcome State Fault Refusal := run (.vfnma d a b k t s) q (vfp vfNma s d a b k t)
def execVfdiv (d a b : BitVec 5) (k t : BitVec 3) (s : BitVec 1) (q : State) : Host.Outcome State Fault Refusal := run (.vfdiv d a b k t s) q (vfp vfDiv s d a b k t)
def execVfsqrt (d a : BitVec 5) (k t : BitVec 3) (s : BitVec 1) (q : State) : Host.Outcome State Fault Refusal := run (.vfsqrt d a k t s) q (vfp vfSqrt s d a 0 k t)
def execVfmin (d a b : BitVec 5) (k t : BitVec 3) (q : State) : Host.Outcome State Fault Refusal := run (.vfmin d a b k t) q (vfpBits (fun f x y => fpMinMax f false x y) d a b k t)
def execVfmax (d a b : BitVec 5) (k t : BitVec 3) (q : State) : Host.Outcome State Fault Refusal := run (.vfmax d a b k t) q (vfpBits (fun f x y => fpMinMax f true x y) d a b k t)
def execVfabs (d a : BitVec 5) (k t : BitVec 3) (q : State) : Host.Outcome State Fault Refusal := run (.vfabs d a k t) q (vfpBits (fun f x _ => (x % 2 ^ (f.width - 1), {})) d a 0 k t)
def execVfneg (d a : BitVec 5) (k t : BitVec 3) (q : State) : Host.Outcome State Fault Refusal := run (.vfneg d a k t) q (vfpBits (fun f x _ => (x ^^^ 2 ^ (f.width - 1), {})) d a 0 k t)

/-- VFCLASS (R192): not arithmetic, and no result of R186. -/
def execVfclass (d a : BitVec 5) (k t : BitVec 3) (q : State) : Host.Outcome State Fault Refusal := run (.vfclass d a k t) q (fun s => .done (s.putElems d.toNat (elemWidth t) ((s.actives k.toNat (elemWidth t)).map (fun i => (i, fpClass (elemFmt t) (elem (elemWidth t) (s.getV a.toNat) i))))))

/-! ## Compares and masks (R194, R195) -/

/-- A mask with the bits of granules replaced. -/
def putBits (m : Nat) (l : List (Nat × Bool)) : Nat := l.foldl (fun m p => if p.2 then m ||| 2 ^ p.1 else m - (m &&& 2 ^ p.1)) m

/-- A compare (R194): one bit for each granule with an active element, of the AND over all elements of the granule. -/
def vcmp (pred : Nat → Nat → Nat → Bool) (fl : Nat → Nat → Flags) (d a b : BitVec 5) (k t : BitVec 3) (s : State) : Act :=
  let w := elemWidth t
  let x := s.getV a.toNat
  let y := s.getV b.toNat
  let acts := s.actives k.toNat w
  let js := (List.range 64).filter (fun j => acts.any (fun i => gran i w == j))
  let out := js.map (fun j => (j, (acts.filter (fun i => gran i w == j)).all (fun i => pred w (elem w x i) (elem w y i))))
  let f := acts.foldl (fun f i => f.or (fl (elem w x i) (elem w y i))) {}
  .done ((s.putK d.toNat (putBits (s.getK d.toNat) out)).withFlags f s.me.srs)

/-- A compare of floating-point elements: false where either is NaN. -/
def fpPred (f : Fmt) (p : XNum → XNum → Bool) (_ x y : Nat) : Bool :=
  let a := f.decode x
  let b := f.decode y
  !a.isNan && !b.isNan && p a b

def fpSig (f : Fmt) (x y : Nat) : Flags := snanFlags [f.decode x, f.decode y]
def fpAnyNan (f : Fmt) (x y : Nat) : Flags := { nv := (f.decode x).isNan || (f.decode y).isNan }

def execVceq (d a b : BitVec 5) (k t : BitVec 3) (q : State) : Host.Outcome State Fault Refusal := run (.vceq d a b k t) q (vcmp (fun _ x y => x == y) (fun _ _ => {}) d a b k t)
def execVcne (d a b : BitVec 5) (k t : BitVec 3) (q : State) : Host.Outcome State Fault Refusal := run (.vcne d a b k t) q (vcmp (fun _ x y => x != y) (fun _ _ => {}) d a b k t)
def execVclt (d a b : BitVec 5) (k t : BitVec 3) (q : State) : Host.Outcome State Fault Refusal := run (.vclt d a b k t) q (vcmp (fun w x y => decide (asSigned w x < asSigned w y)) (fun _ _ => {}) d a b k t)
def execVcle (d a b : BitVec 5) (k t : BitVec 3) (q : State) : Host.Outcome State Fault Refusal := run (.vcle d a b k t) q (vcmp (fun w x y => decide (asSigned w x ≤ asSigned w y)) (fun _ _ => {}) d a b k t)
def execVfceq (d a b : BitVec 5) (k t : BitVec 3) (q : State) : Host.Outcome State Fault Refusal := run (.vfceq d a b k t) q (vcmp (fpPred (elemFmt t) numEq) (fpSig (elemFmt t)) d a b k t)
def execVfclt (d a b : BitVec 5) (k t : BitVec 3) (q : State) : Host.Outcome State Fault Refusal := run (.vfclt d a b k t) q (vcmp (fpPred (elemFmt t) numLt) (fpAnyNan (elemFmt t)) d a b k t)
def execVfcle (d a b : BitVec 5) (k t : BitVec 3) (q : State) : Host.Outcome State Fault Refusal := run (.vfcle d a b k t) q (vcmp (fpPred (elemFmt t) numLe) (fpAnyNan (elemFmt t)) d a b k t)

def execKand (d a b : BitVec 5) (q : State) : Host.Outcome State Fault Refusal := run (.kand d a b) q (fun s => .done (s.putK d.toNat (s.getK a.toNat &&& s.getK b.toNat)))
def execKor (d a b : BitVec 5) (q : State) : Host.Outcome State Fault Refusal := run (.kor d a b) q (fun s => .done (s.putK d.toNat (s.getK a.toNat ||| s.getK b.toNat)))
def execKxor (d a b : BitVec 5) (q : State) : Host.Outcome State Fault Refusal := run (.kxor d a b) q (fun s => .done (s.putK d.toNat (s.getK a.toNat ^^^ s.getK b.toNat)))
def execKnot (d a : BitVec 5) (q : State) : Host.Outcome State Fault Refusal := run (.knot d a) q (fun s => .done (s.putK d.toNat (2 ^ 64 - 1 - s.getK a.toNat)))
def execKpop (d a : BitVec 5) (q : State) : Host.Outcome State Fault Refusal := run (.kpop d a) q (fun s => .done (s.putG d.toNat (r64 (sumBelow 64 (fun i => s.getK a.toNat / 2 ^ i % 2)))))
def execKfirst (d a : BitVec 5) (q : State) : Host.Outcome State Fault Refusal := run (.kfirst d a) q (fun s => .done (s.putG d.toNat (r64 (((List.range 64).find? (fun i => (s.getK a.toNat).testBit i)).getD 64))))
def execKmovK (d a : BitVec 5) (q : State) : Host.Outcome State Fault Refusal := run (.kmovK d a) q (fun s => .done (s.putK d.toNat (s.getK a.toNat)))
def execKmovG (d a : BitVec 5) (q : State) : Host.Outcome State Fault Refusal := run (.kmovG d a) q (fun s => .done (s.putG d.toNat (r64 (s.getK a.toNat))))
def execKmovKg (d a : BitVec 5) (q : State) : Host.Outcome State Fault Refusal := run (.kmovKg d a) q (fun s => .done (s.putK d.toNat (s.getG a.toNat).toNat))

/-! ## VPERM (R196 to R202) -/

/-- One value in every active element (R197). -/
def vbcast (d : BitVec 5) (k : Nat) (t : BitVec 3) (v : Nat) (s : State) : Act :=
  let w := elemWidth t
  .done (s.putElems d.toNat w ((s.actives k w).map (fun i => (i, v % 2 ^ w))))

/-- The value of a constant in an element type's context (R73, R197). -/
def constElem (t : BitVec 3) (c : Nat) : Nat := if t.toNat < 4 then constWord (elemWidth t) c else constFp t.toNat c

/-- Active elements, each from the sources (R198, R199, R201). -/
def vmove (f : Nat → Nat → Nat → Option Nat) (d a b : BitVec 5) (k t : BitVec 3) (s : State) : Act :=
  let w := elemWidth t
  let x := s.getV a.toNat
  let y := s.getV b.toNat
  .done (s.putElems d.toNat w ((s.actives k.toNat w).filterMap (fun i => (f x y i).map (fun v => (i, v)))))

/-- VSLIDEUP and VSLIDEDN by g[vb] (R198). -/
def vslide (up : Bool) (d a b : BitVec 5) (k t : BitVec 3) (s : State) : Act :=
  let w := elemWidth t
  let n := (s.getG b.toNat).toNat
  vmove (fun x _ i => if up then (if n ≤ i then some (elem w x (i - n)) else none) else some (if i + n < s.vl w then elem w x (i + n) else 0)) d a 0 k t s

def vcomp (d a : BitVec 5) (k t : BitVec 3) (s : State) : Act :=
  let w := elemWidth t
  let x := s.getV a.toNat
  let l := (s.actives k.toNat w).map (fun i => elem w x i)
  .done (s.putElems d.toNat w ((List.range (s.vl w)).map (fun i => (i, l.getD i 0))))

def vexpd (d a : BitVec 5) (k t : BitVec 3) (s : State) : Act :=
  let w := elemWidth t
  let x := s.getV a.toNat
  let l := s.actives k.toNat w
  .done (s.putElems d.toNat w ((List.range (s.vl w)).map (fun i => (i, if l.contains i then elem w x (l.filter (fun j => decide (j < i))).length else 0))))

def vmerge (d a b : BitVec 5) (k t : BitVec 3) (s : State) : Act :=
  let w := elemWidth t
  let x := s.getV a.toNat
  let y := s.getV b.toNat
  .done (s.putElems d.toNat w ((List.range (s.vl w)).map (fun i => (i, if (s.getK k.toNat).testBit (gran i w) then elem w x i else elem w y i))))

def vextr (d a b : BitVec 5) (t : BitVec 3) (s : State) : Act :=
  let w := elemWidth t
  let i := (s.getG b.toNat).toNat
  let v := elem w (s.getV a.toNat) i
  .done (s.putG d.toNat (if i < s.vl w then (if t.toNat < 4 then sextNat w v else r64 v) else 0))

def vins (d a b : BitVec 5) (k t : BitVec 3) (s : State) : Act :=
  let w := elemWidth t
  let i := (s.getG b.toNat).toNat
  .done (s.putElems d.toNat w (if (s.actives k.toNat w).contains i then [(i, (s.getG a.toNat).toNat % 2 ^ w)] else []))

def execVbcast (d a : BitVec 5) (k t : BitVec 3) (q : State) : Host.Outcome State Fault Refusal := run (.vbcast d a k t) q (fun s => vbcast d k.toNat t (s.getG a.toNat).toNat s)
def execVbcastConstant (d : BitVec 5) (c : BitVec 6) (k : BitVec 2) (t : BitVec 3) (q : State) : Host.Outcome State Fault Refusal := run (.vbcastConstant d c k t) q (vbcast d k.toNat t (constElem t c.toNat))
def execVslideup (d a b : BitVec 5) (k t : BitVec 3) (q : State) : Host.Outcome State Fault Refusal := run (.vslideup d a b k t) q (vslide true d a b k t)
def execVslidedn (d a b : BitVec 5) (k t : BitVec 3) (q : State) : Host.Outcome State Fault Refusal := run (.vslidedn d a b k t) q (vslide false d a b k t)
def execVperm (d a b : BitVec 5) (k t : BitVec 3) (q : State) : Host.Outcome State Fault Refusal := run (.vperm d a b k t) q (fun s => vmove (fun x y i => some (if elem (elemWidth t) y i < s.vl (elemWidth t) then elem (elemWidth t) x (elem (elemWidth t) y i) else 0)) d a b k t s)
def execVcomp (d a : BitVec 5) (k t : BitVec 3) (q : State) : Host.Outcome State Fault Refusal := run (.vcomp d a k t) q (vcomp d a k t)
def execVexpd (d a : BitVec 5) (k t : BitVec 3) (q : State) : Host.Outcome State Fault Refusal := run (.vexpd d a k t) q (vexpd d a k t)
def execVmerge (d a b : BitVec 5) (k t : BitVec 3) (q : State) : Host.Outcome State Fault Refusal := run (.vmerge d a b k t) q (vmerge d a b k t)
def execVmov (d a : BitVec 5) (k t : BitVec 3) (q : State) : Host.Outcome State Fault Refusal := run (.vmov d a k t) q (vmove (fun x _ i => some (elem (elemWidth t) x i)) d a 0 k t)
def execVextr (d a b : BitVec 5) (t : BitVec 3) (q : State) : Host.Outcome State Fault Refusal := run (.vextr d a b t) q (vextr d a b t)
def execVins (d a b : BitVec 5) (k t : BitVec 3) (q : State) : Host.Outcome State Fault Refusal := run (.vins d a b k t) q (vins d a b k t)

/-! ## VRED (R59, R60, R203, R204) -/

/-- One addition of a sum: wrapped, or rounded once (R32, R47). -/
def redAdd (t : BitVec 3) (m : Rnd) (q : Reg64) (x y : Nat) : Rounded :=
  if t.toNat < 4 then ⟨(x + y) % 2 ^ elemWidth t, {}, q⟩
  else
    let f := elemFmt t
    let e := exactSum (m == .rdn) [f.decode x, f.decode y]
    let r := f.round m false q e.1
    { r with flags := e.2.or r.flags }

/-- A reduction in ascending element order from a first value (R59). -/
def redSeq (op : Reg64 → Nat → Nat → Rounded) (x : Nat) (q : Reg64) : List Nat → Rounded
  | [] => ⟨x, {}, q⟩
  | y :: l =>
    let r := op q x y
    let t := redSeq op r.bits r.srs l
    { t with flags := r.flags.or t.flags }

/-- One level of the tree of R60. -/
def redLevel (op : Reg64 → Nat → Nat → Rounded) : List (Option Nat) → Reg64 → List (Option Nat) × Flags × Reg64
  | some x :: some y :: l, q =>
    let r := op q x y
    let t := redLevel op l r.srs
    (some r.bits :: t.1, r.flags.or t.2.1, t.2.2)
  | x :: y :: l, q => let t := redLevel op l q; ((if x.isSome then x else y) :: t.1, t.2.1, t.2.2)
  | l, q => (l, {}, q)

/-- The root of the tree over 2^n leaves (R60); +0 where it is absent. -/
def redTree (op : Reg64 → Nat → Nat → Rounded) : Nat → List (Option Nat) → Reg64 → Rounded
  | 0, l, q => ⟨((l.headD none).getD 0), {}, q⟩
  | n + 1, l, q =>
    let v := redLevel op l q
    let t := redTree op n v.1 v.2.2
    { t with flags := v.2.1.or t.flags }

/-- Element 0 of v[d] := the reduction of the active elements (R204); none active never traps (R186). -/
def vred (op : State → List Nat → Rounded) (d a : BitVec 5) (k t : BitVec 3) (s : State) : Act :=
  let w := elemWidth t
  let x := s.getV a.toNat
  let l := s.actives k.toNat w
  let r := op s (l.map (fun i => elem w x i))
  if 4 ≤ t.toNat ∧ l ≠ [] then fpDone d.toNat w (elemFmt t) ([(0, r.bits)], r.flags, r.srs) s
  else .done ((s.putElems d.toNat w [(0, r.bits)]).withFlags r.flags r.srs)

def vrsum (t : BitVec 3) (s : State) (l : List Nat) : Rounded :=
  match l with
  | [] => ⟨0, {}, s.me.srs⟩
  | x :: l => redSeq (redAdd t s.me.mode) x s.me.srs l

/-- VRMAX and VRMIN over the active elements (R203, R204): a signalling NaN raises NV, if it is the only one too. -/
def vrext (isMax : Bool) (t : BitVec 3) (s : State) (l : List Nat) : Rounded :=
  let w := elemWidth t
  let f := elemFmt t
  match l with
  | [] => ⟨if t.toNat < 4 then (if isMax then 2 ^ (w - 1) else 2 ^ (w - 1) - 1) else f.inf isMax, {}, s.me.srs⟩
  | x :: l =>
    let r := redSeq (fun q x y => if t.toNat < 4 then ⟨if isMax then opMax w x y else opMin w x y, {}, q⟩ else let r := fpMinMax f isMax x y; ⟨r.1, r.2, q⟩) x s.me.srs l
    if t.toNat < 4 then r else { r with flags := r.flags.or (snanFlags ((x :: l).map f.decode)) }

/-- VRTSUM's leaves: one for each position of a register, absent where not active (R60). -/
def vrtsum (d a : BitVec 5) (k t : BitVec 3) (s : State) : Act :=
  let w := elemWidth t
  let x := s.getV a.toNat
  let l := s.actives k.toNat w
  vred (fun s _ => redTree (redAdd t s.me.mode) (Nat.log2 (2048 / w)) ((List.range (2048 / w)).map (fun i => if l.contains i then some (elem w x i) else none)) s.me.srs) d a k t s

def execVrsum (d a : BitVec 5) (k t : BitVec 3) (q : State) : Host.Outcome State Fault Refusal := run (.vrsum d a k t) q (vred (vrsum t) d a k t)
def execVrtsum (d a : BitVec 5) (k t : BitVec 3) (q : State) : Host.Outcome State Fault Refusal := run (.vrtsum d a k t) q (vrtsum d a k t)
def execVrmax (d a : BitVec 5) (k t : BitVec 3) (q : State) : Host.Outcome State Fault Refusal := run (.vrmax d a k t) q (vred (vrext true t) d a k t)
def execVrmin (d a : BitVec 5) (k t : BitVec 3) (q : State) : Host.Outcome State Fault Refusal := run (.vrmin d a k t) q (vred (vrext false t) d a k t)

/-! ## VCVT, VPACK, VUNPK (R205 to R209) -/

/-- The format of a destination code of R206 that is floating point. -/
def cvtFmt (e : Nat) : Option Fmt :=
  if 4 ≤ e ∧ e < 8 then some (elemFmt (BitVec.ofNat 3 e)) else if e = 12 then some fp8e4 else if e = 13 then some fp8e5 else none

/-- convert (R207). A wider floating-point format holds every integer of the source exactly, and nothing rounds. -/
def cvtElem (t : BitVec 3) (e : Nat) (sat : Bool) (m : Rnd) (x : Nat) (q : Reg64) : Rounded :=
  let ws := elemWidth t
  let wd := cvtWidth e
  if t.toNat < 4 then
    match cvtFmt e with
    | some f => f.round (if ws < wd then .rne else m) false q (XNum.ofInt false (asSigned ws x) 0)
    | none => ⟨wrap wd (if sat then clampInt (decide (e < 4)) wd (asSigned ws x) else asSigned ws x), {}, q⟩
  else
    match cvtFmt e with
    | some f => f.round m sat q ((elemFmt t).decode x)
    | none => toInt (decide (e < 4)) wd m q ((elemFmt t).decode x)

/-- The end of a conversion: R186 where the destination is floating point. -/
def cvtDone (d w : Nat) (f : Option Fmt) (r : List (Nat × Nat) × Flags × Reg64) (s : State) : Act :=
  match f with
  | some f => fpDone d w f r s
  | none => .done ((s.putElems d w r.1).withFlags r.2.1 r.2.2)

def vcvt (d a : BitVec 5) (sat : BitVec 1) (e : BitVec 4) (k t r : BitVec 3) (s : State) : Act :=
  let ws := elemWidth t
  let x := s.getV a.toNat
  cvtDone d.toNat (cvtWidth e.toNat) (cvtFmt e.toNat) (vfold (fun i q => cvtElem t e.toNat (sat == 1) (s.me.modeOf r.toNat) (elem ws x i) q) (s.actives k.toNat (max ws (cvtWidth e.toNat))) s.me.srs) s

/-- The source format of a VPACK: BF16 packs from FP32 (R208). -/
def packFmt (t : BitVec 3) : Fmt := if t = 6 then fp64 else fp32

def vpack (d a b : BitVec 5) (k t r : BitVec 3) (s : State) : Act :=
  let wd := elemWidth t
  let n := s.vl (2 * wd)
  let x := s.getV a.toNat
  let y := s.getV b.toNat
  let acts := (List.range (2 * n)).filter (fun i => (s.getK k.toNat).testBit (gran i wd))
  let src := fun i => if i < n then elem (2 * wd) x i else elem (2 * wd) y (i - n)
  if t.toNat < 4 then .done (s.putElems d.toNat wd (acts.map (fun i => (i, src i % 2 ^ wd))))
  else fpDone d.toNat wd (elemFmt t) (vfold (fun i q => (elemFmt t).round (s.me.modeOf r.toNat) false q ((packFmt t).decode (src i))) acts s.me.srs) s

/-- The source and destination formats of a widening (R209); none for integers. -/
def unpkFmt (t : BitVec 3) (e : BitVec 2) : Option (Fmt × Fmt) :=
  if e = 1 then some (fp8e4, fp16) else if e = 2 then some (fp8e5, fp16) else if t = 4 then some (fp16, fp32) else if t = 5 then some (bf16, fp32)
  else if t = 6 then some (fp32, fp64) else none

def vunpk (d a : BitVec 5) (e : BitVec 2) (z h : BitVec 1) (k t : BitVec 3) (s : State) : Act :=
  let ws := elemWidth t
  let n := s.vl (2 * ws)
  let x := s.getV a.toNat
  let src := fun i => elem ws x (h.toNat * n + i)
  let acts := s.actives k.toNat (2 * ws)
  match unpkFmt t e with
  | some (f, g) => fpDone d.toNat (2 * ws) g (vfold (fun i q => { g.round .rne false q (f.decode (src i)) with srs := q }) acts s.me.srs) s
  | none => .done (s.putElems d.toNat (2 * ws) (acts.map (fun i => (i, if z = 1 then src i else wrap (2 * ws) (asSigned ws (src i))))))

def execVcvt (d a : BitVec 5) (s : BitVec 1) (e : BitVec 4) (k t r : BitVec 3) (q : State) : Host.Outcome State Fault Refusal := run (.vcvt d a s e k t r) q (vcvt d a s e k t r)
def execVpack (d a b : BitVec 5) (k t r : BitVec 3) (q : State) : Host.Outcome State Fault Refusal := run (.vpack d a b k t r) q (vpack d a b k t r)
def execVunpk (d a : BitVec 5) (e : BitVec 2) (z h : BitVec 1) (k t : BitVec 3) (q : State) : Host.Outcome State Fault Refusal := run (.vunpk d a e z h k t) q (vunpk d a e z h k t)

/-! ## VMEM (R210 to R214) -/

/-- The checks of R212 over the accessed elements: the lowest address that a scalar access could not reach. -/
def vcheck (e : Nat) (st : Bool) (l : List (Nat × Reg64)) (s : State) : Option (Nat × Reg64) :=
  l.foldl (fun (b : Option (Nat × Reg64)) p =>
    match s.check p.2 e (!st) st with
    | none => b
    | some c => match b with
      | none => some (c, p.2)
      | some v => if p.2.toNat < v.2.toNat then some (c, p.2) else b) none

/-- Storage errors met by the loads (R290): the state with the corrected ones recorded, and the address of one that is not. -/
def vecc (e : Nat) : List (Nat × Reg64) → State → State × Option Reg64
  | [], s => (s, none)
  | p :: l, s => let r := s.eccRead p.2 e; if r.2 then (s, some p.2) else vecc e l r.1

/-- Loads of elements in ascending order. -/
def vloads (e : Nat) : List (Nat × Reg64) → State → State × List (Nat × Nat)
  | [], s => (s, [])
  | p :: l, s => let r := s.load p.2 e; let t := vloads e l r.1; (t.1, (p.1, r.2) :: t.2)

/-- A vector load that is held, or on its way: each 64-bit word of the register that takes an element is pending (R125, R243). -/
def loadsLater (d w : Nat) (l : List (Nat × Reg64)) (s : State) : State :=
  (List.range 32).foldl (fun s j =>
    let here := l.filter (fun p => p.1 * w / 64 == j)
    let off := s.me.vOff d + 8 * j
    if here = [] then s
    else s.loadLater off (here.map (fun p => (offset p.2, w / 8, p.1 * w % 64))) 0) s

/-- The agenda's next turn performs a part of the operation that the instruction would send: a vector load then reads its elements one by one,
in turns of their own, and any other access may fall between two of them (R214, log 5). -/
def State.splits (s : State) : Bool := match s.agenda with | .event (.pendingValueArrival n) :: _ => n == s.nextId | _ => false

/-- An event is the agenda's next turn. -/
def State.eventNext (s : State) : Bool := match s.agenda with | .event _ :: _ => true | _ => false

/-- Before an event a nib's access of several elements makes them in turns of their own, so that a copy or a host access may come between two
of them (R214, R336, log 5). -/
def State.splitsNib (s : State) (l : List (Nat × Reg64)) : Bool := isNib s.cur && s.eventNext && decide (1 < l.length)

/-- A vector load of the elements l (R211, R212). -/
def vload (d : BitVec 5) (w : Nat) (l : List (Nat × Reg64)) (s : State) : Act :=
  let e := w / 8
  match vcheck e false l s with
  | some t => .trap t.1 t.2
  | none =>
    match vecc e l s with
    | (_, some a) => .trap 8 a
    | (s, none) =>
      if s.splitsNib l then .stay (s.modMe (fun x => { x with parts := some ⟨some (d.toNat, w), e, l.map (fun p => (p.1, s.nibHome p.2 e false, 0))⟩ }))
      else if ¬ (s.accessesHeld || s.splits || l.any (fun p => s.ownBusy (offset p.2) e)) ∨ ¬ isTask s.cur then let r := vloads e l s; .done (r.1.putElems d.toNat w r.2)
      else .done (if 28 ≤ d.toNat then s.loadToPort (64 + d.toNat) (l.map (fun p => (offset p.2, e, p.1 * w))) 0 else loadsLater d.toNat w l s)

/-- The element writes of a store, as `storeEls` takes them. -/
def vels (d : BitVec 5) (w : Nat) (l : List (Nat × Reg64)) (s : State) : List (Nat × Nat × Nat) :=
  let v := s.getV d.toNat
  l.map (fun p => (if isNib s.cur then p.2.toNat else offset p.2, w / 8, elem w v p.1))

def vstore (d : BitVec 5) (w : Nat) (l : List (Nat × Reg64)) (s : State) : Act :=
  match vcheck (w / 8) true l s with
  | some t => .trap t.1 t.2
  | none =>
    if s.splitsNib l then .stay (s.modMe (fun x => { x with parts := some ⟨none, w / 8, l.map (fun p => (p.1, s.nibHome p.2 (w / 8) true, elem w (s.getV d.toNat) p.1))⟩ }))
    else .done (if l = [] then s else s.storeEls (vels d w l s))

/-- An access with a base that must be aligned (R212). -/
def vbase (a : BitVec 5) (w : Nat) (s : State) (k : Reg64 → Act) : Act :=
  let b := s.getG a.toNat
  if b.toNat % (w / 8) ≠ 0 then .trapOn [gs5 a] 2 b else k b

/-- The elements of VLDS and VSTS: a stride that is no multiple of the element size traps. -/
def vstride (a5 b5 : BitVec 5) (k : BitVec 3) (w : Nat) (b : Reg64) (s : State) (f : List (Nat × Reg64) → Act) : Act :=
  let q := s.getG b5.toNat
  if q.toNat % (w / 8) ≠ 0 then .trapOn [gs5 a5, gs5 b5] 2 q else f ((s.actives k.toNat w).map (fun i => (i, b + r64 i * q)))

/-- VSTXC (R213): the first of each group of equal addresses is stored, the others stay marked. -/
def vstxc (d : BitVec 5) (k : BitVec 3) (w : Nat) (l : List (Nat × Reg64)) (s : State) : Act :=
  match vstore d w (l.filter (fun p => !late l p)) s with
  | .done s' => .done (s'.putK k.toNat (putBits (s'.getK k.toNat) (l.map (fun p => (p.1, late l p)))))
  | a => a

/-- One element of a nib's access under way: a load's is read, after the folds there (R237), a store's written. No check comes again. -/
def State.doPart (q : Parts) (s : State) (p : Nat × Nat × Nat) : State :=
  match q.dst with
  | none => s.writeHome p.2.1 q.size p.2.2
  | some d =>
    if 2 ^ 60 ≤ p.2.1 then let s := s.foldAt (p.2.1 - 2 ^ 60) q.size; s.putElems d.1 d.2 [(p.1, Mem.read s.ext (p.2.1 - 2 ^ 60) q.size)]
    else s.putElems d.1 d.2 [(p.1, Mem.read s.nibMem p.2.1 q.size)]

/-- A nib's turn in the middle of a VLD or VST: one element where an event is the next turn and more than one is left, else all, and the
instruction has completed. Nothing traps or stops it between two of them (R185). -/
def State.nextParts (s : State) : State :=
  match s.me.parts with
  | none => s
  | some q =>
    if s.eventNext ∧ 1 < q.left.length then ((q.left.take 1).foldl (State.doPart q) s).modMe (fun x => { x with parts := some { q with left := q.left.drop 1 } })
    else ((q.left.foldl (State.doPart q) s).modMe (fun x => { x with parts := none })).advance s.cur 4

def execVld (d a b : BitVec 5) (k t : BitVec 3) (q : State) : Host.Outcome State Fault Refusal := run (.vld d a b k t) q (fun s => vbase a (elemWidth t) s (fun p => vload d (elemWidth t) (contig b k (elemWidth t) p s) s))
def execVst (d a b : BitVec 5) (k t : BitVec 3) (q : State) : Host.Outcome State Fault Refusal := run (.vst d a b k t) q (fun s => vbase a (elemWidth t) s (fun p => vstore d (elemWidth t) (contig b k (elemWidth t) p s) s))
def execVlds (d a b : BitVec 5) (k t : BitVec 3) (q : State) : Host.Outcome State Fault Refusal := run (.vlds d a b k t) q (fun s => vbase a (elemWidth t) s (fun p => vstride a b k (elemWidth t) p s (fun l => vload d (elemWidth t) l s)))
def execVsts (d a b : BitVec 5) (k t : BitVec 3) (q : State) : Host.Outcome State Fault Refusal := run (.vsts d a b k t) q (fun s => vbase a (elemWidth t) s (fun p => vstride a b k (elemWidth t) p s (fun l => vstore d (elemWidth t) l s)))
def execVldx (d a b : BitVec 5) (k t : BitVec 3) (q : State) : Host.Outcome State Fault Refusal := run (.vldx d a b k t) q (fun s => vbase a (elemWidth t) s (fun p => vload d (elemWidth t) (indexed b k (elemWidth t) p s) s))
def execVstx (d a b : BitVec 5) (k t : BitVec 3) (q : State) : Host.Outcome State Fault Refusal := run (.vstx d a b k t) q (fun s => vbase a (elemWidth t) s (fun p => vstore d (elemWidth t) (indexed b k (elemWidth t) p s) s))
def execVstxc (d a b : BitVec 5) (k t : BitVec 3) (q : State) : Host.Outcome State Fault Refusal := run (.vstxc d a b k t) q (fun s => vbase a (elemWidth t) s (fun p => vstxc d k (elemWidth t) (indexed b k (elemWidth t) p s) s))

/-! ## VSPEC (R215 to R219) -/

/-- VTILD (R216): of L, o and the source, in this order, the first that is not aligned is reported (log 18). Held back
by an acquire or an own access to its source, it reads the source later, while its slot goes on (R243, log 12). -/
def vtild (d a b : BitVec 5) (s : State) : Act :=
  let l := s.getG d.toNat
  let src := s.getG a.toNat
  let o := s.getG b.toNat
  if l.toNat % 16 ≠ 0 then .trapOn [gs5 d] 2 l
  else if o.toNat % 16 ≠ 0 then .trapOn [gs5 d, gs5 b] 2 o
  else if src.toNat % 16 ≠ 0 then .trap 2 src
  else
    if l = 0 ∨ 4096 < o.toNat + l.toNat then .trap 3 o
    else match (List.range (l.toNat / 8)).findSome? (fun i => (s.check (src + r64 (8 * i)) 8 true false).map (fun c => (c, src + r64 (8 * i)))) with
      | some t => .trap t.1 t.2
      | none => match vecc 8 ((List.range (l.toNat / 8)).map (fun i => (i, src + r64 (8 * i)))) s with
        | (_, some a) => .trap 8 a
        | (s, none) =>
          let dst := panelOf s.cur * 4096 + o.toNat
          if s.accessesHeld || s.ownBusy (offset src) l.toNat then .done (s.post (.table dst l.toNat (offset src)) (fun p => p))
          else .done (s.copyTable (cidOf s.cur) dst (Mem.bytes (s.view s.cur) (offset src) l.toNat))

/-- The floor of an exact value; none for an infinity or a NaN. -/
def XNum.floor : XNum → Option Int
  | .fin n m e => some (if 0 ≤ e then signedInt n m * 2 ^ e.toNat else signedInt n m / 2 ^ (-e).toNat)
  | .zero _ => some 0
  | _ => none

/-- The header of a table (R217). -/
structure TableHeader where
  lo : XNum
  scale : XNum
  n : Nat
  below : Nat
  above : Nat
  deriving DecidableEq, Repr

/-- The segment index of x (R218): the mode and the edge; none where s is undefined. -/
def TableHeader.pick (h : TableHeader) (x : XNum) : Option (Nat × Nat) :=
  let p := exactMul (exactSum false [x, h.lo.neg]).1 h.scale
  let inf := fun (y : XNum) => y == .inf false || y == .inf true
  let at0 := fun (s : Int) => if s < 0 then some (h.below, 0) else if (h.n : Int) ≤ s then some (h.above, h.n - 1) else some (0, s.toNat)
  if (inf h.lo || inf h.scale) && p.1.isNan then none
  else match x with
    | .inf neg => at0 (if neg then -1 else h.n)
    | _ => match p.1 with
      | .inf neg => at0 (if neg then -1 else h.n)
      | y => (y.floor).bind at0

/-- One element of VTI (R218). Every x that is no NaN uses lo and scale, an infinite one too: under a NaN of either it gives the quiet NaN (log
88, the model's choice). -/
def tableElem (h : TableHeader) (coef : Nat → XNum × XNum) (f : Fmt) (m : Rnd) (xb : Nat) (q : Reg64) : Rounded :=
  let x := f.decode xb
  if x.isNan then ⟨f.qnan, snanFlags [x], q⟩
  else if h.lo.isNan || h.scale.isNan then ⟨f.qnan, snanFlags [h.lo, h.scale], q⟩
  else match h.pick x with
    | none => ⟨f.qnan, Flags.invalid, q⟩
    | some (1, _) => ⟨0, {}, q⟩
    | some (2, _) => ⟨xb, {}, q⟩
    | some (_, e) =>
      let c := coef e
      let v := exactFma (m == .rdn) c.2 x c.1
      let r := f.round m false q v.1
      { r with flags := v.2.or r.flags }

def vti (d a b : BitVec 5) (k t : BitVec 3) (s : State) : Act :=
  let o := s.getG b.toNat
  if o.toNat % 16 ≠ 0 then .trapOn [gs5 b] 2 o
  else if 4096 ≤ o.toNat then .trapOn [gs5 b] 3 o
  else
    let at0 := panelOf s.cur * 4096 + o.toNat
    let m := s.tables
    let w2 := r64 (Mem.read m (at0 + 8) 8)
    let n := bits w2 0 16
    if s.tablePending at0 16 then .wait s .pending
    else if bits w2 20 44 ≠ 0 ∨ bits w2 16 2 = 3 ∨ bits w2 18 2 = 3 ∨ n = 0 ∨ 510 < n ∨ 4096 < o.toNat + 16 + 8 * n then .trapOn [gs5 b] 1 o
    else if s.tablePending (at0 + 16) (8 * n) then .wait s .pending
    else
      let h : TableHeader := ⟨fp32.decode (Mem.read m at0 4), fp32.decode (Mem.read m (at0 + 4) 4), n, bits w2 16 2, bits w2 18 2⟩
      let coef := fun i => (fp32.decode (Mem.read m (at0 + 16 + 8 * i) 4), fp32.decode (Mem.read m (at0 + 20 + 8 * i) 4))
      let w := elemWidth t
      let x := s.getV a.toNat
      fpDone d.toNat w (elemFmt t) (vfold (fun i q => tableElem h coef (elemFmt t) s.me.mode (elem w x i) q) (s.actives k.toNat w) s.me.srs) s

/-- VISECT (R219). -/
def visect (d a b : BitVec 5) (k t : BitVec 3) (s : State) : Act :=
  let w := elemWidth t
  let x := s.getV a.toNat
  let y := s.getV b.toNat
  .done (s.putElems d.toNat w ((s.actives k.toNat w).map (fun i => (i, ((List.range (s.vl w)).find? (fun j => elem w y j == elem w x i)).getD (2 ^ w - 1)))))

def execVtild (d a b : BitVec 5) (q : State) : Host.Outcome State Fault Refusal := run (.vtild d a b) q (vtild d a b)
def execVti (d a b : BitVec 5) (k t : BitVec 3) (q : State) : Host.Outcome State Fault Refusal := run (.vti d a b k t) q (vti d a b k t)
def execVisect (d a b : BitVec 5) (k t : BitVec 3) (q : State) : Host.Outcome State Fault Refusal := run (.visect d a b k t) q (visect d a b k t)

end Sys2Proof.Machine
end

