-- ==== Sys2Proof/Machine/Dispatch.lean ====
section
/-! DEFINITION. One arm for each instruction and event of the opcode table: a direct call of its meaning. -/

namespace Sys2Proof.Machine

def exec (i : Instr) (s : State) : Host.Outcome State Fault Refusal :=
  match i with
  | .add d a b w c => Sys2Proof.Machine.execAdd d a b w c s
  | .sub d a b w c => Sys2Proof.Machine.execSub d a b w c s
  | .mul d a b w c => Sys2Proof.Machine.execMul d a b w c s
  | .mulh d a b w c => Sys2Proof.Machine.execMulh d a b w c s
  | .mulhn d a b w c => Sys2Proof.Machine.execMulhn d a b w c s
  | .madd d a b w c => Sys2Proof.Machine.execMadd d a b w c s
  | .div d a b w c => Sys2Proof.Machine.execDiv d a b w c s
  | .divn d a b w c => Sys2Proof.Machine.execDivn d a b w c s
  | .rem d a b w c => Sys2Proof.Machine.execRem d a b w c s
  | .remn d a b w c => Sys2Proof.Machine.execRemn d a b w c s
  | .and d a b w c => Sys2Proof.Machine.execAnd d a b w c s
  | .or d a b w c => Sys2Proof.Machine.execOr d a b w c s
  | .xor d a b w c => Sys2Proof.Machine.execXor d a b w c s
  | .andn d a b w c => Sys2Proof.Machine.execAndn d a b w c s
  | .shl d a b w c => Sys2Proof.Machine.execShl d a b w c s
  | .shr d a b w c => Sys2Proof.Machine.execShr d a b w c s
  | .sar d a b w c => Sys2Proof.Machine.execSar d a b w c s
  | .rol d a b w c => Sys2Proof.Machine.execRol d a b w c s
  | .min d a b w c => Sys2Proof.Machine.execMin d a b w c s
  | .max d a b w c => Sys2Proof.Machine.execMax d a b w c s
  | .minn d a b w c => Sys2Proof.Machine.execMinn d a b w c s
  | .maxn d a b w c => Sys2Proof.Machine.execMaxn d a b w c s
  | .slt d a b w c => Sys2Proof.Machine.execSlt d a b w c s
  | .sltn d a b w c => Sys2Proof.Machine.execSltn d a b w c s
  | .seq d a b w c => Sys2Proof.Machine.execSeq d a b w c s
  | .clz d a w => Sys2Proof.Machine.execClz d a w s
  | .ctz d a w => Sys2Proof.Machine.execCtz d a w s
  | .pop d a w => Sys2Proof.Machine.execPop d a w s
  | .brev d a w => Sys2Proof.Machine.execBrev d a w s
  | .bswap d a w => Sys2Proof.Machine.execBswap d a w s
  | .sext d a b w c => Sys2Proof.Machine.execSext d a b w c s
  | .zext d a b w c => Sys2Proof.Machine.execZext d a b w c s
  | .sel d a b w c => Sys2Proof.Machine.execSel d a b w c s
  | .addi d a imm => Sys2Proof.Machine.execAddi d a imm s
  | .andi d a imm => Sys2Proof.Machine.execAndi d a imm s
  | .ori d a imm => Sys2Proof.Machine.execOri d a imm s
  | .xori d a imm => Sys2Proof.Machine.execXori d a imm s
  | .shli d a q => Sys2Proof.Machine.execShli d a q s
  | .shri d a q => Sys2Proof.Machine.execShri d a q s
  | .sari d a q => Sys2Proof.Machine.execSari d a q s
  | .slti d a imm => Sys2Proof.Machine.execSlti d a imm s
  | .sltni d a imm => Sys2Proof.Machine.execSltni d a imm s
  | .muli d a imm => Sys2Proof.Machine.execMuli d a imm s
  | .addiX d a imm e => Sys2Proof.Machine.execAddiX d a imm e s
  | .andiX d a imm e => Sys2Proof.Machine.execAndiX d a imm e s
  | .oriX d a imm e => Sys2Proof.Machine.execOriX d a imm e s
  | .xoriX d a imm e => Sys2Proof.Machine.execXoriX d a imm e s
  | .shliX d a q => Sys2Proof.Machine.execShliX d a q s
  | .shriX d a q => Sys2Proof.Machine.execShriX d a q s
  | .sariX d a q => Sys2Proof.Machine.execSariX d a q s
  | .sltiX d a imm e => Sys2Proof.Machine.execSltiX d a imm e s
  | .sltniX d a imm e => Sys2Proof.Machine.execSltniX d a imm e s
  | .muliX d a imm e => Sys2Proof.Machine.execMuliX d a imm e s
  | .li d imm => Sys2Proof.Machine.execLi d imm s
  | .lih d imm => Sys2Proof.Machine.execLih d imm s
  | .liX d imm e => Sys2Proof.Machine.execLiX d imm e s
  | .lihX d imm e => Sys2Proof.Machine.execLihX d imm e s
  | .lea d a imm => Sys2Proof.Machine.execLea d a imm s
  | .leaX d a imm e => Sys2Proof.Machine.execLeaX d a imm e s
  | .beq a b o => Sys2Proof.Machine.execBeq a b o s
  | .bne a b o => Sys2Proof.Machine.execBne a b o s
  | .blt a b o => Sys2Proof.Machine.execBlt a b o s
  | .bge a b o => Sys2Proof.Machine.execBge a b o s
  | .bltn a b o => Sys2Proof.Machine.execBltn a b o s
  | .bgen a b o => Sys2Proof.Machine.execBgen a b o s
  | .bez a o => Sys2Proof.Machine.execBez a o s
  | .bnz a o => Sys2Proof.Machine.execBnz a o s
  | .j o => Sys2Proof.Machine.execJ o s
  | .call o => Sys2Proof.Machine.execCall o s
  | .jr a => Sys2Proof.Machine.execJr a s
  | .callr a => Sys2Proof.Machine.execCallr a s
  | .loop r c a l => Sys2Proof.Machine.execLoop r c a l s
  | .loopi r c n l => Sys2Proof.Machine.execLoopi r c n l s
  | .rpt l n d a b v => Sys2Proof.Machine.execRpt l n d a b v s
  | .ld t b q x o => Sys2Proof.Machine.execLd t b q x o s
  | .st t b q o => Sys2Proof.Machine.execSt t b q o s
  | .ldm t b c o => Sys2Proof.Machine.execLdm t b c o s
  | .stm t b c o => Sys2Proof.Machine.execStm t b c o s
  | .ldfe t b o => Sys2Proof.Machine.execLdfe t b o s
  | .ldff t b o => Sys2Proof.Machine.execLdff t b o s
  | .stfe t b o => Sys2Proof.Machine.execStfe t b o s
  | .stf t b o => Sys2Proof.Machine.execStf t b o s
  | .waitw t b o => Sys2Proof.Machine.execWaitw t b o s
  | .aadd d a b w n o => Sys2Proof.Machine.execAadd d a b w n o s
  | .aand d a b w n o => Sys2Proof.Machine.execAand d a b w n o s
  | .aor d a b w n o => Sys2Proof.Machine.execAor d a b w n o s
  | .axor d a b w n o => Sys2Proof.Machine.execAxor d a b w n o s
  | .amin d a b w n o => Sys2Proof.Machine.execAmin d a b w n o s
  | .amax d a b w n o => Sys2Proof.Machine.execAmax d a b w n o s
  | .aminn d a b w n o => Sys2Proof.Machine.execAminn d a b w n o s
  | .amaxn d a b w n o => Sys2Proof.Machine.execAmaxn d a b w n o s
  | .aswp d a b w n o => Sys2Proof.Machine.execAswp d a b w n o s
  | .acas d a b w n o => Sys2Proof.Machine.execAcas d a b w n o s
  | .faadd d a b w n o => Sys2Proof.Machine.execFaadd d a b w n o s
  | .famin d a b w n o => Sys2Proof.Machine.execFamin d a b w n o s
  | .famax d a b w n o => Sys2Proof.Machine.execFamax d a b w n o s
  | .radd a b t => Sys2Proof.Machine.execRadd a b t s
  | .fence r q => Sys2Proof.Machine.execFence r q s
  | .acq d => Sys2Proof.Machine.execAcq d s
  | .rel d => Sys2Proof.Machine.execRel d s
  | .bind d => Sys2Proof.Machine.execBind d s
  | .unbind d => Sys2Proof.Machine.execUnbind d s
  | .phnew d m => Sys2Proof.Machine.execPhnew d m s
  | .phjoin d m => Sys2Proof.Machine.execPhjoin d m s
  | .phleave d => Sys2Proof.Machine.execPhleave d s
  | .phsig d => Sys2Proof.Machine.execPhsig d s
  | .phwait d => Sys2Proof.Machine.execPhwait d s
  | .phnext d => Sys2Proof.Machine.execPhnext d s
  | .phfree d => Sys2Proof.Machine.execPhfree d s
  | .qsend f t => Sys2Proof.Machine.execQsend f t s
  | .qpeek f p => Sys2Proof.Machine.execQpeek f p s
  | .msend f t n => Sys2Proof.Machine.execMsend f t n s
  | .msendw f t n => Sys2Proof.Machine.execMsendw f t n s
  | .spawn f => Sys2Proof.Machine.execSpawn f s
  | .fork f => Sys2Proof.Machine.execFork f s
  | .joinc f => Sys2Proof.Machine.execJoinc f s
  | .launch f t => Sys2Proof.Machine.execLaunch f t s
  | .pipedecl f t => Sys2Proof.Machine.execPipedecl f t s
  | .pipego f t => Sys2Proof.Machine.execPipego f t s
  | .pipewait f t x => Sys2Proof.Machine.execPipewait f t x s
  | .view q b => Sys2Proof.Machine.execView q b s
  | .viewRegister d => Sys2Proof.Machine.execViewRegister d s
  | .lclaim d r => Sys2Proof.Machine.execLclaim d r s
  | .lclaimRegister d => Sys2Proof.Machine.execLclaimRegister d s
  | .lrn d => Sys2Proof.Machine.execLrn d s
  | .cpy f t => Sys2Proof.Machine.execCpy f t s
  | .cpyt f t p => Sys2Proof.Machine.execCpyt f t p s
  | .cpytSet f t p => Sys2Proof.Machine.execCpytSet f t p s
  | .cpyd f t o => Sys2Proof.Machine.execCpyd f t o s
  | .cpys f t => Sys2Proof.Machine.execCpys f t s
  | .rcall f t n r => Sys2Proof.Machine.execRcall f t n r s
  | .rret m => Sys2Proof.Machine.execRret m s
  | .trap d c => Sys2Proof.Machine.execTrap d c s
  | .sysr d n => Sys2Proof.Machine.execSysr d n s
  | .sysw d n => Sys2Proof.Machine.execSysw d n s
  | .brk c => Sys2Proof.Machine.execBrk c s
  | .vadd d a b k t q => Sys2Proof.Machine.execVadd d a b k t q s
  | .vsub d a b k t q => Sys2Proof.Machine.execVsub d a b k t q s
  | .vmul d a b k t q => Sys2Proof.Machine.execVmul d a b k t q s
  | .vmulh d a b k t => Sys2Proof.Machine.execVmulh d a b k t s
  | .vmin d a b k t => Sys2Proof.Machine.execVmin d a b k t s
  | .vmax d a b k t => Sys2Proof.Machine.execVmax d a b k t s
  | .vminn d a b k t => Sys2Proof.Machine.execVminn d a b k t s
  | .vmaxn d a b k t => Sys2Proof.Machine.execVmaxn d a b k t s
  | .vand d a b k t => Sys2Proof.Machine.execVand d a b k t s
  | .vor d a b k t => Sys2Proof.Machine.execVor d a b k t s
  | .vxor d a b k t => Sys2Proof.Machine.execVxor d a b k t s
  | .vshl d a b k t => Sys2Proof.Machine.execVshl d a b k t s
  | .vshr d a b k t => Sys2Proof.Machine.execVshr d a b k t s
  | .vsar d a b k t => Sys2Proof.Machine.execVsar d a b k t s
  | .vabs d a k t q => Sys2Proof.Machine.execVabs d a k t q s
  | .vfadd d a b k t q => Sys2Proof.Machine.execVfadd d a b k t q s
  | .vfsub d a b k t q => Sys2Proof.Machine.execVfsub d a b k t q s
  | .vfmul d a b k t q => Sys2Proof.Machine.execVfmul d a b k t q s
  | .vfma d a b k t q => Sys2Proof.Machine.execVfma d a b k t q s
  | .vfms d a b k t q => Sys2Proof.Machine.execVfms d a b k t q s
  | .vfnma d a b k t q => Sys2Proof.Machine.execVfnma d a b k t q s
  | .vfmin d a b k t => Sys2Proof.Machine.execVfmin d a b k t s
  | .vfmax d a b k t => Sys2Proof.Machine.execVfmax d a b k t s
  | .vfdiv d a b k t q => Sys2Proof.Machine.execVfdiv d a b k t q s
  | .vfsqrt d a k t q => Sys2Proof.Machine.execVfsqrt d a k t q s
  | .vfabs d a k t => Sys2Proof.Machine.execVfabs d a k t s
  | .vfneg d a k t => Sys2Proof.Machine.execVfneg d a k t s
  | .vfclass d a k t => Sys2Proof.Machine.execVfclass d a k t s
  | .vceq d a b k t => Sys2Proof.Machine.execVceq d a b k t s
  | .vcne d a b k t => Sys2Proof.Machine.execVcne d a b k t s
  | .vclt d a b k t => Sys2Proof.Machine.execVclt d a b k t s
  | .vcle d a b k t => Sys2Proof.Machine.execVcle d a b k t s
  | .vfceq d a b k t => Sys2Proof.Machine.execVfceq d a b k t s
  | .vfclt d a b k t => Sys2Proof.Machine.execVfclt d a b k t s
  | .vfcle d a b k t => Sys2Proof.Machine.execVfcle d a b k t s
  | .kand d a b => Sys2Proof.Machine.execKand d a b s
  | .kor d a b => Sys2Proof.Machine.execKor d a b s
  | .kxor d a b => Sys2Proof.Machine.execKxor d a b s
  | .knot d a => Sys2Proof.Machine.execKnot d a s
  | .kpop d a => Sys2Proof.Machine.execKpop d a s
  | .kfirst d a => Sys2Proof.Machine.execKfirst d a s
  | .kmovK d a => Sys2Proof.Machine.execKmovK d a s
  | .kmovG d a => Sys2Proof.Machine.execKmovG d a s
  | .kmovKg d a => Sys2Proof.Machine.execKmovKg d a s
  | .vbcast d a k t => Sys2Proof.Machine.execVbcast d a k t s
  | .vbcastConstant d c k t => Sys2Proof.Machine.execVbcastConstant d c k t s
  | .vslideup d a b k t => Sys2Proof.Machine.execVslideup d a b k t s
  | .vslidedn d a b k t => Sys2Proof.Machine.execVslidedn d a b k t s
  | .vperm d a b k t => Sys2Proof.Machine.execVperm d a b k t s
  | .vcomp d a k t => Sys2Proof.Machine.execVcomp d a k t s
  | .vexpd d a k t => Sys2Proof.Machine.execVexpd d a k t s
  | .vmerge d a b k t => Sys2Proof.Machine.execVmerge d a b k t s
  | .vmov d a k t => Sys2Proof.Machine.execVmov d a k t s
  | .vextr d a b t => Sys2Proof.Machine.execVextr d a b t s
  | .vins d a b k t => Sys2Proof.Machine.execVins d a b k t s
  | .vrsum d a k t => Sys2Proof.Machine.execVrsum d a k t s
  | .vrtsum d a k t => Sys2Proof.Machine.execVrtsum d a k t s
  | .vrmax d a k t => Sys2Proof.Machine.execVrmax d a k t s
  | .vrmin d a k t => Sys2Proof.Machine.execVrmin d a k t s
  | .vcvt d a q e k t r => Sys2Proof.Machine.execVcvt d a q e k t r s
  | .vpack d a b k t r => Sys2Proof.Machine.execVpack d a b k t r s
  | .vunpk d a e z h k t => Sys2Proof.Machine.execVunpk d a e z h k t s
  | .vld d a b k t => Sys2Proof.Machine.execVld d a b k t s
  | .vst d a b k t => Sys2Proof.Machine.execVst d a b k t s
  | .vlds d a b k t => Sys2Proof.Machine.execVlds d a b k t s
  | .vsts d a b k t => Sys2Proof.Machine.execVsts d a b k t s
  | .vldx d a b k t => Sys2Proof.Machine.execVldx d a b k t s
  | .vstx d a b k t => Sys2Proof.Machine.execVstx d a b k t s
  | .vstxc d a b k t => Sys2Proof.Machine.execVstxc d a b k t s
  | .vtild d a b => Sys2Proof.Machine.execVtild d a b s
  | .vti d a b k t => Sys2Proof.Machine.execVti d a b k t s
  | .visect d a b k t => Sys2Proof.Machine.execVisect d a b k t s
  | .mxcfg f => Sys2Proof.Machine.execMxcfg f s
  | .mxgo t => Sys2Proof.Machine.execMxgo t s
  | .mxz y n => Sys2Proof.Machine.execMxz y n s
  | .mxrd f t => Sys2Proof.Machine.execMxrd f t s
  | .mxwr f => Sys2Proof.Machine.execMxwr f s
  | .mxsp q => Sys2Proof.Machine.execMxsp q s
  | .mxrectForm f t => Sys2Proof.Machine.execMxrectForm f t s
  | .mxrectFree f t => Sys2Proof.Machine.execMxrectFree f t s
  | .oclaim t n => Sys2Proof.Machine.execOclaim t n s
  | .orel f => Sys2Proof.Machine.execOrel f s
  | .ofill f t => Sys2Proof.Machine.execOfill f t s
  | .semp q => Sys2Proof.Machine.execSemp q s
  | .semv q => Sys2Proof.Machine.execSemv q s
  | .qnt f t r => Sys2Proof.Machine.execQnt f t r s
  | .trc f l r => Sys2Proof.Machine.execTrc f l r s
  | .reward f t q c => Sys2Proof.Machine.execReward f t q c s
  | .plreg f t q => Sys2Proof.Machine.execPlreg f t q s
  | .pldrop f t q => Sys2Proof.Machine.execPldrop f t q s
  | .evsend f n => Sys2Proof.Machine.execEvsend f n s
  | .waitev t => Sys2Proof.Machine.execWaitev t s
  | .stepadv f t => Sys2Proof.Machine.execStepadv f t s
  | .nrn f => Sys2Proof.Machine.execNrn f s
  | .dring f t => Sys2Proof.Machine.execDring f t s
  | .dqdecl f t => Sys2Proof.Machine.execDqdecl f t s
  | .dqpush f t h => Sys2Proof.Machine.execDqpush f t h s
  | .dqpop f t h => Sys2Proof.Machine.execDqpop f t h s
  | .dqcons t h => Sys2Proof.Machine.execDqcons t h s
  | .dqarr f t h => Sys2Proof.Machine.execDqarr f t h s
  | .dqlook f h => Sys2Proof.Machine.execDqlook f h s
  | .dqjoin f t h => Sys2Proof.Machine.execDqjoin f t h s
  | .dqclose f t h => Sys2Proof.Machine.execDqclose f t h s
  | .dqfront t h => Sys2Proof.Machine.execDqfront t h s
  | .illegalInstruction w => Sys2Proof.Machine.execIllegalInstruction w s
  | .instructionFetchOutsideImage addr => Sys2Proof.Machine.execInstructionFetchOutsideImage addr s
  | .statusTrap cid sl => Sys2Proof.Machine.execStatusTrap cid sl s
  | .ret => Sys2Proof.Machine.execRet s
  | .lbrk => Sys2Proof.Machine.execLbrk s
  | .exit => Sys2Proof.Machine.execExit s
  | .yield => Sys2Proof.Machine.execYield s
  | .lyield => Sys2Proof.Machine.execLyield s
  | .eret => Sys2Proof.Machine.execEret s
  | .nop => Sys2Proof.Machine.execNop s
  | .canck => Sys2Proof.Machine.execCanck s
  | .halt => Sys2Proof.Machine.execHalt s
  | .yieldEnd cid sl => Sys2Proof.Machine.execYieldEnd cid sl s
  | .txinvPage pid vpn => Sys2Proof.Machine.execTxinvPage pid vpn s
  | .txinvProcess pid => Sys2Proof.Machine.execTxinvProcess pid s
  | .txinvAll => Sys2Proof.Machine.execTxinvAll s
  | .txinvCompletion n => Sys2Proof.Machine.execTxinvCompletion n s
  | .waitingDqpopService op => Sys2Proof.Machine.execWaitingDqpopService op s
  | .waitingDqpushService op => Sys2Proof.Machine.execWaitingDqpushService op s
  | .clusterAssignment cl pid => Sys2Proof.Machine.execClusterAssignment cl pid s
  | .clusterRelease cl => Sys2Proof.Machine.execClusterRelease cl s
  | .launchRecordAcceptance die => Sys2Proof.Machine.execLaunchRecordAcceptance die s
  | .priorityAging lid => Sys2Proof.Machine.execPriorityAging lid s
  | .launchReserving lid => Sys2Proof.Machine.execLaunchReserving lid s
  | .taskPlacement cl => Sys2Proof.Machine.execTaskPlacement cl s
  | .childStart cid => Sys2Proof.Machine.execChildStart cid s
  | .stealProbe cid => Sys2Proof.Machine.execStealProbe cid s
  | .forkRecruitment op => Sys2Proof.Machine.execForkRecruitment op s
  | .stageTaskPlacement cl pipe stage => Sys2Proof.Machine.execStageTaskPlacement cl pipe stage s
  | .pipelineOccupancyCheck cl pipe => Sys2Proof.Machine.execPipelineOccupancyCheck cl pipe s
  | .taskRetirement cid sl => Sys2Proof.Machine.execTaskRetirement cid sl s
  | .heldMessageDelivery cid sl => Sys2Proof.Machine.execHeldMessageDelivery cid sl s
  | .preemptionRequest cid sl => Sys2Proof.Machine.execPreemptionRequest cid sl s
  | .slotStateSave cid sl => Sys2Proof.Machine.execSlotStateSave cid sl s
  | .resumption n => Sys2Proof.Machine.execResumption n s
  | .tokenCancellation token => Sys2Proof.Machine.execTokenCancellation token s
  | .watchdogReport cid sl => Sys2Proof.Machine.execWatchdogReport cid sl s
  | .qsendDelivery op => Sys2Proof.Machine.execQsendDelivery op s
  | .messageDelivery op => Sys2Proof.Machine.execMessageDelivery op s
  | .msendwRetry op => Sys2Proof.Machine.execMsendwRetry op s
  | .pendingValueArrival op => Sys2Proof.Machine.execPendingValueArrival op s
  | .nullService op => Sys2Proof.Machine.execNullService op s
  | .mapPage op => Sys2Proof.Machine.execMapPage op s
  | .unmapPage op => Sys2Proof.Machine.execUnmapPage op s
  | .noSuchService op => Sys2Proof.Machine.execNoSuchService op s
  | .controlCoreRestart n => Sys2Proof.Machine.execControlCoreRestart n s
  | .storeAtHome op => Sys2Proof.Machine.execStoreAtHome op s
  | .waitwPoll op => Sys2Proof.Machine.execWaitwPoll op s
  | .storeAcknowledge op => Sys2Proof.Machine.execStoreAcknowledge op s
  | .acquireCompletion op => Sys2Proof.Machine.execAcquireCompletion op s
  | .fullEmptyAtOwner op => Sys2Proof.Machine.execFullEmptyAtOwner op s
  | .atomicAtOwner op => Sys2Proof.Machine.execAtomicAtOwner op s
  | .atomicReply op => Sys2Proof.Machine.execAtomicReply op s
  | .raddAtCombiner op => Sys2Proof.Machine.execRaddAtCombiner op s
  | .nibSumReceipt n => Sys2Proof.Machine.execNibSumReceipt n s
  | .copyEngineAcceptance op => Sys2Proof.Machine.execCopyEngineAcceptance op s
  | .copyCompletion op => Sys2Proof.Machine.execCopyCompletion op s
  | .stationTranslation pid va => Sys2Proof.Machine.execStationTranslation pid va s
  | .walkCompletion station n => Sys2Proof.Machine.execWalkCompletion station n s
  | .remoteCallArrival op => Sys2Proof.Machine.execRemoteCallArrival op s
  | .routineStart op => Sys2Proof.Machine.execRoutineStart op s
  | .routineBudgetExpiry op => Sys2Proof.Machine.execRoutineBudgetExpiry op s
  | .replyArrival op => Sys2Proof.Machine.execReplyArrival op s
  | .replyAcknowledgement op => Sys2Proof.Machine.execReplyAcknowledgement op s
  | .rcTimeoutExpiry op => Sys2Proof.Machine.execRcTimeoutExpiry op s
  | .mxOperationStart cl panel => Sys2Proof.Machine.execMxOperationStart cl panel s
  | .subarrayWake cl panel => Sys2Proof.Machine.execSubarrayWake cl panel s
  | .subarrayGating cl panel sub => Sys2Proof.Machine.execSubarrayGating cl panel sub s
  | .mxOperationCompletion op => Sys2Proof.Machine.execMxOperationCompletion op s
  | .ofillCompletion op => Sys2Proof.Machine.execOfillCompletion op s
  | .qntAcceptance op => Sys2Proof.Machine.execQntAcceptance op s
  | .qntCommandStart cl => Sys2Proof.Machine.execQntCommandStart cl s
  | .qntCommandCompletion cl => Sys2Proof.Machine.execQntCommandCompletion cl s
  | .trcAdmission op => Sys2Proof.Machine.execTrcAdmission op s
  | .rewardArming op region => Sys2Proof.Machine.execRewardArming op region s
  | .rewardPassStart region => Sys2Proof.Machine.execRewardPassStart region s
  | .rewardPassEnd region => Sys2Proof.Machine.execRewardPassEnd region s
  | .rewardCompletion op => Sys2Proof.Machine.execRewardCompletion op s
  | .stepTick ph => Sys2Proof.Machine.execStepTick ph s
  | .eventDeposit op => Sys2Proof.Machine.execEventDeposit op s
  | .waitevWake cid sl => Sys2Proof.Machine.execWaitevWake cid sl s
  | .requestAcceptance op => Sys2Proof.Machine.execRequestAcceptance op s
  | .escapeWaitExpiry op => Sys2Proof.Machine.execEscapeWaitExpiry op s
  | .packetReceipt link vc crcOk => Sys2Proof.Machine.execPacketReceipt link vc crcOk s
  | .packetAcknowledgement link vc => Sys2Proof.Machine.execPacketAcknowledgement link vc s
  | .linkRetrain link => Sys2Proof.Machine.execLinkRetrain link s
  | .linkTrainingEnd link => Sys2Proof.Machine.execLinkTrainingEnd link s
  | .ringRegistration die desc => Sys2Proof.Machine.execRingRegistration die desc s
  | .ringHeadWrite die ring head => Sys2Proof.Machine.execRingHeadWrite die ring head s
  | .hostMemoryRead pid va len => Sys2Proof.Machine.execHostMemoryRead pid va len s
  | .hostMemoryWrite pid va bytes => Sys2Proof.Machine.execHostMemoryWrite pid va bytes s
  | .firmwareImage unit version sigOk digest => Sys2Proof.Machine.execFirmwareImage unit version sigOk digest s
  | .attestationReport nonce => Sys2Proof.Machine.execAttestationReport nonce s
  | .telemetryRead item index => Sys2Proof.Machine.execTelemetryRead item index s
  | .managementSettingWrite item value => Sys2Proof.Machine.execManagementSettingWrite item value s
  | .throttleLevelChange die level => Sys2Proof.Machine.execThrottleLevelChange die level s
  | .thermalShutdown die => Sys2Proof.Machine.execThermalShutdown die s
  | .bringUp ports size index => Sys2Proof.Machine.execBringUp ports size index s
  | .bindCompletion op => Sys2Proof.Machine.execBindCompletion op s

end Sys2Proof.Machine
end

