-- ==== Sys2Proof/Machine/Turns.lean ====
section
/-! DEFINITION. Turns of harts and cores: the order in which slots issue (R24, R105), over the meaning of instructions as an
argument. -/

namespace Sys2Proof.Machine

/-- The meaning of instructions. -/
abbrev Exec := Instr → State → Host.Outcome State Fault Refusal

/-- The instruction hart h executes next (R138, R147): what `exec` runs, an illegal word and a fetch outside the image included. -/
def State.fetch (s : State) (h : Nat) : Instr := s.fetched h

/-- A hart's turn: a queued status trap comes before the next instruction (R281, R282); a nib in the middle of a vector access goes on with it
(R185). -/
def hartTurn (ex : Exec) (s : State) (h : Nat) : Host.Outcome State Fault Refusal :=
  let s := { s with cur := h }
  if s.takesStatus h then ex (.statusTrap (cidOf h) (slOf h)) s
  else if ¬ s.mayIssue h then .next s
  else if (s.slot h).parts.isSome then .next s.nextParts
  else
    let p := s.prelude h
    if p.2 then ex (p.1.fetch h) p.1 else .next p.1

/-- The slots of a core are tried in the order of R105 until one issues. -/
def issueGo (ex : Exec) : List Nat → State → Host.Outcome State Fault Refusal
  | [], s => .next s
  | h :: l, s =>
    if ¬ s.mayIssue h ∧ ¬ s.takesStatus h then issueGo ex l s
    else
      match hartTurn ex s h with
      | .next s' => if s'.waits s h then issueGo ex l s' else .next (s'.noteIssue h)
      | r => r

/-- A task slot of the core has a back-edge left to its next turn (R168). -/
def State.edgeDue (s : State) (c : Nat) : Bool := (List.range 4).any (fun i => (s.slot (hartOf c i)).edge)

/-- Those back-edges, in task slot order. -/
def State.takeEdges (s : State) (c : Nat) : State := (List.range 4).foldl (fun s i => s.takeEdge (hartOf c i)) s

/-- One issue slot of a core (R24, R105), of the 16,384 there are (R2). A back-edge left to it comes instead of an issue. -/
def coreTurn (ex : Exec) (s : State) (c : Nat) : Host.Outcome State Fault Refusal :=
  if 16384 ≤ c ∨ s.throttled c ∨ s.issueGone c then .next s
  else if s.edgeDue c then .next (s.takeEdges c)
  else issueGo ex (s.issueOrder c) s

/-- One turn. In reset no hart issues and nothing but bring-up and management goes on (R409, R411). -/
def turn (ex : Exec) (s : State) (t : Turn) : Host.Outcome State Fault Refusal :=
  match t with
  | .event i => if isEvent i ∧ (s.ready ∨ inReset i) then ex i s else .next s
  | .core c => if s.ready then coreTurn ex s c else .next s
  | .nib n => if s.ready ∧ n < 256 then hartTurn ex s (nibHart n) else .next s
  | .control n i =>
    if s.ready ∧ n < 16 then
      let p := ({ s with cur := ctlHart n } : State).readOf i
      if p.2 then ex i p.1 else .next p.1
    else .next s
  | .tick n => .next (s.tickClk n)

/-- One step: the next turn of the agenda, or, with an empty agenda, one clk in which the current core issues (where the last turn was a
nib's or a control core's, no core does). With power removed
(R410) nothing runs but a bring-up. -/
def stepWith (ex : Exec) (s : State) : Host.Outcome State Fault Refusal :=
  match s.agenda with
  | [] => if s.powered then turn ex (s.tickClk 1) (.core (cidOf s.cur)) else .fault .poweredOff
  | t :: rest =>
    if s.powered || (match t with | .event i => isBringUp i | _ => false) then turn ex { s with agenda := rest } t else .fault .poweredOff

end Sys2Proof.Machine
end

