-- ==== Sys2Proof/Machine/Step.lean ====
section
/-! DEFINITION. One step of the part. -/

namespace Sys2Proof.Machine

/-- The next turn of the agenda, or, with an empty agenda, one clk in which the current core issues by R105. -/
def step (s : State) : Host.Outcome State Fault Refusal := stepWith exec s

/-- The bytes of an instruction placed where the step fetches next, with what it takes for the step to fetch there (log 3). -/
def State.withFetchWord (s : State) (nbits w : Nat) : State := s.placeWord nbits w

end Sys2Proof.Machine
end

