-- ==== Sys2Proof/WellFormed.lean ====
section
/-! DEFINITION. Well-formed instructions: no field holds a reserved value (R82). An event of the part carries no word and is
always well formed. -/

namespace Sys2Proof

/-- The static checks of R82 pass: an issued instruction that fails them takes cause 0x01. -/
abbrev WellFormed (i : Instr) : Prop := legal i = true

/-- The instruction has a word of its own; the others are events of the part. -/
abbrev Encodable (i : Instr) : Prop := (encodeWord i).isSome = true

end Sys2Proof
end

