-- ==== Sys2Proof/Safety.lean ====
section
/-! DEFINITION. What counts as a sound state and a safe run, and the vocabulary of the claims: results written from the rules of
the manual, apart from the meanings. -/

namespace Sys2Proof.Machine

/-! ## Canonical memories -/

/-- The canonical form of one byte memory: addresses strictly rising, no byte as an unlisted address reads. -/
abbrev Memory.wf (m : Mem) : Bool := Mem.wf m

/-- Every byte memory of the part is in its canonical form: the scratchpads, external memory, nib stores, interpolation tables,
operand memory, accumulator stores, instruction stores, and the window of every slot and saved task. -/
structure State.Canonical (s : State) : Prop where
  spm : s.spm.wf = true
  ext : s.ext.wf = true
  nibMem : s.nibMem.wf = true
  tblMem : s.tblMem.wf = true
  opMem : s.opMem.wf = true
  accMem : s.accMem.wf = true
  imem : s.imem.wf = true
  win : ∀ p ∈ s.harts, p.2.win.wf = true
  saved : ∀ v ∈ s.saved, v.slot.win.wf = true

/-- The answer of a step is a next state. -/
def answers (r : Host.Outcome State Fault Refusal) : Bool := match r with | .next _ => true | _ => false

end Sys2Proof.Machine

namespace Sys2Proof.Claims

open Sys2Proof.Machine

/-! ## Integer operations -/

/-- The integer constants of R74, entries 0 to 31. -/
def constants : List Int := [0, 1, 2, 3, 4, 5, 6, 7, 8, 9, 10, 11, 12, 13, 14, 15, -1, -2, -3, -4, -5, -6, -7, -8, 16, 32, 64, 128, 256, 512, 1024, 2048]

/-- Source y of an ALU word: a register, or a constant (R73, R129). -/
def sourceY (s : State) (c : BitVec 1) (b : BitVec 6) : Reg64 := if c = 1 then BitVec.ofInt 64 (constants.getD b.toNat 0) else s.getG b.toNat

/-- An operation at the width of an ALU word: 64 bits, or the low 32 bits with the result sign-extended (R129). -/
def atWidth2 (w : BitVec 1) (f : (n : Nat) → BitVec n → BitVec n → BitVec n) (x y : Reg64) : Reg64 :=
  if w = 1 then (f 32 (x.setWidth 32) (y.setWidth 32)).signExtend 64 else f 64 x y
def atWidth1 (w : BitVec 1) (f : (n : Nat) → BitVec n → BitVec n) (x : Reg64) : Reg64 :=
  if w = 1 then (f 32 (x.setWidth 32)).signExtend 64 else f 64 x
def atWidth3 (w : BitVec 1) (f : (n : Nat) → BitVec n → BitVec n → BitVec n → BitVec n) (x y z : Reg64) : Reg64 :=
  if w = 1 then (f 32 (x.setWidth 32) (y.setWidth 32) (z.setWidth 32)).signExtend 64 else f 64 x y z

/-- A truth value as a number of n bits. -/
def flag (n : Nat) (b : Bool) : BitVec n := if b then 1 else 0

/-- The number whose bit i is f i. -/
def ofBits (n : Nat) (f : Nat → Bool) : BitVec n := BitVec.ofNat n ((List.range n).foldl (fun m i => if f i then m + 2 ^ i else m) 0)

/-- How many of the n bits come before the first set bit of a sequence. -/
def zerosBefore (n : Nat) (f : Nat → Bool) : BitVec n := BitVec.ofNat n ((List.range n).takeWhile (fun i => !f i)).length

/-! ## Completion in sequence -/

/-- No loop body ends at the instruction's last word, and no RPT frame runs: the next instruction is the one after it. -/
def straight (i : Instr) (s : State) : Prop :=
  s.me.rptOn = false ∧ ∀ t ∈ s.me.loops.head?, t.last ≠ s.me.pc + r64 (4 * i.words) - 4

/-- `a` shares `units` among the demands d 0 to d (n − 1), one each in order until they or the demands are spent (R168): no demand is
exceeded, nothing is left while one is unmet, and one that is unmet has no less than any later one and at most one less than any earlier. -/
def fair (n units : Nat) (d a : Nat → Nat) : Prop :=
  (∀ i < n, a i ≤ d i) ∧ ((List.range n).map a).sum = min units ((List.range n).map d).sum
  ∧ ∀ i < n, ∀ j < n, a j < d j → a i ≤ a j + (if i < j then 1 else 0)

/-- Byte i of a number. -/
def byteOf (v i : Nat) : Byte := BitVec.ofNat 8 (v / 256 ^ i)

end Sys2Proof.Claims

namespace Sys2Proof.Claims

open Sys2Proof.Machine

/-! ## Memory operations -/

/-- No ACQ, no atomic marked .ACQ and no load, VTILD or PIPEDECL that was held is outstanding of the hart's task: its accesses are not held (R243). -/
def unheld (s : State) : Prop :=
  ∀ o ∈ s.ops, o.owner = s.cur → o.task = s.me.uid → (∀ x, o.kind ≠ .acquire x) ∧ (∀ l r x, o.kind ≠ .load l r x) ∧ (∀ l r x, o.kind ≠ .table l r x) ∧ (∀ x, o.kind ≠ .declare x) ∧ (∀ fn n a v e nr m r, o.kind = .atomic fn n a v e 1 nr m r → 2 ≤ o.stage)

/-- The latest fault record about a cluster, or, for what a control core issued, with the management plane (R283, log 8). -/
def lastRecord (s : State) (cl : Nat) : Option FaultRecord := if cl < 64 then (s.cluster cl).errs.head? else s.mgmtErrs.head?

/-- A request buffer slot of the core is free and no slot of it waits for one (R403). -/
def buffered (s : State) : Prop := (s.core (cidOf s.cur)).bufWait = [] ∧ s.bufUsed (cidOf s.cur) < 8

/-- The address of a scalar access: g[b] plus the scaled offset (R247, R250). -/
def scaled (s : State) (b : BitVec 6) (n : Nat) (o : BitVec 11) : Reg64 := s.getG b.toNat + r64 n * o.signExtend 64

/-- The bytes [a, a+n) of a memory hold the number v, little-endian, and every other byte is as in another memory. -/
def holdsAt (m m' : Mem) (a n v : Nat) : Prop := ∀ x, m.get x = if a ≤ x ∧ x < a + n then byteOf v (x - a) else m'.get x

/-- A process may read, or write, the byte at an offset of its part: in a scratchpad of a cluster it holds, or in external memory through a
page with that permission that satisfies `need` (R220, R225, R270). -/
def reaches (s : State) (pid : BitVec 16) (w : Bool) (need : Reg64 → Prop) (a : Nat) : Prop :=
  a < 0x40000000 ∧ s.holds pid (a / 2 ^ 24) = true ∨ 0x40000000 ≤ a ∧ a < 2 ^ 48 ∧ ∃ p e, s.translate pid a (!w) w false = some (p, e) ∧ need e

/-- Where that byte is: in the scratchpads at its offset, or in external memory at the address it translates to. -/
def home (s : State) (pid : BitVec 16) (a : Nat) : Bool × Nat :=
  if a < 0x40000000 then (true, a) else (false, match s.translate pid a false false false with | some p => p.1 | none => 0)

/-- No routine that runs has written anything yet: no operation has to come after one (R234, log 91). -/
abbrev unwritten (s : State) : Prop := ∀ k ∈ s.harts, k.2.routine.all (fun r => r.wrote.isEmpty) = true

/-- The byte itself. -/
def byteOfPid (s : State) (pid : BitVec 16) (a : Nat) : Byte := if a < 0x40000000 then s.spm.get a else s.ext.get (home s pid a).2

/-- The atomic functions of R255 on values of n bytes: the integer ones, by function code. -/
def atomicInt (n fn x y e : Nat) : Nat :=
  let a := BitVec.ofNat (8 * n) x
  let b := BitVec.ofNat (8 * n) y
  (if fn = 0 then a + b else if fn = 1 then a &&& b else if fn = 2 then a ||| b else if fn = 3 then a ^^^ b
   else if fn = 4 then (if a.sle b then a else b) else if fn = 5 then (if a.sle b then b else a)
   else if fn = 6 then (if a.ule b then a else b) else if fn = 7 then (if a.ule b then b else a)
   else if fn = 8 then b else (if a = BitVec.ofNat (8 * n) e then b else a)).toNat

end Sys2Proof.Claims

namespace Sys2Proof.Claims

open Sys2Proof.Machine

/-! ## Values of floating-point operands -/

/-- The value of a decoded number; 0 for a zero, and meaningless for a NaN and an infinity. -/
def value : XNum → Rat
  | .fin n m e => (if n then -(m : Rat) else (m : Rat)) * (2 : Rat) ^ e
  | _ => 0

/-- It is a NaN; a signalling one. -/
def nan : XNum → Bool
  | .nan _ => true
  | _ => false
def snan : XNum → Bool
  | .nan s => s
  | _ => false

/-- It is an infinity. -/
def infinite : XNum → Bool
  | .inf _ => true
  | _ => false

/-- One number orders below another, −0 below +0 (R191). -/
def below : XNum → XNum → Bool
  | .inf true, b => b != .inf true
  | .inf false, _ => false
  | a, .inf n => decide (a ≠ .inf false) && !n
  | .zero a, .zero b => a && !b
  | a, b => decide (value a < value b)

/-- The lesser, or the greater, of two patterns, and whether a signalling NaN was met (R191). -/
def extreme (f : Fmt) (isMax : Bool) (x y : Nat) : Nat × Bool :=
  let a := f.decode x
  let b := f.decode y
  (if nan a && nan b then 2 ^ (f.width - 1) - 2 ^ (f.mant - 1) else if nan a then y else if nan b then x else if (if isMax then below a b else below b a) then y else x, snan a || snan b)

/-- The class of a pattern (R192): by its sign, its exponent field and its fraction. -/
def classOf (f : Fmt) (x : Nat) : Nat :=
  let neg := x / 2 ^ (f.width - 1) % 2 = 1
  let e := x / 2 ^ f.mant % 2 ^ (f.width - 1 - f.mant)
  let m := x % 2 ^ f.mant
  if e = 2 ^ (f.width - 1 - f.mant) - 1 then (if m = 0 then (if neg then 0 else 7) else if m < 2 ^ (f.mant - 1) then 8 else 9)
  else if e = 0 then (if m = 0 then (if neg then 3 else 4) else (if neg then 2 else 5))
  else (if neg then 1 else 6)

/-- A value rounded to an integer under a mode (R46); `rnd` is a draw of k bits for RSTO (R50). -/
def toInteger (mode : Rnd) (k rnd : Nat) (v : Rat) : Int :=
  let away := fun (n : Int) => if v < 0 then -n else n
  let u := if v < 0 then -v else v
  let q := u.floor
  let r := u - q
  match mode with
  | .rtz => away q
  | .rup => v.ceil
  | .rdn => v.floor
  | .rna => away (if r < 1 / 2 then q else q + 1)
  | .rne => away (if r < 1 / 2 ∨ (r = 1 / 2 ∧ q % 2 = 0) then q else q + 1)
  | .rsto => away (q + ((r * 2 ^ k).floor + rnd) / 2 ^ k)

/-- A conversion to an integer format (R55, R414): out of range before or after rounding gives the nearest bound. -/
def converted (signed : Bool) (w : Nat) (mode : Rnd) (u : Reg64) (x : XNum) : Rounded :=
  let lo : Int := if signed then -2 ^ (w - 1) else 0
  let hi : Int := if signed then 2 ^ (w - 1) - 1 else 2 ^ w - 1
  let as := fun (v : Int) => (BitVec.ofInt w v).toNat
  match x with
  | .nan _ => ⟨0, { nv := true }, u⟩
  | .inf n => ⟨as (if n then lo else hi), { nv := true }, u⟩
  | .zero _ => ⟨0, {}, u⟩
  | x =>
    let k := if w ≤ 16 then 16 else 32
    let u := if mode = .rsto then srsStep u else u
    let v := value x
    let t := toInteger mode k (u.toNat / 2 ^ (64 - k)) v
    if v < lo ∨ t < lo then ⟨as lo, { nv := true }, u⟩ else if hi < v ∨ hi < t then ⟨as hi, { nv := true }, u⟩ else ⟨as t, { nx := decide ((t : Rat) ≠ v) }, u⟩

/-- One element of a table of n segments (R217, R218): c0 and c1 of each segment, the modes below segment 0 and above the last. -/
def tabled (lo scale : XNum) (n low high : Nat) (c0 c1 : Nat → XNum) (f : Fmt) (mode : Rnd) (v : Nat) (u : Reg64) : Rounded :=
  let x := f.decode v
  let canonical := 2 ^ (f.width - 1) - 2 ^ (f.mant - 1)
  let far := infinite lo || infinite scale
  let undefined := far && ((infinite lo && x == lo) || (infinite scale && !infinite x && !infinite lo && value x == value lo) || ((infinite x || infinite lo) && !infinite scale && value scale == 0))
  let minus := fun (a : XNum) => match a with | .inf s => s | a => decide (value a < 0)
  let s : Int := match x with
    | .inf neg => if neg then -1 else n
    | x => if far then (if xor (match lo with | .inf s => !s | lo => decide (value x < value lo)) (minus scale) then -1 else n) else ((value x - value lo) * value scale).floor
  let m := if s < 0 then low else if (n : Int) ≤ s then high else 0
  let edge := if s < 0 then 0 else if (n : Int) ≤ s then n - 1 else s.toNat
  if nan x then ⟨canonical, { nv := snan x }, u⟩
  else if nan lo || nan scale then ⟨canonical, { nv := snan lo || snan scale }, u⟩
  else if undefined then ⟨canonical, { nv := true }, u⟩
  else if m = 1 then ⟨0, {}, u⟩
  else if m = 2 then ⟨v, {}, u⟩
  else
    let e := exactFma (mode == .rdn) (c1 edge) x (c0 edge)
    let r := f.round mode false u e.1
    { r with flags := e.2.or r.flags }

/-- Node i of level n of the tree of R60, over its leaves: its value, if it is present, and the flags of the additions below it. -/
def node (add : Nat → Nat → Nat × Flags) (leaf : Nat → Option Nat) : Nat → Nat → Option Nat × Flags
  | 0, i => (leaf i, {})
  | n + 1, i =>
    let a := node add leaf n (2 * i)
    let b := node add leaf n (2 * i + 1)
    match a.1, b.1 with
    | some x, some y => (some (add x y).1, (a.2.or b.2).or (add x y).2)
    | some x, none => (some x, a.2.or b.2)
    | none, y => (y, a.2.or b.2)

/-! ## Vector instructions -/

/-- The width of an integer element type (R181). -/
def intWidth (t : BitVec 3) : Nat := 8 * 2 ^ t.toNat

/-- The format of a floating-point element type (R181). -/
def fpFmt (t : BitVec 3) : Fmt := if t = 4 then fp16 else if t = 5 then bf16 else if t = 6 then fp32 else fp64

/-- The mask granule of element i of width w (R183). -/
def granule (i w : Nat) : Nat := if 32 ≤ w then i else i * w / 32

/-- The active elements under mask register k: those below VL whose granule's bit is 1, ascending (R181, R183). -/
def active (s : State) (k w : Nat) : List Nat := (List.range (32 * s.me.grant / w)).filter (fun i => (s.getK k).testBit (granule i w))

/-- Element i of width w of a vector value, as bits. -/
def lane (w v i : Nat) : BitVec w := BitVec.ofNat w (v / 2 ^ (w * i))

/-- A number clamped to the signed range of w bits. -/
def clamp (w : Nat) (v : Int) : Int := max (-2 ^ (w - 1)) (min (2 ^ (w - 1) - 1) v)

/-- An exact integer result at width w: wrapped, or clamped where the SAT bit is set (R188). -/
def narrowed (w : Nat) (sat : BitVec 1) (v : Int) : BitVec w := BitVec.ofInt w (if sat = 1 then clamp w v else v)

/-- Results rounded in ascending element order: the values, the flags raised by any, and the stochastic-rounding state after the
last (R50, R186). -/
def inOrder (f : Nat → Reg64 → Rounded) : List Nat → Reg64 → List (Nat × Nat) × Flags × Reg64
  | [], q => ([], {}, q)
  | i :: l, q => ((i, (f i q).bits) :: (inOrder f l (f i q).srs).1, (f i q).flags.or (inOrder f l (f i q).srs).2.1, (inOrder f l (f i q).srs).2.2)

/-- Floating-point results of a vector instruction: written with their flags, or, in a watched launch, refused at the lowest element
whose result is an infinity or a NaN (R186, R369). -/
def delivers (s : State) (i : Instr) (d w : Nat) (f : Fmt) (r : List (Nat × Nat) × Flags × Reg64) : Prop :=
  let bad := r.1.find? (fun p => f.nonFinite p.2)
  let watched := match s.me.routine with | some q => q.watch | none => s.me.watch
  ((watched = false ∨ bad = none) → exec i s = .next (((s.putElems d w r.1).withFlags r.2.1 r.2.2).commit i))
  ∧ (watched = true → ∀ p, bad = some p → exec i s = .next (s.trapMe i 0x09 (r64 p.1)))

end Sys2Proof.Claims

namespace Sys2Proof.Claims

open Sys2Proof.Machine

/-- The width of an element type (R181). -/
def elemBits (t : BitVec 3) : Nat := if t.toNat < 4 then intWidth t else (fpFmt t).width

/-- Element i of width w of a vector value. -/
def at0 (w v i : Nat) : Nat := v / 2 ^ (w * i) % 2 ^ w

/-- A reduction in ascending element order from the first value (R59). -/
def sequence (op : Reg64 → Nat → Nat → Rounded) (x : Nat) (q : Reg64) (l : List Nat) : Rounded :=
  l.foldl (fun u y => let r := op u.srs u.bits y; ⟨r.bits, u.flags.or r.flags, r.srs⟩) ⟨x, {}, q⟩

/-- The elements a vector memory instruction accesses, with their addresses: contiguous under a count limit, strided, and indexed
(R211). -/
def contiguous (s : State) (b : BitVec 5) (k w : Nat) (base : Reg64) : List (Nat × Reg64) :=
  ((active s k w).filter (fun i => b = 0 ∨ i < (s.getG b.toNat).toNat)).map (fun i => (i, base + r64 (i * (w / 8))))
def stridden (s : State) (b : BitVec 5) (k w : Nat) (base : Reg64) : List (Nat × Reg64) := (active s k w).map (fun i => (i, base + r64 i * s.getG b.toNat))
def scattered (s : State) (b : BitVec 5) (k w : Nat) (base : Reg64) : List (Nat × Reg64) :=
  (active s k w).map (fun i => (i, base + r64 (at0 32 (s.getV b.toNat) i * (w / 8))))

end Sys2Proof.Claims

namespace Sys2Proof.Claims

open Sys2Proof.Machine

/-! ## Queues and pipelines -/

/-- No DQ instruction waits anywhere, and the cluster has no pipeline: nothing else moves with a queue. -/
def quiet (s : State) (cl : Nat) : Prop := (s.cluster cl).pipes = [] ∧ ∀ o ∈ s.ops, (∀ h r, o.kind ≠ .dqpush h r) ∧ ∀ h f, o.kind ≠ .dqpop h f

/-- The exact sum of the multiplicities of the records of one group (R382, R383). -/
def total (l : List Rec) (g : Rec) : Int := ((l.filter (fun r => r.round = g.round ∧ r.key = g.key ∧ r.vlo = g.vlo ∧ r.vhi = g.vhi)).map (fun r => r.mult.toInt)).sum

/-- The record in the group of four registers from f on (R370). -/
def record (s : State) (f : Nat) : Rec := ⟨s.getG f, s.getG (f + 1), s.getG (f + 2), (s.getG (f + 3)).setWidth 32, ((s.getG (f + 3)) >>> 32).setWidth 32⟩

end Sys2Proof.Claims
end

