-- ==== Sys2Proof/Certificates/Slice0/Obligations.lean ====
section
/-! DEFINITION. What is claimed of the part: the rules of the manual as statements over every state, for the provers. An obligation
that covers several rules of one kind is the conjunction of the parts stated just before it. -/

open Sys2Proof Sys2Proof.Machine

/-- R8, R24, R105, R138, R409: once the part is ready, with nothing on the agenda a clk passes and the current core, unless its issue
slot of that clk is gone, issues: the first slot of its order that may issue executes exactly the instruction that the word at its pc
(with the word after it) decodes to, and is noted as the last to issue; a nib on the agenda does the same, and a control core executes the instruction its turn names (log 8). A hart whose bytes decode to
nothing takes the illegal-instruction event with that word. A routine's word is held
at its unit first (R15, R327). By the model's choice the agenda and the current hart decide who moves (log 6), an X word whose second word
lies outside the image takes cause 0x03 at that second word, and one whose second word is reserved reports the X word (log 15). -/
def Obligations.StepRunsDecoded : Prop :=
  ∀ (s : State) (h : Nat) (w : Word) (t : State), s.powered = true → s.ready = true → s.softErrors = [] →
    let held := fun (u : State) => ({ u with cur := h } : State).holdWord h
    let runs := fun (u : State) (i : Instr) => let v := held u
      let second := v.wordAt h ((v.slot h).pc + 4)
      let inner := w.toNat / 2 ^ 26 = 0x3E → ∀ e ∈ (v.slot h).loops, e.last ≠ (v.slot h).pc
      v.wordAt h (v.slot h).pc = some w ∧ (v.slot h).rptOn = false ∧ (v.slot h).pc.toNat % 4 = 0 ∧ u.mayIssue h = true ∧ u.takesStatus h = false ∧ u.withdrawn h = none ∧ (u.slot h).bad = [] ∧ (u.slot h).parts = none
      ∧ ((∃ n, decodeWords w second = .ok ⟨i, n⟩ ∧ inner) ∨ ((∀ d, decodeWords w second ≠ .ok d) ∧ (w.toNat / 2 ^ 26 = 0x3E → second ≠ none) ∧ i = .illegalInstruction w)
        ∨ (w.toNat / 2 ^ 26 = 0x3E ∧ inner ∧ second = none ∧ i = .instructionFetchOutsideImage ((v.slot h).pc + 4)))
    (∀ i, s.agenda = [] → let u := s.tickClk 1
      let c := cidOf s.cur
      c < 16384 → (∀ k < 4, (u.slot (c * 5 + k)).edge = false) → ∀ before after, u.issueOrder c = before ++ h :: after → (∀ k ∈ before, u.mayIssue k = false ∧ u.takesStatus k = false) → u.throttled c = false → u.issueGone c = false → runs u i →
        exec i (held u) = .next t → t.waits u h = false → step s = .next (t.noteIssue h))
    ∧ (∀ i n rest, s.agenda = .nib n :: rest → n < 256 → h = 81920 + n → let u : State := { s with agenda := rest }
        runs u i → exec i (held u) = .next t → step s = .next t)
    ∧ (∀ n rest, s.agenda = .nib n :: rest → n < 256 → h = 81920 + n → s.mayIssue h = true → (s.slot h).parts ≠ none → step s = .next ({ s with agenda := rest, cur := h } : State).nextParts)
    ∧ (∀ i rest, s.agenda = .event i :: rest → isEvent i = true → step s = exec i { s with agenda := rest })
    ∧ (∀ i n rest, s.agenda = .control n i :: rest → n < 16 → (s.slot (82176 + n)).bad = [] → step s = exec i { s with agenda := rest, cur := 82176 + n })
    ∧ (∀ p, (s.slot h).heldWord (s.slot h).pc = none → s.codeAt (s.codeOf h).1 (s.codeOf h).2 (s.slot h).pc = some p → ∃ v, s.wordAt h (s.slot h).pc = some v ∧ ∀ k < 4, Claims.byteOf v.toNat k = s.imem.get (p + k))

/-- Every step of the powered part answers a next state: no instruction and no event is refused, and none faults; a part whose power was
removed stops (R410) until it is brought up. -/
def Obligations.StepAnswers : Prop :=
  (∀ i s, answers (exec i s) = true) ∧ (∀ s, s.powered = true → answers (step s) = true)
  ∧ (∀ s, s.powered = false → s.agenda = [] → step s = .fault .poweredOff)
  ∧ (∀ s i rest, s.powered = false → s.agenda = .event i :: rest → step s = if isBringUp i then exec i { s with agenda := rest } else .fault .poweredOff)

/-- R76 to R81: for every instruction with a word, and every value of each of its fields, decoding its bytes, whatever follows them,
gives it back with its length. -/
def Obligations.DecodeEncodeAgree : Prop :=
  ∀ (i : Instr) (rest : List Byte), Encodable i → decode (encode i ++ rest) = .ok ⟨i, 4 * i.words⟩

/-- R76 to R82: words of the manual's examples decode to the instructions they are printed with, and reserved words to none. -/
def Obligations.DecodedWords : Prop :=
  decodeWord 0x04310C40 = some (.add 3 4 12 0 1) ∧ decodeWord 0x08206403 = some (.muli 2 1 3) ∧ decodeWord 0x7C100302 = some (.sysr 1 0x003) ∧ decodeWord 0x4451B001 = some (.ld 5 6 3 0 1)
  ∧ decodeWord 0x54518700 = some (.aadd 5 6 7 0 0 0) ∧ decodeWord 0x540187CC = some (.famax 0 6 7 1 1 0) ∧ decodeWord 0x58018700 = some (.radd 6 7 0) ∧ decodeWord 0x5C000A00 = some (.fence 1 2)
  ∧ decodeWord 0x60500300 = some (.phnew 5 3) ∧ decodeWord 0x74A24301 = some (.cpyt 10 9 3) ∧ decodeWord 0x70082000 = some (.view 2 32) ∧ decodeWord 0x80221840 = some (.vadd 1 2 3 0 2 0)
  ∧ decodeWord 0x882218C5 = some (.vfclt 1 2 3 0 6) ∧ decodeWord 0x942228C0 = some (.vcvt 1 2 0 5 0 6 0) ∧ decodeWord 0x988229C6 = some (.vstxc 4 2 5 1 6) ∧ decodeWord 0x9C2218A1 = some (.vti 1 2 3 0 5)
  ∧ decodeWord 0xB4A25401 = some (.dqpush 10 9 20) ∧ decodeWord 0x78A24300 = some (.rcall 10 9 3 0) ∧ decodeWord 0xACA24202 = some (.plreg 10 9 2) ∧ decodeWord 0xB0A00020 = some (.evsend 10 1)
  ∧ decodeWord 0xA4014400 = some (.oclaim 5 4) ∧ decodeWord 0xA0A24026 = some (.mxrectFree 10 9) ∧ decodeWord 0xA8A24020 = some (.qnt 10 9 1)
  ∧ decode [0x04, 0x00, 0x00, 0xF8, 0x45, 0x23, 0x50, 0x0C] = .ok ⟨.liX 5 0x2345 4, 8⟩ ∧ decode [0x40, 0x0C, 0x31, 0x04] = .ok ⟨.add 3 4 12 0 1, 4⟩
  ∧ decodeWord 0x00000000 = none ∧ decodeWord 0xFC000000 = none ∧ decodeWord 0x04000021 = none ∧ decode [0x04, 0x00, 0x00, 0xF8] = .error (.misplacedX 0xF8000004) ∧ decode [0x40, 0x0C, 0x31] = .error .truncated

/-- Reset (R91, R98, R178, R330, R411): no task, no saved task, no launch and no cluster's process; every hart has the state of a slot
nothing has run on: a nib's srs of R330, privilege 1 in a handler slot and 2 in a control core, rc.timeout and gate.idle at their
defaults (R177), the views at the bases of R63; the escape wait (R404), watchdog period (R407) and power limit (R408) have theirs; the part is
not ready, and its memories are canonical. By the model's choice every memory and window reads 0 (log 1), a slot nothing has run on is all
zeros (log 4), and the control cores are live (log 8). -/
def Obligations.ResetState : Prop :=
  State.Canonical State.reset ∧ (∀ a, State.reset.spm.get a = 0 ∧ State.reset.ext.get a = 0 ∧ State.reset.nibMem.get a = 0 ∧ State.reset.tblMem.get a = 0 ∧ State.reset.opMem.get a = 0 ∧ State.reset.accMem.get a = 0 ∧ State.reset.imem.get a = 0 ∧ ∀ h, (State.reset.slot h).win.get a = 0)
  ∧ State.reset.ready = false ∧ State.reset.launches = [] ∧ State.reset.saved = [] ∧ State.reset.ops = [] ∧ State.reset.tokens = [] ∧ State.reset.regions = [] ∧ State.reset.full = []
  ∧ (∀ h, let x := State.reset.slot h
      x.live = isControl h ∧ x.rcTimeout = 2000 ∧ x.gBase = 0 ∧ x.kBase = 448 ∧ x.vBase = 512 ∧ x.fcr = 0 ∧ x.xvec = 0 ∧ x.loops = [] ∧ x.acks = 0 ∧ x.inbox = [] ∧ (∀ n, x.getG n = 0)
      ∧ (isNib h = true → x.srs = r64 ((h - 81920) * 2 ^ 32 + 0xFFFFFFFE) ^^^ 0x9E3779B97F4A7C15) ∧ x.priv = (if isHandler h then 1 else if isControl h then 2 else 0))
  ∧ (∀ c, State.reset.cluster c = {} ∧ (State.reset.cluster c).pid = none ∧ (State.reset.cluster c).errSeq = 0)
  ∧ (∀ p, (State.reset.panel p).gateIdle = 2048 ∧ (State.reset.panel p).committed = none ∧ (State.reset.panel p).awake = [] ∧ (∀ n, ((State.reset.panel p).slot n).claim = none ∧ (State.reset.panel p).sem n = 0 ∧ ((State.reset.panel p).tile n).tag = .fp32 ∧ ((State.reset.panel p).tile n).invalid = false))
  ∧ (∀ c, (State.reset.core c).deque = [] ∧ (State.reset.core c).ring = none ∧ (State.reset.core c).notices = []) ∧ (∀ l, State.reset.link l = {})
  ∧ State.reset.escapeWait = 128 ∧ State.reset.watchdogPeriod = 18000000 ∧ State.reset.powerLimit = 3000

/-- A register-only instruction in straight code completes at the next instruction: the pc moves past its words, the slot no longer
waits, and of the rest of the slot only its ports change; no other hart, no memory and no other unit changes. -/
def Sys2Proof.Claims.SequentialCompletion : Prop :=
  ∀ (i : Instr) (s : State), Claims.straight i s → (∀ o ∈ opds i, o.inbound = false) →
    (s.commit i).me = { s.me with pc := s.me.pc + r64 (4 * i.words), waiting := none, blocked := none, midway := s.me.midway.filter (fun m => m.1 != s.me.pc) }
    ∧ (∀ h, h ≠ s.cur → (s.commit i).slot h = s.slot h)
    ∧ (s.commit i).spm = s.spm ∧ (s.commit i).ext = s.ext ∧ (s.commit i).ops = s.ops ∧ (s.commit i).full = s.full
    ∧ (s.commit i).clusters = s.clusters ∧ (s.commit i).cores = s.cores ∧ (s.commit i).panels = s.panels ∧ (s.commit i).imem = s.imem

/-- The frame of the register-only scalar instructions in straight code: of the whole part, only the destination's bytes of the issuing
slot's window, its pc and its waits change, and a bad word written over is good again (R289); the other registers, the flags, the special and exception registers, every other hart,
every memory byte and every other unit stay. A destination g0 changes no register (R64). -/
def Sys2Proof.Claims.RegisterFrame : Prop :=
  ∀ (s : State) (d a b : BitVec 6) (w c : BitVec 1) (m10 : BitVec 10) (m6 : BitVec 6) (m14 : BitVec 14) (e : BitVec 26) (i : Instr) (t : State),
    i ∈ ([.add d a b w c, .sub d a b w c, .mul d a b w c, .mulh d a b w c, .mulhn d a b w c, .madd d a b w c, .div d a b w c, .divn d a b w c, .rem d a b w c, .remn d a b w c, .and d a b w c, .or d a b w c, .xor d a b w c,
      .andn d a b w c, .shl d a b w c, .shr d a b w c, .sar d a b w c, .rol d a b w c, .min d a b w c, .max d a b w c, .minn d a b w c, .maxn d a b w c, .slt d a b w c, .sltn d a b w c, .seq d a b w c, .clz d a w, .ctz d a w, .pop d a w, .brev d a w,
      .bswap d a w, .sext d a b w c, .zext d a b w c, .sel d a b w c, .addi d a m10, .andi d a m10, .ori d a m10, .xori d a m10, .shli d a m6, .shri d a m6, .sari d a m6, .slti d a m10, .sltni d a m10, .muli d a m10, .li d m14, .lih d m14, .lea d a m14,
      .addiX d a m10 e, .andiX d a m10 e, .oriX d a m10 e, .xoriX d a m10 e, .shliX d a m6, .shriX d a m6, .sariX d a m6, .sltiX d a m10 e, .sltniX d a m10 e, .muliX d a m10 e, .liX d m14 e, .lihX d m14 e, .leaX d a m14 e] : List Instr) →
    a.toNat < 56 → b.toNat < 56 → d.toNat < 56 → s.me.win.wf = true → Claims.straight i s → ready i s = true → exec i s = .next t →
    t = { s with harts := t.harts } ∧ (∀ h, h ≠ s.cur → t.slot h = s.slot h)
    ∧ t.me = { s.me with win := t.me.win, pc := s.me.pc + r64 (4 * i.words), waiting := none, blocked := none, midway := s.me.midway.filter (fun q => q.1 != s.me.pc), bad := s.me.bad.filter (fun b => decide (d = 0) || decide (b + 4 ≤ s.me.gBase + 8 * d.toNat) || decide (s.me.gBase + 8 * d.toNat + 8 ≤ b)) }
    ∧ (∀ x, (d = 0 ∨ x < s.me.gBase + 8 * d.toNat ∨ s.me.gBase + 8 * d.toNat + 8 ≤ x) → t.me.win.get x = s.me.win.get x)
    ∧ (∀ n, n ≠ d.toNat → n < 56 → t.me.getG n = s.me.getG n)

/-- Completion and frame of the register-only scalar instructions: `Claims.SequentialCompletion` and `Claims.RegisterFrame`. -/
def Obligations.CompletionAndFrame : Prop := Claims.SequentialCompletion ∧ Claims.RegisterFrame

/-- Every step keeps every memory in its canonical form: the scratchpads, external memory, nib stores, tables, operand memory,
accumulator stores, instruction stores, and the window of every slot and saved task. -/
def Obligations.StepKeepsCanonical : Prop :=
  ∀ s t : State, State.Canonical s → step s = .next t → State.Canonical t

/-- R63, R64: g0 reads 0 and discards writes; g1 to g55 read their eight bytes of the window from the g base on, and a write of one
changes these bytes, ends a residue error in them (R289), and does nothing else. -/
def Sys2Proof.Claims.ScalarRegisterViews : Prop :=
  ∀ (s : State) (d : Nat) (v : Reg64),
    s.getG 0 = 0 ∧ s.putG 0 v = s.modMe id
    ∧ (0 < d → d < 56 → ∀ i < 8, Claims.byteOf (s.getG d).toNat i = s.me.win.get (s.me.gBase + 8 * d + i))
    ∧ (0 < d → d < 56 → s.me.win.wf = true → ∃ m : Mem,
        s.putG d v = s.modMe (fun x => { x with win := m, bad := x.bad.filter (fun b => decide (b + 4 ≤ x.gBase + 8 * d) || decide (x.gBase + 8 * d + 8 ≤ b)) })
        ∧ ∀ o, m.get o = if s.me.gBase + 8 * d ≤ o ∧ o < s.me.gBase + 8 * d + 8 then Claims.byteOf v.toNat (o - (s.me.gBase + 8 * d)) else s.me.win.get o)

/-- R69, R71: a write of an outbound port enters the queue of the named neighbour and changes no register of the writer; reading it
gives the send window. -/
def Sys2Proof.Claims.OutboundPorts : Prop :=
  ∀ (s : State) (v : Reg64) (c sl : Nat), c < 256 → sl < 4 → ∀ cl < 64, s.cur = ((cl * 256 + c) * 5 + sl) →
    s.putG 60 v = s.modSlot ((cl * 256 + (c + 1) % 256) * 5 + sl) (fun x => { x with q0 := x.q0 ++ [v] })
    ∧ s.putG 61 v = s.modSlot ((cl * 256 + (c + 255) % 256) * 5 + sl) (fun x => { x with q1 := x.q1 ++ [v] })
    ∧ s.putG 62 v = s.modSlot ((cl * 256 + c) * 5 + (sl + 1) % 4) (fun x => { x with q2 := x.q2 ++ [v] })
    ∧ s.getG 60 = (let x := s.slot ((cl * 256 + (c + 1) % 256) * 5 + sl); if x.live then r64 (4 - x.q0.length) else 0)

/-- R69, R72: reading an inbound scalar or vector port gives its oldest entry and reading ib the next word of the oldest message; an
instruction that completes in straight code dequeues it, a message with its last word, and changes no other queue of its slot; an empty one
makes an ALU instruction wait (R106), in its own slot alone. -/
def Sys2Proof.Claims.InboundPorts : Prop :=
  ∀ (s : State) (d a b : BitVec 6) (w c : BitVec 1) (m : BitVec 10),
    (∀ (i : Instr), Claims.straight i s →
      let x : Slot := { s.me with pc := s.me.pc + r64 (4 * i.words), waiting := none, blocked := none, midway := s.me.midway.filter (fun q => q.1 != s.me.pc) }
      let dequeues := fun (r : RegName) (y : Slot) => (opds i).filter Opd.inbound = [⟨r, false, true⟩] → (s.commit i).me = y
      dequeues (.g 56) { x with q0 := x.q0.tail } ∧ dequeues (.g 57) { x with q1 := x.q1.tail } ∧ dequeues (.g 58) { x with q2 := x.q2.tail } ∧ dequeues (.g 59) { x with q3 := x.q3.tail }
      ∧ dequeues (.v 28) { x with vq0 := x.vq0.tail } ∧ dequeues (.v 29) { x with vq1 := x.vq1.tail }
      ∧ (∀ v l rest, x.inbox = (v :: l) :: rest → dequeues (.g 63) { x with inbox := if l = [] then rest else l :: rest }))
    ∧ (∀ v l, (s.me.q0 = v :: l → s.getG 56 = v) ∧ (s.me.q1 = v :: l → s.getG 57 = v) ∧ (s.me.q2 = v :: l → s.getG 58 = v) ∧ (s.me.q3 = v :: l → s.getG 59 = v))
    ∧ (∀ v l, (s.me.vq0 = v :: l → s.getV 28 = v) ∧ (s.me.vq1 = v :: l → s.getV 29 = v))
    ∧ (∀ v l rest, s.me.inbox = (v :: l) :: rest → s.getG 63 = v)
    ∧ (∀ i ∈ ([.add d a b w c, .sub d a b w c, .and d a b w c, .or d a b w c, .xor d a b w c, .shl d a b w c, .sel d a b w c, .clz d a w, .pop d a w, .addi d a m, .xori d a m, .slti d a m] : List Instr),
        s.me.issues = true → issueTrap i s = none → s.me.pend = [] → s.ops = [] →
        ((∃ o ∈ opds i, o.write = false ∧ ((o.reg = .g 56 ∧ s.me.q0 = []) ∨ (o.reg = .g 57 ∧ s.me.q1 = []) ∨ (o.reg = .g 58 ∧ s.me.q2 = []) ∨ (o.reg = .g 59 ∧ s.me.q3 = []) ∨ (o.reg = .g 63 ∧ s.me.inbox = []))) →
          ∃ why ∈ ([.port, .inbox] : List Wait), exec i s = .next (s.mark why) ∧ (why = .inbox ↔ s.me.inbox = [] ∧ ∃ o ∈ opds i, o.write = false ∧ o.reg = .g 63)))

/-- Scalar registers are bytes of the window, ports the neighbours' and the slot's own queues, and g63 the inbox: `Claims.ScalarRegisterViews`, `Claims.OutboundPorts` and `Claims.InboundPorts`. -/
def Obligations.RegisterViewsAndPorts : Prop := Claims.ScalarRegisterViews ∧ Claims.OutboundPorts ∧ Claims.InboundPorts

/-- R141: at the last word of a body the count falls by one; a body with passes left starts again (a cancelled task with chk takes
cause 0x0A at the body's first word, and ren renegotiates the lane grant); a finished body is popped and the next entry is tested. -/
def Obligations.LoopBackEdge : Prop :=
  ∀ (s : State) (h f : Nat) (last next : Reg64) (t : LoopEntry) (rest : List LoopEntry), (s.slot h).loops = t :: rest →
    (t.last ≠ last → s.backEdge (f + 1) h last next = s.modSlot h (fun x => { x with pc := next }))
    ∧ (t.last = last → t.left = 1 → s.backEdge (f + 1) h last next = (s.modSlot h (fun x => { x with loops := rest })).backEdge f h last next)
    ∧ (t.last = last → t.left ≠ 1 →
        let s' := s.modSlot h (fun x => { x with loops := { t with left := t.left - 1 } :: rest, pc := t.start })
        s.backEdge (f + 1) h last next =
          if t.chk = true ∧ s.taskDead (s.slot h) = true then s'.deliver h 0x0A ((s.slot h).ctok.zeroExtend 64) t.start 0
          else if t.ren = true then s'.renegotiate h else s')

/-- R83: the first trap condition that holds at issue of a hart outside a routine is taken, in the order 0x01, 0x05, 0x07, 0x06, 0x03, 0x0B,
with none of the instruction's effect. The registers an instruction refers to are its operands, the destination field first, of a SPAWN
that pushes its child the group alone, of one that runs inline g54 too, and of a FORK g4 to g8 only with a nonzero T that has arrived; the first
of them outside the window gives xval (log 18 and log 23, the model's choice). Among those of 0x01 are a loop word or RPT at the end of the innermost body (R143), LBRK with no body (R142), ERET
outside a handler (R172), and a system-register number that is not listed or not written, which is then the xval (R30, R177); a number
above 0x300 that is not listed counts there too, before privilege, as the order of R83 says. -/
def Obligations.IssueTrapOrder : Prop :=
  ∀ (i : Instr) (s : State) (body : State → Act), s.me.issues = true → s.me.routine = none →
    let w := i.word.zeroExtend 64
    let outside := (s.refs i).findSome? (fun o => s.me.outside o.reg)
    let known := legal i = true ∧ s.me.illegalHere i = false
    let first := known ∧ badNumber i = none ∧ privileged s.cur i = none
    (∀ f, if i = .spawn f then s.refs i = (if (s.core (cidOf s.cur)).deque.length < 16 then (List.range 5).map (fun k => ⟨.g (f.toNat + k), false, false⟩) else opds i ++ [⟨.g 54, true, false⟩])
      else if i = .fork f then s.refs i = (List.range 4).map (fun k => ⟨.g (f.toNat + k), false, false⟩)
        ++ (if s.getG (f.toNat + 1) = 0 ∨ (∃ p ∈ s.me.pend, overlaps (s.me.gBase + 8 * (f.toNat + 1)) 8 p.1 8 = true) then [] else (List.range 5).map (fun k => ⟨.g (4 + k), false, false⟩))
        ++ (List.range 3).map (fun k => ⟨.g (1 + k), true, false⟩)
      else (∀ e, i ≠ .spawn e ∧ i ≠ .fork e) → s.refs i = opds i)
    ∧ (¬known → run i s body = .next (s.trapMe i 0x01 w))
    ∧ (known → ∀ v, badNumber i = some v → run i s body = .next (s.trapMe i 0x01 v))
    ∧ (known → badNumber i = none → ∀ v, privileged s.cur i = some v → run i s body = .next (s.trapMe i 0x05 v))
    ∧ (first → wrongSlot s.cur i = true → run i s body = .next (s.trapMe i 0x07 w))
    ∧ (first → wrongSlot s.cur i = false → needsLanes i = true → s.me.grant = 0 → run i s body = .next (s.trapMe i 0x06 w))
    ∧ (first → wrongSlot s.cur i = false → ¬(needsLanes i = true ∧ s.me.grant = 0) → ∀ off, outside = some off → run i s body = .next (s.trapMe i 0x03 (r64 off)))
    ∧ (first → wrongSlot s.cur i = false → ¬(needsLanes i = true ∧ s.me.grant = 0) → outside = none → (zeroBase i = true ∨ (opds i).any Opd.misuse = true ∨ twice (opds i) = true) → run i s body = .next (s.trapMe i 0x0B w))
    ∧ (∀ t : LoopEntry, s.me.loops.head? = some t → t.last = s.me.pc → ∀ (r c : BitVec 1) (a : BitVec 6) (m : BitVec 12) (l n : BitVec 8) (u d e b : BitVec 4) (v : BitVec 2),
        i ∈ ([.loop r c a l, .loopi r c m l, .rpt u n d e b v] : List Instr) → ¬known)
    ∧ (∀ (d : BitVec 6) (n : BitVec 12), i = .sysr d n → ¬(n.toNat ≤ 6 ∨ n = 8 ∨ n = 0x10 ∨ (0x20 ≤ n.toNat ∧ n.toNat ≤ 0x23) ∨ n = 0x30 ∨ n = 0x31 ∨ (0x100 ≤ n.toNat ∧ n.toNat ≤ 0x111) ∨ n = 0x200 ∨ n = 0x300) → badNumber i = some (n.zeroExtend 64))
    ∧ (∀ (d : BitVec 6) (n : BitVec 12), i = .sysw d n → ¬(n.toNat ≤ 2 ∨ (0x20 ≤ n.toNat ∧ n.toNat ≤ 0x23) ∨ n = 0x30 ∨ n = 0x31 ∨ n = 0x300) → badNumber i = some (n.zeroExtend 64))

/-- R171: with xvec not 0 outside a handler, a precise trap saves the cause, the address and the value, sets tr and goes to xvec;
nothing else of the slot but what it waited for and the frame it ran changes (R148: rpt, rptj and rpti stay), no other hart, no memory, no operation and no other unit. R369: cause 0x09 in a task
under the watch flag also cancels its token. -/
def Sys2Proof.Claims.TrapEntry : Prop :=
  ∀ (s : State) (h cause : Nat) (val pc : Reg64) (iw : Word), isTask h = true → (s.slot h).routine = none → (s.slot h).xvec ≠ 0 → (s.slot h).xstat.getLsbD 7 = false →
    let t := s.deliver h cause val pc iw
    t.slot h = { s.slot h with xcause := r64 cause, xpc := pc, xval := val, xstat := (t.slot h).xstat, pc := (s.slot h).xvec, rptOn := false, waiting := none, blocked := none }
    ∧ (t.slot h).xstat.getLsbD 7 = true ∧ (∀ b, b ≠ 7 → (t.slot h).xstat.getLsbD b = (s.slot h).xstat.getLsbD b)
    ∧ (∀ k, k ≠ h → t.slot k = s.slot k) ∧ t = { s with harts := t.harts }
    ∧ t.spm = s.spm ∧ t.ext = s.ext ∧ t.nibMem = s.nibMem ∧ t.opMem = s.opMem ∧ t.accMem = s.accMem ∧ t.tblMem = s.tblMem ∧ t.imem = s.imem ∧ t.ops = s.ops ∧ t.clusters = s.clusters ∧ t.tokens = s.tokens
    ∧ s.trapAt h cause val pc iw = (if cause = 9 ∧ (s.slot h).watch = true then t.cancelToken (s.slot h).ctok else t)

/-- R171: with xvec 0, or inside a handler, the trap writes a kind-1 record in the cluster's error area and the task's retirement
begins; its launch's token is not cancelled. The record's unit is the core's number over the part, the model's choice (log 69). -/
def Sys2Proof.Claims.TrapWithoutHandler : Prop :=
  ∀ (s : State) (h cause : Nat) (val pc : Reg64) (iw : Word), isTask h = true → ((s.slot h).xvec = 0 ∨ (s.slot h).xstat.getLsbD 7 = true) → cause ≠ 9 →
    let t := s.trapAt h cause val pc iw
    (t.slot h).retiring = true ∧ (t.slot h).pc = (s.slot h).pc ∧ (t.slot h).win = (s.slot h).win
    ∧ (∃ r, (t.cluster (clusterOf h)).errs.head? = some r ∧ r.valid = true ∧ r.ukind = 0 ∧ r.unit = cidOf h ∧ r.kind = 1 ∧ r.cause = cause ∧ r.val = val ∧ r.pc = pc ∧ r.cid = cidOf h ∧ r.slot = slOf h ∧ r.tid = (s.slot h).tid ∧ r.lid = (s.slot h).lid ∧ r.ctok = (s.slot h).ctok)
    ∧ t.spm = s.spm ∧ t.ext = s.ext ∧ t.tokens = s.tokens

/-- R172, R148: ERET in a handler whose cause is not a cancellation clears tr and goes on at xpc, in an RPT frame where xstat names
one that may still run; after a cancellation it ends the task; outside a handler it is illegal, and so is a progress field that fits
no frame (R178); a body that R146 refuses when the frame is taken up again traps before its word (R148), with rpt and its two indexes
left as they were, the model's choice (log 57). -/
def Sys2Proof.Claims.TrapReturn : Prop :=
  ∀ (s : State),
    let t := s.modMe (fun x => { x with xstat := setBits x.xstat 7 1 0, pc := x.xpc, rptOn := x.xstat.getLsbD 63 })
    let frame := s.me.xpc - r64 (4 * (s.me.rptI + 1))
    (ready .eret s = true → s.me.xstat.getLsbD 7 = true → s.me.xcause ≠ 0x0A →
        (s.me.xstat.getLsbD 63 = false ∨ (s.frameOk s.cur = true ∧ ∀ w, s.wordAt s.cur frame = some w → t.capture s.cur frame w = none)) →
        exec .eret s = .next (t.commitJump .eret s.me.xpc))
    ∧ (ready .eret s = true → s.me.xstat.getLsbD 7 = true → s.me.xcause ≠ 0x0A → s.me.xstat.getLsbD 63 = true → s.frameOk s.cur = false → exec .eret s = .next (s.trapMe .eret 0x01 0x7C000001))
    ∧ (ready .eret s = true → s.me.xstat.getLsbD 7 = true → s.me.xcause = 0x0A → exec .eret s = .next (s.modMe (Slot.beginRetire s.clk)))
    ∧ (ready .eret s = true → s.me.xstat.getLsbD 7 = true → s.me.xcause ≠ 0x0A → s.me.xstat.getLsbD 63 = true → s.frameOk s.cur = true → ∀ w, s.wordAt s.cur frame = some w →
        ∀ e, t.capture s.cur frame w = some e → exec .eret s = .next (s.take .eret (t.trapActAt e.1 e.2.1 e.2.2 0)))
    ∧ (s.me.issues = true → s.me.xstat.getLsbD 7 = false → exec .eret s = .next (s.trapMe .eret 0x01 0x7C000001))

/-- Taking a precise trap, with and without a handler, and ERET: `Claims.TrapEntry`, `Claims.TrapWithoutHandler` and `Claims.TrapReturn`. -/
def Obligations.TrapsAndReturn : Prop := Claims.TrapEntry ∧ Claims.TrapWithoutHandler ∧ Claims.TrapReturn

/-- R130, R33: the result of every ALU operation, at 64 bits or, sign-extended, at 32, is written to g[d], and the instruction
completes. -/
def Obligations.AluResults : Prop :=
  ∀ (s : State) (d a b : BitVec 6) (w c : BitVec 1),
    let x := s.getG a.toNat
    let y := Claims.sourceY s c b
    let z := s.getG d.toNat
    let writes := fun (i : Instr) (v : Reg64) => ready i s = true → exec i s = .next ((s.putG d.toNat v).commit i)
    let two := fun (i : Instr) (f : (n : Nat) → BitVec n → BitVec n → BitVec n) => writes i (Claims.atWidth2 w f x y)
    let one := fun (i : Instr) (f : (n : Nat) → BitVec n → BitVec n) => writes i (Claims.atWidth1 w f x)
    two (.add d a b w c) (fun _ x y => x + y)
    ∧ two (.sub d a b w c) (fun _ x y => x - y)
    ∧ two (.mul d a b w c) (fun _ x y => x * y)
    ∧ two (.mulh d a b w c) (fun n x y => BitVec.ofInt n (x.toInt * y.toInt / 2 ^ n))
    ∧ two (.mulhn d a b w c) (fun n x y => BitVec.ofNat n (x.toNat * y.toNat / 2 ^ n))
    ∧ two (.div d a b w c) (fun n x y => if y = 0 then BitVec.allOnes n else x.sdiv y)
    ∧ two (.divn d a b w c) (fun n x y => if y = 0 then BitVec.allOnes n else x / y)
    ∧ two (.rem d a b w c) (fun _ x y => if y = 0 then x else x.srem y)
    ∧ two (.remn d a b w c) (fun _ x y => if y = 0 then x else x % y)
    ∧ two (.and d a b w c) (fun _ x y => x &&& y)
    ∧ two (.or d a b w c) (fun _ x y => x ||| y)
    ∧ two (.xor d a b w c) (fun _ x y => x ^^^ y)
    ∧ two (.andn d a b w c) (fun _ x y => x &&& ~~~y)
    ∧ two (.shl d a b w c) (fun n x y => x <<< (y.toNat % n))
    ∧ two (.shr d a b w c) (fun n x y => x >>> (y.toNat % n))
    ∧ two (.sar d a b w c) (fun n x y => x.sshiftRight (y.toNat % n))
    ∧ two (.rol d a b w c) (fun n x y => x.rotateLeft (y.toNat % n))
    ∧ two (.min d a b w c) (fun _ x y => if x.sle y then x else y)
    ∧ two (.max d a b w c) (fun _ x y => if x.sle y then y else x)
    ∧ two (.minn d a b w c) (fun _ x y => if x.ule y then x else y)
    ∧ two (.maxn d a b w c) (fun _ x y => if x.ule y then y else x)
    ∧ two (.slt d a b w c) (fun n x y => Claims.flag n (x.slt y))
    ∧ two (.sltn d a b w c) (fun n x y => Claims.flag n (x.ult y))
    ∧ two (.seq d a b w c) (fun n x y => Claims.flag n (x == y))
    ∧ two (.sext d a b w c) (fun n x y => if y.toNat % n = 0 then x else (x.setWidth (y.toNat % n)).signExtend n)
    ∧ two (.zext d a b w c) (fun n x y => if y.toNat % n = 0 then x else (x.setWidth (y.toNat % n)).setWidth n)
    ∧ one (.clz d a w) (fun n x => Claims.zerosBefore n (fun i => x.getMsbD i))
    ∧ one (.ctz d a w) (fun n x => Claims.zerosBefore n (fun i => x.getLsbD i))
    ∧ one (.pop d a w) (fun n x => BitVec.ofNat n ((List.range n).filter (fun i => x.getLsbD i)).length)
    ∧ one (.brev d a w) (fun n x => Claims.ofBits n (fun i => x.getMsbD i))
    ∧ one (.bswap d a w) (fun n x => Claims.ofBits n (fun i => x.getLsbD (n - 8 - i / 8 * 8 + i % 8)))
    ∧ writes (.madd d a b w c) (Claims.atWidth3 w (fun _ x y z => z + x * y) x y z)
    ∧ writes (.sel d a b w c) (Claims.atWidth3 w (fun _ x y z => if z = 0 then y else x) x y z)

/-- R132, R78: the results of the ALUI operations, with the 10-bit immediate or, after an X word, the 36-bit one. -/
def Sys2Proof.Claims.AluImmediateResults : Prop :=
  ∀ (s : State) (d a q : BitVec 6) (m : BitVec 10) (e : BitVec 26),
    let x := s.getG a.toNat
    let short : Reg64 := m.signExtend 64
    let long : Reg64 := (e ++ m).signExtend 64
    let writes := fun (i : Instr) (v : Reg64) => ready i s = true → exec i s = .next ((s.putG d.toNat v).commit i)
    writes (.addi d a m) (x + short) ∧ writes (.addiX d a m e) (x + long)
    ∧ writes (.andi d a m) (x &&& short) ∧ writes (.andiX d a m e) (x &&& long)
    ∧ writes (.ori d a m) (x ||| short) ∧ writes (.oriX d a m e) (x ||| long)
    ∧ writes (.xori d a m) (x ^^^ short) ∧ writes (.xoriX d a m e) (x ^^^ long)
    ∧ writes (.slti d a m) (Claims.flag 64 (x.slt short)) ∧ writes (.sltiX d a m e) (Claims.flag 64 (x.slt long))
    ∧ writes (.sltni d a m) (Claims.flag 64 (x.ult short)) ∧ writes (.sltniX d a m e) (Claims.flag 64 (x.ult long))
    ∧ writes (.muli d a m) (x * short) ∧ writes (.muliX d a m e) (x * long)
    ∧ writes (.shli d a q) (x <<< q.toNat) ∧ writes (.shliX d a q) (x <<< q.toNat)
    ∧ writes (.shri d a q) (x >>> q.toNat) ∧ writes (.shriX d a q) (x >>> q.toNat)
    ∧ writes (.sari d a q) (x.sshiftRight q.toNat) ∧ writes (.sariX d a q) (x.sshiftRight q.toNat)

/-- R133, R134: LI loads the immediate; LIH replaces bits 63:40 and keeps the others; LEA adds the immediate to a register or, with
a = 0, to the address of its first word. -/
def Sys2Proof.Claims.ImmediateAndAddressResults : Prop :=
  ∀ (s : State) (d a : BitVec 6) (m : BitVec 14) (e : BitVec 26),
    let short : Reg64 := m.signExtend 64
    let long : Reg64 := (e ++ m).signExtend 64
    let high := fun (v : Reg64) => (v.setWidth 24 ++ (s.getG d.toNat).setWidth 40 : BitVec 64)
    let base := if a = 0 then s.me.pc else s.getG a.toNat
    let writes := fun (i : Instr) (v : Reg64) => ready i s = true → exec i s = .next ((s.putG d.toNat v).commit i)
    writes (.li d m) short ∧ writes (.liX d m e) long
    ∧ writes (.lih d m) (high short) ∧ writes (.lihX d m e) (high long)
    ∧ writes (.lea d a m) (base + short) ∧ writes (.leaX d a m e) (base + long)

/-- The results of the immediate operations, LI, LIH and LEA: `Claims.AluImmediateResults` and `Claims.ImmediateAndAddressResults`. -/
def Obligations.ImmediateResults : Prop := Claims.AluImmediateResults ∧ Claims.ImmediateAndAddressResults

/-- R135: a branch goes to its address plus four times the offset when its condition holds, and completes in sequence otherwise; its
word is major, a, b and offset, and in major 0x0B a selector from 2 on is reserved. -/
def Sys2Proof.Claims.BranchOutcomes : Prop :=
  ∀ (s : State) (a b : BitVec 6) (o : BitVec 14),
    let x := s.getG a.toNat
    let y := s.getG b.toNat
    let goes := fun (i : Instr) (taken : Prop) [Decidable taken] => ready i s = true →
      exec i s = .next (if taken then s.commitJump i (s.me.pc + 4 * o.signExtend 64) else s.commit i)
    goes (.beq a b o) (x = y) ∧ goes (.bne a b o) (x ≠ y)
    ∧ goes (.blt a b o) (x.toInt < y.toInt) ∧ goes (.bge a b o) (y.toInt ≤ x.toInt)
    ∧ goes (.bltn a b o) (x.toNat < y.toNat) ∧ goes (.bgen a b o) (y.toNat ≤ x.toNat)
    ∧ goes (.bez a o) (x = 0) ∧ goes (.bnz a o) (x ≠ 0)
    ∧ (∀ i n, (i, n) ∈ [(Instr.beq a b o, 0x05#6), (.bne a b o, 0x06#6), (.blt a b o, 0x07#6), (.bge a b o, 0x08#6), (.bltn a b o, 0x09#6), (.bgen a b o, 0x0A#6)] → i.word = n ++ a ++ b ++ o ∧ decodeWord (n ++ a ++ b ++ o) = some i)
    ∧ (Instr.bez a o).word = 0x0B#6 ++ a ++ 0#6 ++ o ∧ (Instr.bnz a o).word = 0x0B#6 ++ a ++ 1#6 ++ o ∧ decodeWord (0x0B#6 ++ a ++ b ++ o) = (if b = 0 then some (.bez a o) else if b = 1 then some (.bnz a o) else none)

/-- R141: a transfer of control, of which the other statements give the target, puts it into the pc of the issuing slot and ends its waits,
and runs no back-edge test: the loop stack stays. Of the inbound ports the instruction names (R69, R72) it takes an entry for each operand, of ib a
word; nothing else of the slot, no other hart, no memory and no other unit changes. -/
def Sys2Proof.Claims.TransfersOfControl : Prop :=
  ∀ (i : Instr) (s : State) (t : Reg64),
    let u := s.commitJump i t
    -- how often the instruction reads an inbound port
    let reads := fun (r : RegName) => ((opds i).filter (fun o => o.inbound && o.reg == r)).length
    u.me = { s.me with pc := t, waiting := none, blocked := none, midway := s.me.midway.filter (fun q => q.1 != s.me.pc), q0 := s.me.q0.drop (reads (.g 56)), q1 := s.me.q1.drop (reads (.g 57)), q2 := s.me.q2.drop (reads (.g 58)), q3 := s.me.q3.drop (reads (.g 59)), vq0 := s.me.vq0.drop (reads (.v 28)), vq1 := s.me.vq1.drop (reads (.v 29)), inbox := u.me.inbox }
    ∧ (reads (.g 63) = 0 → u.me.inbox = s.me.inbox) ∧ (reads (.g 63) = 1 → ∀ v l rest, s.me.inbox = (v :: l) :: rest → u.me.inbox = if l = [] then rest else l :: rest)
    ∧ (∀ h, h ≠ s.cur → u.slot h = s.slot h) ∧ u = { s with harts := u.harts }

/-- R136, R137: J and CALL go to their address plus four times the offset; JR, CALLR and RET go to the address they read, which must be
a multiple of 4; CALL and CALLR leave the address of the next word in the link; a transfer of a task to address 0 retires it. -/
def Sys2Proof.Claims.JumpsAndCalls : Prop :=
  ∀ (s : State) (a : BitVec 6) (o : BitVec 26),
    let linked := s.modMe (fun x => x.putLn (x.pc + 4))
    (Instr.j o).word = 0x0C#6 ++ o ∧ (Instr.call o).word = 0x0D#6 ++ o ∧ decodeWord (0x0C#6 ++ o) = some (.j o) ∧ decodeWord (0x0D#6 ++ o) = some (.call o)
    ∧ (ready (.j o) s = true → exec (.j o) s = .next (s.commitJump (.j o) (s.me.pc + 4 * o.signExtend 64)))
    ∧ (ready (.call o) s = true → exec (.call o) s = .next (linked.commitJump (.call o) (s.me.pc + 4 * o.signExtend 64)))
    ∧ (∀ i t s', ((i = .jr a ∧ t = s.getG a.toNat ∧ s' = s) ∨ (i = .callr a ∧ t = s.getG a.toNat ∧ s' = linked) ∨ (i = .ret ∧ t = s.me.getLn ∧ s' = s)) → ready i s = true →
        (t.toNat % 4 ≠ 0 → exec i s = .next (s.trapMe i 0x02 t))
        ∧ (t.toNat % 4 = 0 → t ≠ 0 → exec i s = .next (s'.commitJump i t))
        ∧ (t = 0 → s.me.routine = none → exec i s = .next ((s'.dequeueAll i).modMe (Slot.beginRetire s.clk)))
        ∧ (t = 0 → s.me.routine ≠ none → exec i s = .next (s.trapMe i 0x01 (i.word.zeroExtend 64))))

/-- Where branches, jumps, calls and returns go: `Claims.BranchOutcomes`, `Claims.TransfersOfControl` and `Claims.JumpsAndCalls`. -/
def Obligations.BranchesAndJumps : Prop := Claims.BranchOutcomes ∧ Claims.TransfersOfControl ∧ Claims.JumpsAndCalls

/-- R140, R142, R143: LOOP and LOOPI push an entry, or skip the body when the count is 0; a fourth entry, or a LOOP at the end of the
innermost body, is illegal, the latter whatever its count; LBRK pops the top entry and goes on after its body, where no back-edge test of an
outer loop that ends at the same word follows: the model's choice (log 62). -/
def Sys2Proof.Claims.LoopInstructions : Prop :=
  ∀ (s : State) (r c : BitVec 1) (a : BitVec 6) (m : BitVec 12) (l : BitVec 8),
    (∀ i n, ((i = .loop r c a l ∧ n = s.getG a.toNat) ∨ (i = .loopi r c m l ∧ n = m.zeroExtend 64)) →
      (s.me.issues = true → (∃ t ∈ s.me.loops.head?, t.last = s.me.pc) → exec i s = .next (s.trapMe i 0x01 (i.word.zeroExtend 64)))
      ∧ (ready i s = true → n = 0 → exec i s = .next (s.commitJump i (s.me.pc + 4 + r64 (4 * l.toNat))))
      ∧ (ready i s = true → n ≠ 0 → s.me.loops.length = 3 → exec i s = .next (s.trapMe i 0x01 (i.word.zeroExtend 64)))
      ∧ (ready i s = true → n ≠ 0 → s.me.loops.length < 3 → exec i s =
          .next ((s.modMe (fun x => { x with loops := { start := x.pc + 4, last := x.pc + r64 (4 * l.toNat), left := n, ren := r == 1, chk := c == 1 } :: x.loops })).commit i)))
    ∧ (s.me.issues = true → s.me.loops = [] → exec .lbrk s = .next (s.trapMe .lbrk 0x01 0x3C200000))
    ∧ (ready .lbrk s = true → ∀ t rest, s.me.loops = t :: rest → exec .lbrk s = .next ((s.modMe (fun x => { x with loops := rest })).commitJump .lbrk (t.last + 4)))

/-- R146, R147: an RPT whose capture meets none of the checks sets rpt with rptj = rpti = 0 and goes on with its first body word in a
frame; a failed check traps at the RPT word, but a body word outside the image is a fetch outside it (R138; the model's choice, log 63). Of several checks that
fail, the first in the table of R146 gives the trap, and in it the first word, the model's choice (log 56). Of the
checks: the first body word that is no ALU, ALUI, VINT, VFP, VCVT or VPERM word, or is reserved, gives 0x01; in a one-word ALU body a field
with a nonzero step from g0 gives 0x01, and else one whose final value is 56 or more gives 0x0B, with the word as xval. -/
def Sys2Proof.Claims.ReplayCapture : Prop :=
  ∀ (s : State) (l : BitVec 4) (n : BitVec 8) (d a b : BitVec 4) (v : BitVec 2), let i := Instr.rpt l n d a b v
    ready i s = true →
    (s.capture s.cur s.me.pc i.word = none →
      ∃ t : State, exec i s = .next t ∧ t.me.pc = s.me.pc + 4 ∧ t.me.rptOn = true ∧ t.me.xstat.getLsbD 63 = true ∧ t.me.rptJ = 0 ∧ t.me.rptI = 0
        ∧ (∀ k, k < 51 → t.me.xstat.getLsbD k = s.me.xstat.getLsbD k) ∧ t.me.win = s.me.win ∧ t.spm = s.spm ∧ t.ext = s.ext ∧ (∀ h, h ≠ s.cur → t.slot h = s.slot h))
    ∧ (∀ e, s.capture s.cur s.me.pc i.word = some e → exec i s = .next (s.take i (s.trapActAt e.1 e.2.1 e.2.2 i.word))
        ∧ (isTask s.cur = true → s.me.xvec ≠ 0 → s.me.xstat.getLsbD 7 = false → ∃ t : State, exec i s = .next t ∧ t.me.xcause = r64 e.1 ∧ t.me.xval = e.2.1 ∧ t.me.xpc = e.2.2 ∧ t.me.pc = s.me.xvec ∧ t.me.win = s.me.win)
        ∧ (e.2.2 = s.me.pc ∨ (e.1 = 3 ∧ e.2.1 = e.2.2 ∧ s.wordAt s.cur e.2.2 = none)))
    ∧ (let allowed := fun (u : Word) => u.toNat / 2 ^ 26 ∈ [0x01, 0x02, 0x20, 0x21, 0x23, 0x25] ∧ ∃ q, decodeWord u = some q ∧ legal q = true
       let at_ := fun (k : Nat) => s.wordAt s.cur (s.me.pc + r64 (4 * k + 4))
       (∀ j ≤ l.toNat, ∃ q, at_ j = some q) → ∀ k ≤ l.toNat, ∀ u, at_ k = some u → ¬ allowed u → (∀ j < k, ∀ q, at_ j = some q → allowed q) →
        s.capture s.cur s.me.pc i.word = some (0x01, u.zeroExtend 64, s.me.pc))
    ∧ (∀ (y c : BitVec 1) (d0 a0 b0 : BitVec 6), let u := (Instr.add d0 a0 b0 y c).word
        let fields := [(d0, d), (a0, a)] ++ (if c = 0 then [(b0, b)] else [])
        l = 0 → v = 0 → s.wordAt s.cur (s.me.pc + 4) = some u →
        ((∃ f ∈ fields, f.2 ≠ 0 ∧ f.1 = 0) → s.capture s.cur s.me.pc i.word = some (0x01, u.zeroExtend 64, s.me.pc))
        ∧ ((c = 1 → b0.toNat < 32) → (∀ f ∈ fields, f.2 ≠ 0 → f.1 ≠ 0) → (∃ f ∈ fields, f.2 ≠ 0 ∧ 56 ≤ f.1.toNat + n.toNat * f.2.toNat) → s.capture s.cur s.me.pc i.word = some (0x0B, u.zeroExtend 64, s.me.pc)))

/-- R147: inside an RPT frame the words of the body run in order, for each replay from the first word on; after the last word of the
last replay the frame ends, rpt clears, and the back-edge test of the last word follows. That rptj and rpti keep their last values then is the
model's choice (log 57). -/
def Sys2Proof.Claims.ReplayFrame : Prop :=
  ∀ (s : State) (h : Nat) (w : Word), let x := s.slot h
    let at0 := x.pc - r64 (4 * (x.rptI + 1))
    let r := Rpt.ofWord w
    s.wordAt h at0 = some w →
    (x.rptI + 1 < r.len → s.rptNext h = s.setSlot h { x.resume with xstat := setBits x.xstat 51 4 (x.rptI + 1), pc := x.pc + 4 })
    ∧ (r.len ≤ x.rptI + 1 → x.rptJ + 1 < r.reps → s.rptNext h = s.setSlot h { x.resume with xstat := setBits (setBits x.xstat 51 4 0) 55 8 (x.rptJ + 1), pc := at0 + 4 })
    ∧ (r.len ≤ x.rptI + 1 → r.reps ≤ x.rptJ + 1 → s.rptNext h = (s.setSlot h { x.resume with xstat := setBits x.xstat 63 1 0, rptOn := false }).backEdge 4 h (at0 + r64 (4 * r.len)) (at0 + r64 (4 * r.len + 4)))

/-- LOOP, LOOPI, LBRK, RPT and the RPT frame: `Claims.LoopInstructions`, `Claims.ReplayCapture` and `Claims.ReplayFrame`. -/
def Obligations.LoopsAndReplay : Prop := Claims.LoopInstructions ∧ Claims.ReplayCapture ∧ Claims.ReplayFrame

/-- R63, R167: VIEW sets one base, or all three from a register; a base that is no multiple of 8 gives cause 0x02, one not below the
window size cause 0x03, and neither changes any base. That the register form judges the alignment of all three first is the model's choice
(log 53). -/
def Sys2Proof.Claims.ViewBases : Prop :=
  ∀ (s : State) (q : BitVec 2) (b : BitVec 10) (d : BitVec 6),
    (ready (.view q b) s = true → 8 * b.toNat < s.me.winSize → exec (.view q b) s =
        .next ((s.modMe (fun x => if q = 0 then { x with gBase := 8 * b.toNat } else if q = 1 then { x with kBase := 8 * b.toNat } else { x with vBase := 8 * b.toNat })).commit (.view q b)))
    ∧ (ready (.view q b) s = true → s.me.winSize ≤ 8 * b.toNat → exec (.view q b) s = .next (s.trapMe (.view q b) 0x03 (r64 (8 * b.toNat))))
    ∧ (ready (.viewRegister d) s = true →
        let v := (s.getG d.toNat).toNat
        let g := v % 2 ^ 16
        let k := v / 2 ^ 16 % 2 ^ 16
        let u := v / 2 ^ 32 % 2 ^ 16
        (g % 8 = 0 → k % 8 = 0 → u % 8 = 0 → g < s.me.winSize → k < s.me.winSize → u < s.me.winSize →
          exec (.viewRegister d) s = .next ((s.modMe (fun x => { x with gBase := g, kBase := k, vBase := u })).commit (.viewRegister d)))
        ∧ ((g % 8 ≠ 0 ∨ k % 8 ≠ 0 ∨ u % 8 ≠ 0) → ∃ c ∈ [g, k, u], c % 8 ≠ 0 ∧ exec (.viewRegister d) s = .next (s.trapMe (.viewRegister d) 0x02 (r64 c)))
        ∧ (g % 8 = 0 → k % 8 = 0 → u % 8 = 0 → (s.me.winSize ≤ g ∨ s.me.winSize ≤ k ∨ s.me.winSize ≤ u) →
          ∃ c ∈ [g, k, u], s.me.winSize ≤ c ∧ exec (.viewRegister d) s = .next (s.trapMe (.viewRegister d) 0x03 (r64 c))))

/-- R168, R169: LCLAIM sets the request, rounded up to a multiple of 4 (clamped to 64 from a register), renegotiates and writes the new
grant; LRN renegotiates with the request as it stands; on a nib both answer 16; LYIELD sets the grant to 0. The new grant is the least of the
request, the slot's fair share of its core's fair share of the octet's 16 units, and its grant with the units free; the other slots keep
theirs. -/
def Sys2Proof.Claims.LaneGrants : Prop :=
  ∀ (s : State) (d : BitVec 6) (r : BitVec 7),
    let asks := fun (n : Nat) => (s.modMe (fun x => { x with request := (n + 3) / 4 * 4 })).renegotiate s.cur
    let writes := fun (i : Instr) (t : State) => ready i s = true → exec i s = .next ((t.putG d.toNat (r64 t.me.grant)).commit i)
    (isNib s.cur = false → writes (.lclaim d r) (asks r.toNat)
      ∧ writes (.lclaimRegister d) (asks (min 64 (s.getG d.toNat).toNat))
      ∧ writes (.lrn d) (s.renegotiate s.cur)
      ∧ (s.renegotiate s.cur).me.grant ≤ s.me.request)
    ∧ (isTask s.cur = true →
        let dem := fun (h : Nat) => if (s.slot h).live then (s.slot h).request / 4 else 0
        let held := fun (h : Nat) => if (s.slot h).live then (s.slot h).grant / 4 else 0
        let base := s.cur / 40 * 8
        let mine := s.cur / 5
        ∃ core slot : Nat → Nat,
          Claims.fair 8 16 (fun c => ((List.range 4).map (fun i => dem ((base + c) * 5 + i))).sum) core ∧ Claims.fair 4 (core (mine % 8)) (fun i => dem (mine * 5 + i)) slot
          ∧ (s.renegotiate s.cur).me.grant = 4 * min (dem s.cur) (min (slot (s.cur % 5)) (held s.cur + (16 - ((List.range 8).map (fun c => ((List.range 4).map (fun i => held ((base + c) * 5 + i))).sum)).sum)))
          ∧ ∀ h, h ≠ s.cur → (s.renegotiate s.cur).slot h = s.slot h)
    ∧ (isNib s.cur = true → ∀ i ∈ [Instr.lclaim d r, Instr.lclaimRegister d, Instr.lrn d], ready i s = true → exec i s = .next ((s.putG d.toNat 16).commit i))
    ∧ (ready .lyield s = true → exec .lyield s = .next ((s.modMe (fun x => { x with grant := 0 })).commit .lyield))

/-- VIEW, LCLAIM, LRN and LYIELD: `Claims.ViewBases` and `Claims.LaneGrants`. -/
def Obligations.ViewsAndLanes : Prop := Claims.ViewBases ∧ Claims.LaneGrants

/-- R177, R27, R28, R30: what SYSR reads of every listed register, and that an unlisted number is illegal with the number as value,
whatever else stands in the way (R83). The core and its cluster are those of a slot. On a control core and a nib, slot and
gate.idle read by the model's choice (log 75 and log 60). That the bit of a die clears once its 16 clusters are out, and that a cluster that
leaves clears no bit of its panels and cores, is the model's choice (log 79). -/
def Sys2Proof.Claims.SystemRegisterReads : Prop :=
  ∀ (s : State) (d : BitVec 6),
    let reads := fun (n : BitVec 12) (v : Reg64) => ready (.sysr d n) s = true → exec (.sysr d n) s = .next ((s.putG d.toNat v).commit (.sysr d n))
    let mask := fun (n : BitVec 12) (size : Nat) (out : Nat → Bool) => ready (.sysr d n) s = true →
      ∃ v : Reg64, exec (.sysr d n) s = .next ((s.putG d.toNat v).commit (.sysr d n)) ∧ ∀ i < 64, v.getLsbD i = (decide (i < size) && !out i)
    let cl := clusterOf s.cur
    reads 0x000 s.me.xstat ∧ reads 0x001 s.me.fcr ∧ reads 0x002 s.me.srs ∧ reads 0x003 (s.me.tid.zeroExtend 64) ∧ reads 0x004 (s.me.lid.zeroExtend 64)
    ∧ (isCore s.cur = true → reads 0x005 (r64 (s.cur / 5)) ∧ reads 0x006 (r64 (s.cur % 5))) ∧ (isCore s.cur = false → reads 0x006 0) ∧ reads 0x008 (r64 s.me.grant) ∧ reads 0x010 (r64 (s.stepOf s.me.uid))
    ∧ reads 0x020 s.me.xvec ∧ reads 0x021 s.me.xcause ∧ reads 0x022 s.me.xpc ∧ reads 0x023 s.me.xval
    ∧ reads 0x030 (r64 (s.panel (panelOf s.cur)).gateIdle) ∧ reads 0x031 (r64 s.me.rcTimeout)
    ∧ reads 0x100 0x504B0A0900010000 ∧ reads 0x10D 0x120 ∧ reads 0x10E 0x40 ∧ reads 0x10F 0x04B00708
    ∧ (isCore s.cur = true → mask 0x103 32 (fun i => s.panelsOut.contains (32 * cl + i))
        ∧ mask 0x104 64 (fun i => s.coresOut.contains (256 * cl + i)) ∧ mask 0x105 64 (fun i => s.coresOut.contains (256 * cl + 64 + i))
        ∧ mask 0x106 64 (fun i => s.coresOut.contains (256 * cl + 128 + i)) ∧ mask 0x107 64 (fun i => s.coresOut.contains (256 * cl + 192 + i)))
    ∧ mask 0x101 4 (fun i => (List.range 16).all (fun j => s.clustersOut.contains (16 * i + j))) ∧ mask 0x102 64 (fun i => s.clustersOut.contains i)
    ∧ mask 0x108 8 (fun i => s.stacksOut.contains i)
    ∧ mask 0x109 64 (fun i => s.nibsOut.contains i) ∧ mask 0x10A 64 (fun i => s.nibsOut.contains (64 + i))
    ∧ mask 0x10B 64 (fun i => s.nibsOut.contains (128 + i)) ∧ mask 0x10C 64 (fun i => s.nibsOut.contains (192 + i))
    ∧ reads 0x110 (s.ports.zeroExtend 64) ∧ reads 0x111 (r64 (s.domSize.toNat * 2 ^ 8 + s.domIndex.toNat)) ∧ reads 0x200 (s.me.ctok.zeroExtend 64)
    ∧ (∀ n ∈ ([0x007, 0x009, 0x011, 0x024, 0x032, 0x0FF, 0x112, 0x1FF, 0x201, 0x2FF, 0x301, 0x3FF] : List (BitVec 12)),
        s.me.issues = true → s.me.routine = none → exec (.sysr d n) s = .next (s.trapMe (.sysr d n) 0x01 (n.zeroExtend 64)))

/-- R177, R178, R51, R30: SYSW writes each writable register whole; a reserved value is illegal, a misaligned xvec gives cause 0x02, a
change of priv cause 0x05, and a read-only or unlisted number is illegal with the number as value; none of these writes anything. That a
reserved value reports the instruction's word is log 19's choice, and gate.idle on a control core and a nib that of log 60. -/
def Sys2Proof.Claims.SystemRegisterWrites : Prop :=
  ∀ (s : State) (d : BitVec 6),
    let v := s.getG d.toNat
    let does := fun (n : BitVec 12) (f : Slot → Slot) => ready (.sysw d n) s = true → exec (.sysw d n) s = .next ((s.modMe f).commit (.sysw d n))
    let traps := fun (n : BitVec 12) (c : Nat) (x : Reg64) => ready (.sysw d n) s = true → exec (.sysw d n) s = .next (s.trapMe (.sysw d n) c x)
    let word := fun (n : BitVec 12) => (Instr.sysw d n).word.zeroExtend 64
    let reserved := bits v 43 8 ≠ 0 ∨ bits v 8 24 ≠ 0 ∨ bits v 2 4 ≠ 0
    (¬ reserved → bits v 0 2 = bits s.me.xstat 0 2 → does 0x000 (fun x => { x with xstat := v }))
    ∧ (reserved → traps 0x000 0x01 (word 0x000)) ∧ (¬ reserved → bits v 0 2 ≠ bits s.me.xstat 0 2 → traps 0x000 0x05 0x000)
    ∧ (v.toNat / 2 ^ 13 = 0 → bits v 3 5 = 0 → bits v 0 3 < 6 → does 0x001 (fun x => { x with fcr := v }))
    ∧ ((v.toNat / 2 ^ 13 ≠ 0 ∨ bits v 3 5 ≠ 0 ∨ 6 ≤ bits v 0 3) → traps 0x001 0x01 (word 0x001))
    ∧ does 0x002 (fun x => { x with srs := v })
    ∧ (v.toNat % 4 = 0 → does 0x020 (fun x => { x with xvec := v })) ∧ (v.toNat % 4 ≠ 0 → traps 0x020 0x02 v)
    ∧ does 0x021 (fun x => { x with xcause := v }) ∧ does 0x022 (fun x => { x with xpc := v }) ∧ does 0x023 (fun x => { x with xval := v })
    ∧ ((v = 0 ∨ (64 ≤ v.toNat ∧ v.toNat ≤ 1048575)) → ready (.sysw d 0x030) s = true →
        exec (.sysw d 0x030) s = .next ((s.modPanel (panelOf s.cur) (fun p => { p with gateIdle := v.toNat })).commit (.sysw d 0x030)))
    ∧ (v ≠ 0 → (v.toNat < 64 ∨ 1048575 < v.toNat) → traps 0x030 0x01 (word 0x030))
    ∧ (1 ≤ v.toNat → v.toNat ≤ 1000000 → does 0x031 (fun x => { x with rcTimeout := v.toNat }))
    ∧ ((v.toNat = 0 ∨ 1000000 < v.toNat) → traps 0x031 0x01 (word 0x031))
    ∧ (∀ n ∈ ([0x003, 0x004, 0x005, 0x006, 0x008, 0x010, 0x007, 0x032, 0x100, 0x111, 0x1FF, 0x200, 0x201, 0x301] : List (BitVec 12)), s.me.issues = true → s.me.routine = none → exec (.sysw d n) s = .next (s.trapMe (.sysw d n) 0x01 (n.zeroExtend 64)))

/-- SYSR and SYSW for every register number class: `Claims.SystemRegisterReads` and `Claims.SystemRegisterWrites`. -/
def Obligations.SystemRegisters : Prop := Claims.SystemRegisterReads ∧ Claims.SystemRegisterWrites

/-- R173, R174, R175, R107, R118, R176: TRAP below 0x800 leaves a service record with g1 to g8 and its result pending; from 0x800 on it
takes cause 0x0D, and BRK cause 0x0C, with the code as value; NOP completes and changes nothing else; CANCK takes cause 0x0A when the
token is cancelled and completes otherwise; YIELD completes and the slot is not ready for the next 4 clk; EXIT begins retirement; HALT
stops a control core. -/
def Sys2Proof.Claims.SystemInstructions : Prop :=
  ∀ (s : State) (d : BitVec 6) (c : BitVec 12),
    (ready (.trap d c) s = true → s.me.routine = none → c.toNat < 0x800 → exec (.trap d c) s =
        .next ((s.postTo d.toNat (.service c.toNat [s.getG 1, s.getG 2, s.getG 3, s.getG 4, s.getG 5, s.getG 6, s.getG 7, s.getG 8]) (fun o => { o with mute := true })).commit (.trap d c)))
    ∧ (ready (.trap d c) s = true → 0x800 ≤ c.toNat → exec (.trap d c) s = .next (s.trapMe (.trap d c) 0x0D (c.zeroExtend 64)))
    ∧ (ready (.brk c) s = true → exec (.brk c) s = .next (s.trapMe (.brk c) 0x0C (c.zeroExtend 64)))
    ∧ (ready .nop s = true → exec .nop s = .next (s.commit .nop))
    ∧ (ready .canck s = true → s.taskDead s.me = false → exec .canck s = .next (s.commit .canck))
    ∧ (ready .canck s = true → s.taskDead s.me = true → exec .canck s = .next (s.trapMe .canck 0x0A (s.me.ctok.zeroExtend 64)))
    ∧ (ready .yield s = true → ∃ t : State, exec .yield s = .next (t.commit .yield) ∧ t = s.modMe (fun x => { x with notBefore := t.me.notBefore }) ∧ ∀ n, (t.tickClk n).mayIssue s.cur = true → 4 < n)
    ∧ (ready .exit s = true → exec .exit s = .next (s.modMe (Slot.beginRetire s.clk)))
    ∧ (ready .halt s = true → exec .halt s = .next ((s.modMe (fun x => { x with halted := true })).commit .halt))
    ∧ (isControl s.cur = false → s.me.issues = true → s.me.routine = none → exec .halt s = .next (s.trapMe .halt 0x05 0x7C000007))

/-- R82, R138, R281: a word that is no instruction takes cause 0x01 with the word as value; a fetch outside the image takes cause 0x03
with the address in xpc and xval; a queued status is delivered before the slot's next instruction, at that instruction's address. -/
def Sys2Proof.Claims.FetchAndStatusTraps : Prop :=
  ∀ (s : State) (w : Word) (a : Reg64) (cid sl : Nat),
    (s.me.issues = true → exec (.illegalInstruction w) s = .next (s.trapAt s.cur 0x01 (w.zeroExtend 64) s.me.pc w))
    ∧ (s.me.issues = true → exec (.instructionFetchOutsideImage a) s = .next (s.trapAt s.cur 0x03 a a 0))
    ∧ (let h := hartOf cid sl
       ∀ c v rest, sl < 4 → s.takesStatus h = true → (s.slot h).statusQ = (c, v) :: rest →
        ∃ t : State, exec (.statusTrap cid sl) s = .next (t.trapAt h c v (s.slot h).pc 0) ∧ (t.slot h).statusQ = rest ∧ (t.slot h).pc = (s.slot h).pc
          ∧ (t.slot h).win = (s.slot h).win ∧ (t.slot h).blocked = none ∧ (∀ k, k ≠ h → t.slot k = s.slot k) ∧ t.spm = s.spm)

/-- R173, R125, R176, R107: the null service answers 0 and a service that does not exist 0xFF; the value of an operation arrives in its
pending register; the management plane restarts a halted control core; the 4 clk of a YIELD end. -/
def Sys2Proof.Claims.ServicesAndArrivals : Prop :=
  ∀ (s : State) (id n cid sl : Nat) (o : Op),
    (s.op? id = some o → ∀ c args, o.kind = .service c args →
      (c = 0 → exec (.nullService id) s = .next (s.setOp { o with kind := .value 0 [] }))
      ∧ (3 ≤ c → exec (.noSuchService id) s = .next (s.setOp { o with kind := .value 0xFF [] })))
    ∧ (s.op? id = some o → ∀ v off, o.kind = .value v [] → o.off = some off → (s.slot o.owner).live = true → (s.slot o.owner).uid = o.task →
        exec (.pendingValueArrival id) s = .next ((s.modSlot o.owner (fun x => { x with win := Mem.write x.win off 8 v.toNat, bad := x.bad.filter (fun b => decide (b + 4 ≤ off) || decide (off + 8 ≤ b)), pend := x.pend.filter (fun p => p.2 != o.id) })).dropOp id))
    ∧ (n < 16 → exec (.controlCoreRestart n) s = .next (s.modSlot (ctlHart n) (fun x => { x with halted := false })))
    ∧ (sl < 4 → (s.slot (hartOf cid sl)).notBefore ≠ 0 → (s.slot (hartOf cid sl)).notBefore ≤ s.clk →
        exec (.yieldEnd cid sl) s = .next (s.modSlot (hartOf cid sl) (fun x => { x with notBefore := 0 })))

/-- System instructions, fetch and status traps, and services: `Claims.SystemInstructions`, `Claims.FetchAndStatusTraps` and `Claims.ServicesAndArrivals`. -/
def Obligations.SystemAndServices : Prop := Claims.SystemInstructions ∧ Claims.FetchAndStatusTraps ∧ Claims.ServicesAndArrivals

/-- R245, R247, R223, R232: LD writes the little-endian bytes at its address, extended by its sign bit or with zeros; a core reads its own
stores in program order over the homes; a nib reads its local store, or external memory after the sums it holds are folded in; a
refused access takes its cause with the address as value. While an acquire holds the slot's accesses (R243), or an earlier access of its own
must come first (R223; on SC storage every earlier store of the slot there, R104, R232), LD issues all the same, and its register, or port,
takes the value later. -/
def Obligations.LoadResults : Prop :=
  ∀ (s : State) (t b : BitVec 6) (q : BitVec 2) (x : BitVec 1) (o : BitVec 11),
    let i := Instr.ld t b q x o
    let n := 2 ^ q.toNat
    let a := Claims.scaled s b n o
    let ext := fun (v : Nat) => if x = 1 then BitVec.signExtend 64 (BitVec.ofNat (8 * n) v) else BitVec.zeroExtend 64 (BitVec.ofNat (8 * n) v)
    let later := s.accessesHeld || s.ownBusy (a.toNat % 2 ^ 48) n
    (Claims.unheld s → s.accessesHeld = false)
    ∧ (∀ p ∈ s.ops, p.owner = s.cur → p.task = s.me.uid → p.pid = s.pidOf s.cur → ∀ els, p.kind = .store els → ∀ e ∈ els, s.scAt p.pid e.1 = true → s.scAt p.pid (a.toNat % 2 ^ 48) = true → later = true)
    ∧ (ready i s = true →
      (isNib s.cur = false → s.check a n true false = none → (later = false ∨ isTask s.cur = false) → s.softErrors = [] →
        exec i s = .next ((s.putG t.toNat (ext (Mem.read (s.view s.cur) (a.toNat % 2 ^ 48) n))).commit i))
      ∧ (isTask s.cur = true → s.check a n true false = none → later = true → s.softErrors = [] → 0 < t.toNat →
        ∃ u : State, ∃ p : Op, exec i s = .next (u.commit i) ∧ u.ops = s.ops ++ [p] ∧ p.id = s.nextId ∧ p.owner = s.cur ∧ p.task = s.me.uid ∧ p.kind = .load [(a.toNat % 2 ^ 48, n, 0)] 0 (if x = 1 then 8 * n else 64)
          ∧ (t.toNat < 56 → p.off = some (s.me.gBase + 8 * t.toNat) ∧ u.me.pend = s.me.pend ++ [(s.me.gBase + 8 * t.toNat, p.id)]) ∧ (56 ≤ t.toNat → p.port = t.toNat ∧ u.me.pend = s.me.pend)
          ∧ u.me.win = s.me.win ∧ u.spm = s.spm)
      ∧ (isNib s.cur = true → a.toNat % n = 0 → a.toNat < 0x10000 → s.softErrors = [] →
        exec i s = .next ((s.putG t.toNat (ext (Mem.read s.nibMem ((s.cur - 81920) * 65536 + a.toNat) n))).commit i))
      ∧ (isNib s.cur = true → ∀ p, s.nibCheck a n true false = .ok (some p) → s.softErrors = [] →
        exec i s = .next (((s.foldAt p n).putG t.toNat (ext (Mem.read (s.foldAt p n).ext p n))).commit i))
      ∧ (∀ c, s.check a n true false = some c → exec i s = .next (s.trapMe i c a)))

/-- R245, R247, R242, R335: ST of a task leaves as one store of the register's low bytes and raises the slot's counter by one, changing
no memory yet; a store of a routine is at home at once, by the model's choice (log 41); a refused access takes its cause. -/
def Sys2Proof.Claims.StoreIssue : Prop :=
  ∀ (s : State) (t b : BitVec 6) (q : BitVec 2) (o : BitVec 11),
    let i := Instr.st t b q o
    let n := 2 ^ q.toNat
    let a := Claims.scaled s b n o
    let v := (s.getG t.toNat).toNat % 2 ^ (8 * n)
    ready i s = true →
    (isTask s.cur = true → s.check a n false true = none →
      exec i s = .next (((s.post (.store [(a.toNat % 2 ^ 48, n, v)]) id).modMe (fun x => { x with acks := x.acks + 1 })).commit i))
    ∧ (isHandler s.cur = true → s.check a n false true = none →
      exec i s = .next (((s.writeSpm (a.toNat % 2 ^ 48) n v).wakeMonitors).commit i))
    ∧ (isNib s.cur = true → a.toNat % n = 0 → a.toNat < 0x10000 → s.softErrors = [] →
      exec i s = .next (({ s with nibMem := Mem.write s.nibMem ((s.cur - 81920) * 65536 + a.toNat) n v } : State).commit i))
    ∧ (isNib s.cur = true → ∀ p, s.nibCheck a n false true = .ok (some p) →
      exec i s = .next (({ (s.foldAt p n) with ext := Mem.write (s.foldAt p n).ext p n v } : State).commit i))
    ∧ (∀ c, s.check a n false true = some c → exec i s = .next (s.trapMe i c a))

/-- R222, R242: the next element of a store reaches its home: its bytes hold the value, little-endian, and every other byte of the
scratchpads stays, as do external memory, the other memories and every register; the acknowledgement of a store wholly at home lowers
the slot's counter by one, and the last one lets the releases go that waited for it (R229). -/
def Sys2Proof.Claims.StoreArrival : Prop :=
  ∀ (s : State) (id : Nat) (o : Op), s.op? id = some o →
    (∀ a n v rest, o.kind = .store ((a, n, v) :: rest) → s.heldBack o = false → s.earlierOwn o a n = false → s.spm.wf = true → (∀ p ∈ s.ops, ∀ b w e, p.kind ≠ .waitw b w e) →
      ∃ t : State, exec (.storeAtHome id) s = .next t ∧ Claims.holdsAt t.spm s.spm a n v ∧ t.ext = s.ext ∧ t.nibMem = s.nibMem ∧ t.opMem = s.opMem ∧ t.accMem = s.accMem
        ∧ t.tblMem = s.tblMem ∧ t.imem = s.imem ∧ t.harts = s.harts ∧ t.full = s.full ∧ t.ops = s.ops.map (fun x => if x.id = o.id then { o with kind := .store rest } else x))
    ∧ (o.kind = .store [] → 1 < (s.slot o.owner).acks → (s.slot o.owner).live = true → (s.slot o.owner).uid = o.task →
      exec (.storeAcknowledge id) s = .next ((s.dropOp id).modSlot o.owner (fun x => { x with acks := x.acks - 1 })))
    ∧ (o.kind = .store [] → (s.slot o.owner).acks = 1 → (s.slot o.owner).live = true → (s.slot o.owner).uid = o.task →
      ∃ t : State, exec (.storeAcknowledge id) s = .next t ∧ (t.slot o.owner).acks = 0 ∧ t.spm = s.spm ∧ t.ext = s.ext
        ∧ (∀ p, p ∈ t.ops ↔ p ∈ (s.dropOp id).ops ∧ (p.owner = o.owner → (∀ x, p.kind ≠ .release x) ∧ ∀ x y, p.kind ≠ .semv x y)))

/-- A store's issue, and its arrival at its home with its frame: `Claims.StoreIssue` and `Claims.StoreArrival`. -/
def Obligations.Stores : Prop := Claims.StoreIssue ∧ Claims.StoreArrival

/-- R249: LDM and STM move one granule in each turn of their slot, from the one the progress field names on: LDM loads it into the register
of its place, STM stores that register as one store; before the last the progress field goes up by one and the slot's next instruction is
the same again, so that a trap, a pre-emption or another slot's access may come between; with the last the field ends at 0 and the
instruction completes. A progress field beyond the last granule is illegal. R242 counts each granule of STM; that one of a routine is stored
at once, so that no operation is posted and the counter stays, is the model's choice (log 41). -/
def Sys2Proof.Claims.MultipleTransfers : Prop :=
  ∀ (s : State) (t b : BitVec 6) (c : BitVec 5) (o : BitVec 6),
    let j := s.me.ldmJ
    let a := s.getG b.toNat + 8 * o.signExtend 64 + r64 (8 * j)
    let mark := fun (n : Nat) (u : State) => u.modMe (fun x => { x with xstat := setBits x.xstat 32 11 n })
    let then_ := fun (i : Instr) (u : State) => if j = c.toNat then (mark 0 u).commit i else (mark (j + 1) u).modMe Slot.resume
    (∀ n u, n < 2048 → (mark n u).me.ldmJ = n)
    ∧ (j ≤ c.toNat →
      (ready (.ldm t b c o) s = true → s.check a 8 true false = none → s.softErrors = [] →
        (isTask s.cur = true → s.accessesHeld = false → s.ownBusy (a.toNat % 2 ^ 48) 8 = false →
          exec (.ldm t b c o) s = .next (then_ (.ldm t b c o) (s.putG (t.toNat + j) (r64 (Mem.read (s.view s.cur) (a.toNat % 2 ^ 48) 8)))))
        ∧ (isTask s.cur = true → (s.accessesHeld = true ∨ s.ownBusy (a.toNat % 2 ^ 48) 8 = true) → ∃ u : State, ∃ p : Op,
          exec (.ldm t b c o) s = .next (then_ (.ldm t b c o) u) ∧ u.ops = s.ops ++ [p] ∧ p.kind = .load [(a.toNat % 2 ^ 48, 8, 0)] 0 64 ∧ p.off = some (s.me.gBase + 8 * (t.toNat + j)) ∧ u.me.win = s.me.win)
        ∧ (isTask s.cur = false → exec (.ldm t b c o) s = .next (then_ (.ldm t b c o) ((s.load a 8).1.putG (t.toNat + j) (r64 (s.load a 8).2)))))
      ∧ (ready (.stm t b c o) s = true → s.check a 8 false true = none →
        (isTask s.cur = true → exec (.stm t b c o) s = .next (then_ (.stm t b c o) ((s.post (.store [(a.toNat % 2 ^ 48, 8, (s.getG (t.toNat + j)).toNat)]) id).modMe (fun x => { x with acks := x.acks + 1 }))))
        ∧ (isTask s.cur = false → ∃ u : State, exec (.stm t b c o) s = .next (then_ (.stm t b c o) u) ∧ (∀ p ∈ u.ops, p ∈ s.ops) ∧ u.me.acks = s.me.acks)))
    ∧ (c.toNat < j → ∀ i ∈ ([.ldm t b c o, .stm t b c o] : List Instr), ready i s = true → exec i s = .next (s.trapMe i 0x01 (i.word.zeroExtend 64)))

/-- R249: a granule of LDM or STM that is refused stops the transfer there: the task takes the cause with the granule's address, and the
progress field names the granule; the registers below it have been transferred, and nothing else of the window or of memory changes. -/
def Sys2Proof.Claims.MultipleTransferTrap : Prop :=
  ∀ (s : State) (t b : BitVec 6) (c : BitVec 5) (o : BitVec 6) (cause : Nat),
    let j := s.me.ldmJ
    let a := s.getG b.toNat + 8 * o.signExtend 64 + r64 (8 * j)
    j ≤ c.toNat → isTask s.cur = true → s.me.routine = none → s.me.xvec ≠ 0 → s.me.xstat.getLsbD 7 = false →
      ∀ i r w, ((i = .ldm t b c o ∧ r = true ∧ w = false) ∨ (i = .stm t b c o ∧ r = false ∧ w = true)) → ready i s = true → s.check a 8 r w = some cause →
        ∃ u : State, exec i s = .next u ∧ u.me.ldmJ = j ∧ u.me.xcause = r64 cause ∧ u.me.xval = a ∧ u.me.xpc = s.me.pc ∧ u.me.pc = s.me.xvec
          ∧ u.me.win = s.me.win ∧ u.me.acks = s.me.acks ∧ u.ops = s.ops ∧ u.spm = s.spm ∧ u.ext = s.ext

/-- LDM and STM, their progress field and a refused granule: `Claims.MultipleTransfers` and `Claims.MultipleTransferTrap`. -/
def Obligations.MultipleTransfers : Prop := Claims.MultipleTransfers ∧ Claims.MultipleTransferTrap

/-- R235, R250, R251: LDFE, LDFF and STFE send one request and their slot waits for it; STF sends one and its slot goes on; STFE and STF
first wait until the slot's counter is 0 (R229), and both raise it. -/
def Sys2Proof.Claims.FullEmptyIssue : Prop :=
  ∀ (s : State) (t b : BitVec 6) (o : BitVec 11),
    let a := Claims.scaled s b 8 o
    let v := (s.getG t.toNat).toNat
    let off := if t = 0 then none else some (s.me.gBase + 8 * t.toNat)
    s.coreCheck a 8 = none → Claims.buffered s → s.softErrors = [] →
    (∀ sel i, ((sel = 0 ∧ i = Instr.ldfe t b o) ∨ (sel = 1 ∧ i = Instr.ldff t b o)) → ready i s = true →
      ∃ u : State, ∃ p : Op, exec i s = .next u ∧ u.ops = s.ops ++ [p] ∧ p.id = s.nextId ∧ p.owner = s.cur ∧ p.off = off ∧ p.buf = true ∧ p.stage = 0
        ∧ p.kind = .fullEmpty sel (a.toNat % 2 ^ 48) v ∧ u.me.blocked = some p.id ∧ u.me.pc = s.me.pc ∧ u.me.acks = s.me.acks ∧ u.spm = s.spm ∧ u.full = s.full)
    ∧ (ready (.stfe t b o) s = true → s.me.acks = 0 →
      ∃ u : State, ∃ p : Op, exec (.stfe t b o) s = .next u ∧ u.ops = s.ops ++ [p] ∧ p.id = s.nextId ∧ p.owner = s.cur ∧ p.buf = true ∧ p.stage = 0
        ∧ p.kind = .fullEmpty 2 (a.toNat % 2 ^ 48) v ∧ u.me.blocked = some p.id ∧ u.me.pc = s.me.pc ∧ u.me.acks = 1 ∧ u.spm = s.spm ∧ u.full = s.full)
    ∧ (ready (.stf t b o) s = true → s.me.acks = 0 →
      ∃ u : State, ∃ p : Op, exec (.stf t b o) s = .next (u.commit (.stf t b o)) ∧ u.ops = s.ops ++ [p] ∧ p.id = s.nextId ∧ p.owner = s.cur ∧ p.buf = true ∧ p.stage = 0
        ∧ p.kind = .fullEmpty 3 (a.toNat % 2 ^ 48) v ∧ u.me.acks = 1 ∧ u.spm = s.spm ∧ u.full = s.full)
    ∧ (∀ i ∈ ([.stfe t b o, .stf t b o] : List Instr), ready i s = true → s.me.acks ≠ 0 → exec i s = .next (s.mark .release))

/-- R235, R236: at the owner a load of a full word answers its value to the register (none: the value is discarded, R250) and lets the slot go on, LDFE leaving the word
empty; a store to an empty word (STF: to any) writes it and fills it; a request that cannot be performed is parked; nothing else of
memory changes. -/
def Sys2Proof.Claims.FullEmptyPerformed : Prop :=
  ∀ (s : State) (id sel a v : Nat) (o : Op), s.op? id = some o → o.id = id → o.kind = .fullEmpty sel a v → o.stage = 0 → s.heldBack o = false → s.earlierOwn o a 8 = false → sel < 4 → s.spm.wf = true →
    (∀ p ∈ s.ops, p.id ≠ id → (∀ b w e, p.kind ≠ .waitw b w e) ∧ (∀ q w, p.kind ≠ .fullEmpty q a w)) →
    (sel < 2 → s.full.contains a = true → (s.slot o.owner).live = true → (s.slot o.owner).blocked = some id → (s.slot o.owner).loops = [] → (s.slot o.owner).win.wf = true →
      ∃ t : State, exec (.fullEmptyAtOwner id) s = .next t ∧ t.full.contains a = decide (sel = 1) ∧ t.spm = s.spm ∧ t.ops = s.ops.filter (fun p => p.id != id)
        ∧ (∀ off, o.off = some off → Claims.holdsAt (t.slot o.owner).win (s.slot o.owner).win off 8 (Mem.read s.spm a 8)) ∧ (o.off = none → (t.slot o.owner).win = (s.slot o.owner).win) ∧ (t.slot o.owner).pc = (s.slot o.owner).pc + 4 ∧ (t.slot o.owner).blocked = none)
    ∧ ((sel = 3 ∨ (sel = 2 ∧ s.full.contains a = false)) → ∃ t : State, exec (.fullEmptyAtOwner id) s = .next t ∧ t.full.contains a = true ∧ Claims.holdsAt t.spm s.spm a 8 v ∧ t.ext = s.ext)
    ∧ (((sel < 2 ∧ s.full.contains a = false) ∨ (sel = 2 ∧ s.full.contains a = true)) →
        exec (.fullEmptyAtOwner id) s = .next { s with ops := s.ops.filter (fun p => p.id != id) ++ [{ o with stage := 1, buf := false }] })

/-- R252, R253, R223: WAITW on a word that differs from its register completes; on an equal word its slot waits; while an atomic or
full/empty access of the slot to the word is under way it waits for that first; past 64 monitor entries it waits without one, which telemetry
counts, and reads its word again, as its slot sees it, when its 256 clk are over, going on once it differs. -/
def Sys2Proof.Claims.WordWait : Prop :=
  ∀ (s : State) (t b : BitVec 6) (o : BitVec 11), let a := Claims.scaled s b 8 o
    (ready (.waitw t b o) s = true → s.coreCheck a 8 = none → Claims.unheld s → s.softErrors = [] →
      (s.ownBusy (a.toNat % 2 ^ 48) 8 = true → exec (.waitw t b o) s = .next (s.mark .word))
      ∧ (s.ownBusy (a.toNat % 2 ^ 48) 8 = false → s.monitors (clusterOf s.cur) < 64 → Mem.read (s.view s.cur) (a.toNat % 2 ^ 48) 8 ≠ (s.getG t.toNat).toNat → exec (.waitw t b o) s = .next (s.commit (.waitw t b o)))
      ∧ (s.ownBusy (a.toNat % 2 ^ 48) 8 = false → Mem.read (s.view s.cur) (a.toNat % 2 ^ 48) 8 = (s.getG t.toNat).toNat →
          ∃ u : State, ∃ p : Op, exec (.waitw t b o) s = .next u ∧ u.ops = s.ops ++ [p] ∧ p.kind = .waitw (a.toNat % 2 ^ 48) (s.getG t.toNat).toNat (decide (s.monitors (clusterOf s.cur) < 64)) ∧ p.due = s.clk + 256
            ∧ u.me.blocked = some p.id ∧ u.me.pc = s.me.pc ∧ (u.cluster (clusterOf s.cur)).monFall = (s.cluster (clusterOf s.cur)).monFall + (if s.monitors (clusterOf s.cur) < 64 then 0 else 1)))
    ∧ (∀ id q w v, s.op? id = some q → q.id = id → q.kind = .waitw w v false → q.due ≤ s.clk →
      (Mem.read (s.viewBefore q) w 8 ≠ v → exec (.waitwPoll id) s = .next (s.unblock q))
      ∧ (Mem.read (s.viewBefore q) w 8 = v → exec (.waitwPoll id) s = .next (s.setOp { q with due := q.due + 256 })))

/-- Full/empty accesses and WAITW: `Claims.FullEmptyIssue`, `Claims.FullEmptyPerformed` and `Claims.WordWait`. -/
def Obligations.FullEmptyAndWait : Prop := Claims.FullEmptyIssue ∧ Claims.FullEmptyPerformed ∧ Claims.WordWait

/-- R254, R256, R50: an atomic of a task leaves as one request with its function, width, address, operand, expected value, ordering, mode and
srs, its result register pending unless .NR; the slot's counter rises by one and the slot goes on, and FAADD under RSTO advances its srs once. One marked .REL waits for the counter first
(R229), any waits for a call record (R341), and a word with an error that is not corrected traps at issue (R279, R290). -/
def Sys2Proof.Claims.AtomicIssue : Prop :=
  ∀ (s : State) (d a b : BitVec 6) (w n : BitVec 1) (ord : BitVec 2),
    let k := if w = 1 then 4 else 8
    let ad := s.getG a.toNat
    s.me.routine = none → s.atomicCheck ad k = none →
    ∀ i fn, ((i = Instr.aadd d a b w n ord ∧ fn = 0) ∨ (i = Instr.aand d a b w n ord ∧ fn = 1) ∨ (i = Instr.aor d a b w n ord ∧ fn = 2) ∨ (i = Instr.axor d a b w n ord ∧ fn = 3)
        ∨ (i = Instr.amin d a b w n ord ∧ fn = 4) ∨ (i = Instr.amax d a b w n ord ∧ fn = 5) ∨ (i = Instr.aminn d a b w n ord ∧ fn = 6) ∨ (i = Instr.amaxn d a b w n ord ∧ fn = 7)
        ∨ (i = Instr.aswp d a b w n ord ∧ fn = 8) ∨ (i = Instr.acas d a b w n ord ∧ fn = 9) ∨ (i = Instr.faadd d a b w n ord ∧ fn = 10) ∨ (i = Instr.famin d a b w n ord ∧ fn = 11)
        ∨ (i = Instr.famax d a b w n ord ∧ fn = 12)) → ready i s = true →
      (s.atomicBroken ad k = true → exec i s = .next (s.trapMe i 0x08 ad))
      ∧ (s.softErrors = [] → s.atomicBroken ad k = false)
      ∧ (s.atomicBroken ad k = false → ord = 2 → s.me.acks ≠ 0 → exec i s = .next (s.mark .release))
      ∧ (s.atomicBroken ad k = false → (ord = 2 → s.me.acks = 0) → 16 ≤ s.callsUsed s.cur → exec i s = .next (s.mark .request))
      ∧ (s.atomicBroken ad k = false → Claims.buffered s → (ord = 2 → s.me.acks = 0) → s.callsUsed s.cur < 16 →
      ∃ u : State, ∃ p : Op, exec i s = .next (u.commit i) ∧ u.ops = s.ops ++ [p] ∧ p.id = s.nextId ∧ p.owner = s.cur ∧ p.stage = 0
        ∧ p.off = (if n = 1 ∨ d = 0 then none else some (s.me.gBase + 8 * d.toNat))
        ∧ p.kind = .atomic fn k ad (r64 ((s.getG b.toNat).toNat % 2 ^ (8 * k))) (r64 ((s.getG d.toNat).toNat % 2 ^ (8 * k))) ord.toNat (n == 1) s.me.mode s.me.srs
        ∧ u.me.srs = (if fn = 10 ∧ s.me.mode = .rsto then (let x := s.me.srs ^^^ (s.me.srs <<< 13); let y := x ^^^ (x >>> 7); y ^^^ (y <<< 17)) else s.me.srs)
        ∧ u.me.acks = s.me.acks + 1 ∧ u.me.win = s.me.win ∧ u.me.pend = (if n = 1 ∨ d = 0 then s.me.pend else s.me.pend ++ [(s.me.gBase + 8 * d.toNat, p.id)])
        ∧ u.spm = s.spm ∧ u.ext = s.ext)

/-- R255, R256, R191, R336, R337: once its packet is there and no routine or earlier call has the unit, the word takes the function's value at
its owner, the handler slot of its core's scratchpad or the nib of its channel (R325), where a page maps it; nothing else of memory changes, and
the old value stands in the reply, with the flags of a floating-point function; FAMIN and FAMAX are R191's. -/
def Sys2Proof.Claims.AtomicAtOwner : Prop :=
  ∀ (s : State) (id fn n : Nat) (a y e : Reg64) (ord : Nat) (nr : Bool) (m : Rnd) (r : Reg64) (o : Op) (off phys : Nat) (pte : Reg64),
    let on := decide (off < 0x40000000)
    let unit := if on then off / 65536 * 5 + 4 else 81920 + off / 65536 % 256
    let home := s.foldAt phys n
    let at_ := if on then off else phys
    let before := if on then s.spm else home.ext
    let x := Mem.read before at_ n
    let fmt := if n = 4 then fp32 else fp64
    let sum := exactSum (m == .rdn) [fmt.decode x, fmt.decode y.toNat]
    let extreme := Claims.extreme fmt (fn == 12) x y.toNat
    s.op? id = some o → o.id = id → o.kind = .atomic fn n a y e ord nr m r → o.stage = 0 → (n = 4 ∨ n = 8) → y.toNat < 2 ^ (8 * n) → e.toNat < 2 ^ (8 * n) →
    s.address a = some (off, none) → s.arrived o = true → s.callWaits unit = false → (s.slot unit).live = false → s.cacheFull unit = false → s.heldBack o = false → s.earlierOwn o off n = false →
    s.earlierCall o unit = false → (on = true → s.holds o.pid (off / 2 ^ 24) = true ∧ s.coresOut.contains (off / 65536) = false ∧ s.clustersOut.contains (off / 2 ^ 24) = false) →
    (on = false → s.translate o.pid off true true false = some (phys, pte) ∧ s.nibsOut.contains (off / 65536 % 256) = false ∧ home.ext.wf = true) →
    s.softErrors = [] → s.spm.wf = true → (∀ p ∈ s.ops, ∀ b w x, p.kind ≠ .waitw b w x) →
      ∃ t : State, ∃ p : Op, exec (.atomicAtOwner id) s = .next t ∧ t.op? id = some p ∧ p.stage = 1 ∧ p.status = 0 ∧ p.reply = [r64 x] ∧ p.kind = o.kind
        ∧ (let after := if on then t.spm else t.ext
          (fn < 10 → Claims.holdsAt after before at_ n (Claims.atomicInt n fn x y.toNat e.toNat))
          ∧ (fn = 10 → Claims.holdsAt after before at_ n (fmt.round m false r sum.1).bits ∧ p.flags = (sum.2.or (fmt.round m false r sum.1).flags).bits)
          ∧ (fn = 11 ∨ fn = 12 → Claims.holdsAt after before at_ n extreme.1 ∧ p.flags = (if extreme.2 then 16 else 0))
          ∧ ∀ x, (x < at_ ∨ at_ + n ≤ x) → after.get x = before.get x)
        ∧ (on = true → t.ext = s.ext) ∧ (on = false → t.spm = s.spm) ∧ t.harts = s.harts
        ∧ ((∀ q ∈ s.nibs, q.2.sums = []) → home.ext = s.ext)

/-- R255, R244: the reply writes the old value, sign-extended, to the pending register and, for a floating-point function, its flags to
fcr; a nonzero status writes 0 to the register and leaves a kind-2 record (a control core's with the management plane, log 8) and a status for
the slot to trap on. -/
def Sys2Proof.Claims.AtomicReplyArrival : Prop :=
  ∀ (s : State) (id fn n : Nat) (a y e : Reg64) (ord : Nat) (nr : Bool) (m : Rnd) (r : Reg64) (o : Op) (off : Nat) (x : Reg64),
    s.op? id = some o → o.id = id → o.kind = .atomic fn n a y e ord nr m r → o.stage = 1 → (s.slot o.owner).live = true → (s.slot o.owner).uid = o.task → (s.slot o.owner).retiring = false → (n = 4 ∨ n = 8) → s.arrived o = true → s.earlierReply o (s.callUnit a) = false →
    (nr = false → o.off = some off → o.status = 0 → o.reply = [x] → (s.slot o.owner).win.wf = true →
      ∃ t : State, exec (.atomicReply id) s = .next t ∧ Claims.holdsAt (t.slot o.owner).win (s.slot o.owner).win off 8 (BitVec.signExtend 64 (BitVec.ofNat (8 * n) x.toNat)).toNat
        ∧ (t.slot o.owner).pend = (s.slot o.owner).pend.filter (fun p => p.2 != id)
        ∧ (t.slot o.owner).fcr = (if 10 ≤ fn then (s.slot o.owner).fcr ||| r64 (o.flags * 2 ^ 8) else (s.slot o.owner).fcr) ∧ t.spm = s.spm ∧ t.ext = s.ext)
    ∧ (nr = false → o.off = some off → o.status ≠ 0 → (s.slot o.owner).win.wf = true →
      ∃ t : State, exec (.atomicReply id) s = .next t ∧ Claims.holdsAt (t.slot o.owner).win (s.slot o.owner).win off 8 0 ∧ (t.slot o.owner).fcr = (s.slot o.owner).fcr
        ∧ (t.slot o.owner).pend = (s.slot o.owner).pend.filter (fun p => p.2 != id) ∧ (t.slot o.owner).statusQ = (s.slot o.owner).statusQ ++ [(o.status, a)]
        ∧ ∃ f, Claims.lastRecord t o.cluster = some f ∧ f.kind = 2 ∧ f.status = o.status ∧ f.val = a)
    ∧ (nr = true → o.status ≠ 0 → ∃ t : State, exec (.atomicReply id) s = .next t ∧ (t.slot o.owner).statusQ = (s.slot o.owner).statusQ ++ [(o.status, a)]
        ∧ ∃ f, Claims.lastRecord t o.cluster = some f ∧ f.kind = 2 ∧ f.status = o.status ∧ f.val = a)

/-- An atomic's issue, its effect at the owner and its reply: `Claims.AtomicIssue`, `Claims.AtomicAtOwner` and `Claims.AtomicReplyArrival`. -/
def Obligations.Atomics : Prop := Claims.AtomicIssue ∧ Claims.AtomicAtOwner ∧ Claims.AtomicReplyArrival

/-- R258, R237, R244: RADD leaves with the register's low bytes and is counted; the combiner adds it into its task slot's lane; the first to an
address, over whose channel the station can be reached, begins an entry where its page is a reduction page of its format and answers status 4
where it is not; an address that is no external memory answers status 3; a nib that runs no routine (R336) takes a forwarded sum into its slot for the cluster. -/
def Sys2Proof.Claims.ReductionAtMemory : Prop :=
  ∀ (s : State),
    (∀ (a b : BitVec 6) (t : BitVec 1), let n := if t = 1 then 8 else 4
      ready (.radd a b t) s = true →
      ((s.getG a.toNat).toNat % n ≠ 0 → exec (.radd a b t) s = .next (s.trapMe (.radd a b t) 0x02 (s.getG a.toNat)))
      ∧ ((s.getG a.toNat).toNat % n = 0 → Claims.buffered s →
        ∃ u : State, ∃ p : Op, exec (.radd a b t) s = .next (u.commit (.radd a b t)) ∧ u.ops = s.ops ++ [p] ∧ p.kind = .radd (s.getG a.toNat) (t == 1) ((s.getG b.toNat).toNat % 2 ^ (8 * n)) ∧ u.me.acks = s.me.acks + 1 ∧ u.ext = s.ext))
    ∧ (∀ id o a v phys off lanes is64 u, s.op? id = some o → o.id = id → o.kind = .radd a is64 v → s.heldBack o = false → (∀ p ∈ s.ops, p.id = id ∨ ∀ x y z, p.kind ≠ .radd x y z) → s.address a = some (off, none) → onChip off = false →
        (s.cluster o.cluster).comb = [⟨off, phys, is64, lanes⟩] → Tab.get? lanes (4 * coreOf o.owner + slOf o.owner) = some u →
        exec (.raddAtCombiner id) s = .next (((s.modCluster o.cluster (fun c => { c with comb := [⟨off, phys, is64, Tab.set lanes (4 * coreOf o.owner + slOf o.owner)
            ((if is64 then fp64 else fp32).round .rne false 0 (exactSum false [(if is64 then fp64 else fp32).decode u, (if is64 then fp64 else fp32).decode v]).1).bits⟩] })).dropOp id).ackSlot o))
    ∧ (∀ id o a is64 v off, s.op? id = some o → o.kind = .radd a is64 v → s.heldBack o = false → (∀ p ∈ s.ops, p.id = id ∨ ∀ x y z, p.kind ≠ .radd x y z) →
        (s.address a = none ∨ (s.address a = some (off, none) ∧ onChip off = true)) → exec (.raddAtCombiner id) s = .next (((s.pushStatus o 3 a).dropOp id).ackSlot o))
    ∧ (∀ id o a v off is64, s.op? id = some o → o.id = id → o.kind = .radd a is64 v → s.heldBack o = false → (∀ p ∈ s.ops, p.id = id ∨ ∀ x y z, p.kind ≠ .radd x y z) → s.address a = some (off, none) → 0x40000000 ≤ off →
        (s.cluster o.cluster).comb = [] →
        (s.canReach o.owner (81920 + off / 65536 % 256) = false → exec (.raddAtCombiner id) s = .next s)
        ∧ (s.canReach o.owner (81920 + off / 65536 % 256) = true →
          let page := fun (e : Reg64) => pteRed e = true ∧ pteFmt e = (if is64 then 8 else 7)
          (∀ phys e, s.translate o.pid off false true false = some (phys, e) → page e →
            exec (.raddAtCombiner id) s = .next (((s.modCluster o.cluster (fun c => { c with comb := [⟨off, some phys, is64, Tab.set [] (4 * coreOf o.owner + slOf o.owner) v⟩] })).dropOp id).ackSlot o))
          ∧ ((∀ phys e, s.translate o.pid off false true false = some (phys, e) → ¬ page e) → exec (.raddAtCombiner id) s = .next (((s.pushStatus o 4 a).dropOp id).ackSlot o))))
    ∧ (∀ n f, s.forwards.find? (fun g => g.n == n) = some f → (s.slot (81920 + channelOf f.sum.addr)).live = true → exec (.nibSumReceipt n) s = .next s)
    ∧ (∀ n f, s.forwards.find? (fun g => g.n == n) = some f → (s.slot (81920 + channelOf f.sum.addr)).live = false → (s.nib (channelOf f.sum.addr)).sums = [] →
        ∃ t : State, exec (.nibSumReceipt n) s = .next t ∧ (t.nib (channelOf f.sum.addr)).sums = [f.sum] ∧ t.forwards = s.forwards.filter (fun g => g.n != n) ∧ t.ext = s.ext)

/-- R231, R260: FENCE without RED completes once the slot's counter is 0 and waits before; with RED it also flushes the cluster's
combiner, and completes when no forwarded sum of the cluster is on its way. That the counter alone stands for the accesses R260 names, and that
FENCE.RED flushes before its wait while its own RADD is held by a full combiner (R238), is the model's choice (log 55). -/
def Sys2Proof.Claims.FenceCompletion : Prop :=
  ∀ (s : State) (r : BitVec 1) (q : BitVec 3), ready (.fence r q) s = true → Claims.unheld s →
    let held := 32 ≤ (s.cluster (clusterOf s.cur)).comb.length ∧ ∃ o ∈ s.ops, o.owner = s.cur ∧ o.task = s.me.uid ∧ ∃ a d v, o.kind = .radd a d v
    (s.me.acks ≠ 0 → (r = 0 ∨ ¬ held) → exec (.fence r q) s = .next (s.mark .fence))
    ∧ (s.me.acks ≠ 0 → r = 1 → held → exec (.fence r q) s = .next ((s.flush (clusterOf s.cur)).mark .fence) ∧ ((s.flush (clusterOf s.cur)).cluster (clusterOf s.cur)).comb = [])
    ∧ (s.me.acks = 0 → r = 0 → exec (.fence r q) s = .next (s.commit (.fence r q)))
    ∧ (s.me.acks = 0 → r = 1 → s.me.midway = none → (∀ f ∈ s.forwards, f.sum.cluster ≠ clusterOf s.cur) → (∀ e ∈ (s.cluster (clusterOf s.cur)).comb, e.phys = none) →
        ∃ t : State, exec (.fence r q) s = .next (t.commit (.fence r q)) ∧ (t.cluster (clusterOf s.cur)).comb = [] ∧ t.forwards = s.forwards ∧ t.ext = s.ext ∧ t.spm = s.spm)
    ∧ (∀ e p v, s.me.acks = 0 → r = 1 → s.me.midway = none → (∀ f ∈ s.forwards, f.sum.cluster ≠ clusterOf s.cur) → (s.cluster (clusterOf s.cur)).comb = [e] → e.phys = some p → e.sum = some v →
        ∃ t : State, exec (.fence r q) s = .next t ∧ t.forwards = s.forwards ++ [⟨s.nextId, ⟨e.addr, clusterOf s.cur, e.fp64, v, (s.cluster (clusterOf s.cur)).pid.getD 0, p⟩⟩]
          ∧ (t.cluster (clusterOf s.cur)).comb = [] ∧ t.me.pc = s.me.pc ∧ t.me.blocked = s.me.blocked ∧ t.spm = s.spm ∧ t.ext = s.ext)

/-- RADD through combiner and nib, and FENCE: `Claims.ReductionAtMemory` and `Claims.FenceCompletion`. -/
def Obligations.ReductionsAndFences : Prop := Claims.ReductionAtMemory ∧ Claims.FenceCompletion

/-- R243, R259, R261, R262: ACQ asks its object and the slot goes on, later accesses held until the answer returns; REL is recorded at its
object once the counter is 0; an acquire completes for an atomic marked .ACQ once its reply is back at the slot; a malformed object word takes its
cause, and is its xval by the model's choice (log 19). -/
def Sys2Proof.Claims.AcquireAndRelease : Prop :=
  ∀ (s : State) (d : BitVec 6), let x := s.getG d.toNat
    (s.objectTrap x = none →
      (ready (.acq d) s = true → ∃ u : State, ∃ p : Op, exec (.acq d) s = .next (u.commit (.acq d)) ∧ u.ops = s.ops ++ [p] ∧ p.id = s.nextId ∧ p.kind = .acquire x ∧ u.me = s.me)
      ∧ (ready (.rel d) s = true → s.me.acks = 0 → ∃ u : State, exec (.rel d) s = .next (u.commit (.rel d)) ∧ u.me = s.me ∧ u.spm = s.spm ∧ ∀ p ∈ u.ops, p.owner = s.cur → ∀ y, p.kind ≠ .release y)
      ∧ (ready (.rel d) s = true → s.me.acks ≠ 0 → ∃ u : State, ∃ p : Op, exec (.rel d) s = .next (u.commit (.rel d)) ∧ u.ops = s.ops ++ [p] ∧ p.kind = .release x ∧ u.me = s.me))
    ∧ (∀ e, s.objectTrap x = some e → (ready (.acq d) s = true → exec (.acq d) s = .next (s.trapMe (.acq d) e.1 e.2)) ∧ (ready (.rel d) s = true → exec (.rel d) s = .next (s.trapMe (.rel d) e.1 e.2)))
    ∧ (bits x 54 8 ≠ 0 → s.objectTrap x = some (0x01, x))
    ∧ (∀ id o y, s.op? id = some o → o.kind = .acquire y → exec (.acquireCompletion id) s = .next (s.dropOp id))
    ∧ (∀ id o fn n a y e nr m r, s.op? id = some o → o.kind = .atomic fn n a y e 1 nr m r → o.stage = 1 →
        (s.arrived o = false → exec (.acquireCompletion id) s = .next s)
        ∧ (s.arrived o = true → s.earlierReply o (s.callUnit a) = false → exec (.acquireCompletion id) s = .next (s.setOp { o with kind := .atomic fn n a y e 0 nr m r })))

/-- R243, R125, R214: while an ACQ of the task is outstanding LD issues without its value, its register pending; a load, a VTILD, a store and
a copy behind the ACQ stay where they are, and once nothing of the task is before it the load reads its word at home and its register takes it; a
vector load reads one element a turn, which its register's bytes take then. That a VTILD is held like a load is the model's choice (log 12). -/
def Sys2Proof.Claims.HeldAccesses : Prop :=
  ∀ (s : State),
    (∀ (t b : BitVec 6) (q : BitVec 2) (y : BitVec 1) (o : BitVec 11), let i := Instr.ld t b q y o
      let n := 2 ^ q.toNat
      let a := Claims.scaled s b n o
      ready i s = true → isTask s.cur = true → t ≠ 0 → t.toNat < 56 → s.check a n true false = none → s.softErrors = [] → (∃ p ∈ s.ops, p.owner = s.cur ∧ p.task = s.me.uid ∧ ∃ z, p.kind = .acquire z) →
        ∃ u : State, ∃ p : Op, exec i s = .next (u.commit i) ∧ u.ops = s.ops ++ [p] ∧ p.id = s.nextId ∧ p.owner = s.cur ∧ p.task = s.me.uid ∧ p.kind = .load [(a.toNat % 2 ^ 48, n, 0)] 0 (if y = 1 then 8 * n else 64)
          ∧ p.off = some (s.me.gBase + 8 * t.toNat) ∧ u.me.pend = s.me.pend ++ [(s.me.gBase + 8 * t.toNat, p.id)] ∧ u.me.win = s.me.win ∧ u.spm = s.spm)
    ∧ (∀ id o, s.op? id = some o → (∃ p ∈ s.ops, p.owner = o.owner ∧ p.task = o.task ∧ p.id < o.id ∧ ∃ z, p.kind = .acquire z) →
        (∀ l r x, o.kind = .load l r x → exec (.pendingValueArrival id) s = .next s) ∧ (∀ d l a, o.kind = .table d l a → exec (.pendingValueArrival id) s = .next s) ∧ (∀ l, o.kind = .store l → l ≠ [] → exec (.storeAtHome id) s = .next s) ∧ (∀ c, o.kind = .copy c → exec (.copyEngineAcceptance id) s = .next s))
    ∧ (∀ id o a n b rest got off, s.op? id = some o → o.id = id → o.kind = .load ((a, n, b) :: rest) got 0 → rest ≠ [] → o.port = 0 → o.off = some off → (∀ p ∈ s.ops, p.owner = o.owner → o.id ≤ p.id) → (s.slot o.owner).live = true → (s.slot o.owner).uid = o.task →
        exec (.pendingValueArrival id) s = .next ((s.modSlot o.owner (fun x => { x with win := Mem.write x.win (off + b / 8) n (Mem.read s.spm a n), bad := x.bad.filter (fun c => decide (c + 4 ≤ off + b / 8) || decide (off + b / 8 + n ≤ c)) })).setOp
          { o with kind := .load rest (got + Mem.read s.spm a n * 2 ^ b) 0 }))
    ∧ (∀ id o a n off, s.op? id = some o → o.kind = .load [(a, n, 0)] 0 64 → n ≤ 8 → o.port = 0 → o.off = some off → (∀ p ∈ s.ops, p.owner = o.owner → o.id ≤ p.id) → (s.slot o.owner).live = true → (s.slot o.owner).uid = o.task →
        exec (.pendingValueArrival id) s = .next ((s.modSlot o.owner (fun x => { x with win := Mem.write x.win off 8 (r64 (Mem.read s.spm a n)).toNat, bad := x.bad.filter (fun b => decide (b + 4 ≤ off) || decide (off + 8 ≤ b)), pend := x.pend.filter (fun p => p.2 != o.id) })).dropOp id))

/-- R228, R263: BIND and UNBIND of a region that meets no check wait while the binding tables change; a misaligned base or length takes
cause 0x02; on completion the process's table holds the region, or holds none of those inside it, and the slot goes on. -/
def Sys2Proof.Claims.BindingChanges : Prop :=
  ∀ (s : State) (d : BitVec 6),
    let obj := s.getG d.toNat
    let base := s.getG (d.toNat + 1)
    let len := (s.getG (d.toNat + 2)).toNat
    (ready (.bind d) s = true → s.objectTrap obj = none →
      (base.toNat % 8 ≠ 0 → exec (.bind d) s = .next (s.trapMe (.bind d) 0x02 base))
      ∧ (base.toNat % 8 = 0 → len % 8 ≠ 0 → exec (.bind d) s = .next (s.trapMe (.bind d) 0x02 (r64 len)))
      ∧ (base.toNat % 8 = 0 → len % 8 = 0 → s.regionBase base len = none → exec (.bind d) s = .next (s.trapMe (.bind d) 0x03 base))
      ∧ (∀ b, base.toNat % 8 = 0 → len % 8 = 0 → s.regionBase base len = some b → s.bound (s.pidOf s.cur) = [] →
          ∃ u : State, ∃ p : Op, exec (.bind d) s = .next u ∧ u.ops = s.ops ++ [p] ∧ p.kind = .bind obj b len ∧ p.pid = s.pidOf s.cur ∧ u.me.blocked = some p.id ∧ u.procs = s.procs))
    ∧ (ready (.unbind d) s = true → s.bound (s.pidOf s.cur) = [] → ∀ b, s.address (s.getG d.toNat) = some (b, none) →
        ∃ u : State, ∃ p : Op, exec (.unbind d) s = .next u ∧ u.ops = s.ops ++ [p] ∧ p.kind = .unbind b (s.getG (d.toNat + 1)).toNat ∧ u.me.blocked = some p.id ∧ u.procs = s.procs)
    ∧ (∀ id o x b l, s.op? id = some o → o.id = id → o.kind = .bind x b l → l ≠ 0 →
        exec (.bindCompletion id) s = .next ((s.modProc o.pid (fun p => { p with bindings := p.bindings ++ [⟨b, l, x⟩] })).unblock o))
    ∧ (∀ id o b l, s.op? id = some o → o.id = id → o.kind = .unbind b l →
        ∃ t : State, exec (.bindCompletion id) s = .next (t.unblock o) ∧ t = s.modProc o.pid (fun _ => t.proc o.pid) ∧ ∀ r, r ∈ (t.proc o.pid).bindings ↔ r ∈ (s.proc o.pid).bindings ∧ ¬ (b ≤ r.base ∧ r.base + r.len ≤ b + l))

/-- ACQ, REL, the accesses an acquire holds, BIND and UNBIND: `Claims.AcquireAndRelease`, `Claims.HeldAccesses` and `Claims.BindingChanges`. -/
def Obligations.OrderingAndBindings : Prop := Claims.AcquireAndRelease ∧ Claims.HeldAccesses ∧ Claims.BindingChanges

/-- R296, R298, R299, R173: a miss at a station begins a walk, which another miss to its page shares; a walk that ends at a legal leaf fills the station's cache; map page
enters a leaf and answers 0; unmap page takes a leaf away with every station's entries for it and answers 0. Unmap page
waits for every walk under way, and by the model's choice drops leaf and entries in the step of its answer (log 54); the page and the tables are those
of log 9, and the order of the statuses is that of log 20. -/
def Sys2Proof.Claims.StationsAndPages : Prop :=
  ∀ (s : State),
    (∀ pid (va : Reg64), let a := va.toNat % 2 ^ 48
      0x40000000 ≤ a → va.toNat / 2 ^ 48 % 2 ^ 16 = 0 → s.cached pid a = none → (s.station (a / 65536 % 256 / 8)).walks = [] →
        exec (.stationTranslation pid va) s = .next (s.modStation (a / 65536 % 256 / 8) (fun t => { t with walks := [⟨pid, a, s.nextId⟩] })))
    ∧ (∀ pid (va : Reg64) w, let a := va.toNat % 2 ^ 48
      0x40000000 ≤ a → va.toNat / 2 ^ 48 % 2 ^ 16 = 0 → w ∈ (s.station (a / 65536 % 256 / 8)).walks → w.pid = pid → (∀ l e, s.walk pid w.va = some (l, e) → w.va / pageSize l = a / pageSize l) → (s.walk pid w.va = none → w.va / 65536 = a / 65536) →
        exec (.stationTranslation pid va) s = .next s)
    ∧ (∀ n w, (s.station n).walks = [w] → s.softErrors = [] → let v := (s.modStation n (fun t => { t with walks := [] })).foldWalk w.pid w.va
        ((∀ q ∈ s.nibs, q.2.sums = []) → v.walk w.pid w.va = s.walk w.pid w.va ∧ v.ext = s.ext)
        ∧ (∀ l e, v.walk w.pid w.va = some (l, e) → leafOk l e w.va = true → (s.station n).off = false →
          ∃ t : State, exec (.walkCompletion n 0) s = .next t ∧ (t.station n).walks = [] ∧ (t.station n).cache.head? = some ⟨w.pid, w.va / pageSize l, l, e⟩)
        ∧ (v.walk w.pid w.va = none → ∃ t : State, exec (.walkCompletion n 0) s = .next t ∧ (t.station n).walks = [] ∧ (t.station n).cache = (s.station n).cache))
    ∧ (∀ id o va size, s.op? id = some o → o.id = id → o.kind = .service 1 [va, size] → 2 < size.toNat → exec (.mapPage id) s = .next (s.setOp { o with kind := .value 4 [] }))
    ∧ (∀ id o va size r p t u a, s.op? id = some o → o.id = id → o.kind = .service 1 [va, size] → size.toNat ≤ 2 → va.toNat % pageSize size.toNat = 0 → 0x40000000 ≤ va.toNat → va.toNat < 2 ^ 48 →
        let v := s.foldWalk o.pid va.toNat
        (s.proc o.pid).ranges.find? (fun r => r.base ≤ va.toNat && va.toNat + pageSize size.toNat ≤ r.base + r.size) = some r → v.walk o.pid va.toNat = none → v.pageFor size.toNat va.toNat = some p →
        (v.proc o.pid).root = some t → v.tableFor size.toNat va.toNat 4 t = some (u, a) →
        ∃ w : State, exec (.mapPage id) s = .next w ∧ w.ext = Mem.write u.ext a 8 (p * 65536 + r.attrs.getD 6 + 1) ∧ w.op? id = (u.op? id).map (fun _ => { o with kind := .value 0 [] }))
    ∧ (∀ id o va t l a, s.op? id = some o → o.id = id → o.kind = .service 2 [va] → va.toNat < 2 ^ 48 → (s.proc o.pid).root = some t → let v := s.foldWalk o.pid va.toNat
        leafAddr v.ext 4 t va.toNat = some (l, a) →
        ((∀ q ∈ s.stations, q.2.walks = []) →
          ∃ u : State, exec (.unmapPage id) s = .next u ∧ u.ext = Mem.write v.ext a 8 0 ∧ u.op? id = some { o with kind := .value 0 [] }
            ∧ u.stations = s.stations.map (fun q => (q.1, { q.2 with cache := q.2.cache.filter (fun e => !(e.pid == o.pid && decide (va.toNat / 65536 * 65536 / pageSize e.level = e.vpn))) })))
        ∧ ((∃ q ∈ s.stations, q.2.walks ≠ []) → exec (.unmapPage id) s = .next v))
    ∧ (∀ id o va, s.op? id = some o → o.id = id → o.kind = .service 2 [va] → ((s.proc o.pid).root = none ∨ 2 ^ 48 ≤ va.toNat) → exec (.unmapPage id) s = .next (s.setOp { o with kind := .value 1 [] }))

/-- R298, R299: a control core's txinv write drops the entries its scope names from every station and its core waits; once no earlier walk
is under way the write completes. -/
def Sys2Proof.Claims.StationInvalidation : Prop :=
  ∀ (s : State), isControl s.cur = true → s.me.issues = true →
    (∀ scope i pid vpn, ((scope = 0 ∧ i = Instr.txinvPage pid vpn) ∨ (scope = 1 ∧ i = Instr.txinvProcess pid) ∨ (scope = 2 ∧ i = Instr.txinvAll)) →
      ∃ t : State, ∃ p : Op, exec i s = .next t ∧ t.ops = s.ops ++ [p] ∧ p.id = s.nextId ∧ t.me.blocked = some p.id
        ∧ t.stations = s.stations.map (fun q => (q.1, { q.2 with cache := q.2.cache.filter (fun e => !((decide (scope = 0) && e.pid == pid && decide (vpn.toNat * 65536 / pageSize e.level = e.vpn)) || (decide (scope = 1) && e.pid == pid) || decide (scope = 2))) })))
    ∧ (∀ id o scope pid vpn, s.op? id = some o → o.id = id → o.kind = .txinv scope pid vpn → (∃ q ∈ s.stations, ∃ w ∈ q.2.walks, w.born ≤ id) → exec (.txinvCompletion id) s = .next s)
    ∧ (∀ id o scope pid vpn, s.op? id = some o → o.id = id → o.kind = .txinv scope pid vpn → (∀ q ∈ s.stations, ∀ w ∈ q.2.walks, id < w.born) →
        ∃ t : State, exec (.txinvCompletion id) s = .next t ∧ t.op? id = none ∧ (∀ q ∈ t.stations, ∀ e ∈ q.2.cache, txinvHits scope pid vpn e = false) ∧ ((s.slot o.owner).blocked = some id → (t.slot o.owner).blocked = none))

/-- Stations, page services and invalidation: `Claims.StationsAndPages` and `Claims.StationInvalidation`. -/
def Obligations.Translation : Prop := Claims.StationsAndPages ∧ Claims.StationInvalidation

/-- R264, R266, R267, R269: PHNEW enters a phaser with a number no phaser has, its creator as the one member in the mode named, and
takes one from the reservation (none left: 2^63); PHJOIN enters the task with the current phase; PHLEAVE takes it out once its counter
is 0, and the phaser remembers for its phase that a signaller has left; PHFREE by the creator, with no other member, frees the phaser and gives it back to the reservation. -/
def Sys2Proof.Claims.PhaserMembership : Prop :=
  ∀ (s : State) (d : BitVec 6) (m : BitVec 2),
    let cl := clusterOf s.cur
    let me := fun (since wp : Nat) => (⟨s.me.uid, m.toNat % 2 == 1, decide (2 ≤ m.toNat), false, wp, since⟩ : Member)
    (ready (.phnew d m) s = true → s.me.phLeft ≠ 0 → (∃ n < 512, Tab.get? (s.cluster cl).phasers n = none) →
      ∃ n < 512, ∃ t : State, Tab.get? (s.cluster cl).phasers n = none ∧ exec (.phnew d m) s = .next ((t.putG d.toNat (r64 (cl * 512 + n))).commit (.phnew d m))
        ∧ (∃ q, Tab.get? (t.cluster cl).phasers n = some q ∧ q.phase = 0 ∧ q.creator = s.me.uid ∧ q.members = [me s.nextId 0] ∧ q.group = none)
        ∧ t.me.phLeft = s.me.phLeft - 1 ∧ t.me.win = s.me.win ∧ (∀ k, k ≠ n → Tab.get? (t.cluster cl).phasers k = Tab.get? (s.cluster cl).phasers k) ∧ t.spm = s.spm)
    ∧ (ready (.phnew d m) s = true → s.me.phLeft = 0 → exec (.phnew d m) s = .next ((s.putG d.toNat (r64 (2 ^ 63))).commit (.phnew d m)))
    ∧ (∀ id p, s.named (s.getG d.toNat) = .ok (id, p) →
        (ready (.phjoin d m) s = true → p.member? s.me.uid = none → p.members.length < 1024 →
          exec (.phjoin d m) s = .next (({ (s.setPhaser id { p with members := p.members ++ [me s.nextId p.phase] }) with nextId := s.nextId + 1 } : State).commit (.phjoin d m)))
        ∧ (∀ q, p.member? s.me.uid = some q → ready (.phleave d) s = true → s.me.acks = 0 →
            exec (.phleave d) s = .next ((s.leavePhaser id s.me.uid).commit (.phleave d))
            ∧ ((q.sigMode = false ∨ q.sig = true) → p.orphan = false → s.leavePhaser id s.me.uid = s.setPhaser id { p with members := p.members.filter (fun r => r.uid != s.me.uid), counted := p.counted || q.sigMode }))
        ∧ (∀ q, p.member? s.me.uid = some q → ready (.phleave d) s = true → s.me.acks ≠ 0 → exec (.phleave d) s = .next (s.mark .release))
        ∧ (p.creator = s.me.uid → (∀ r ∈ p.members, r.uid = s.me.uid) → ready (.phfree d) s = true →
            ∃ t : State, exec (.phfree d) s = .next (t.commit (.phfree d)) ∧ t = (s.erasePhaser id).modMe (fun x => { x with phLeft := x.phLeft + 1 })))

/-- R268: PHSIG marks its task's signal, and the signal of the last one to signal completes the phase: the phase number rises by one and
every signal clears; PHWAIT passes a completed phase and raises the task's wait phase, or waits; PHNEXT does both. Each release among
them first waits for the slot's counter. -/
def Sys2Proof.Claims.PhaserSignalsAndWaits : Prop :=
  ∀ (s : State) (d : BitVec 6) (id : Nat) (p : Phaser) (m : Member), s.named (s.getG d.toNat) = .ok (id, p) → s.phaser? id = some p → p.member? s.me.uid = some m → p.group = none →
    (∀ r ∈ p.members, r.uid < 2 ^ 64) →
    let mine := p.modMember s.me.uid (fun r => { r with sig := true })
    let late := ∃ r ∈ mine.members, r.sigMode = true ∧ r.sig = false
    let next : Phaser := { p with phase := p.phase + 1, counted := false, members := p.members.map (fun r => { r with sig := false }) }
    let passed := fun (q : Phaser) => q.modMember s.me.uid (fun r => { r with wp := r.wp + 1 })
    (ready (.phsig d) s = true → m.sigMode = true → m.sig = false → s.me.acks = 0 →
      (late → exec (.phsig d) s = .next ((s.setPhaser id mine).commit (.phsig d)))
      ∧ (¬ late → ∃ t : State, exec (.phsig d) s = .next (t.commit (.phsig d)) ∧ t.phaser? id = some next ∧ t.harts = s.harts ∧ t.spm = s.spm))
    ∧ (ready (.phsig d) s = true → m.sigMode = true → m.sig = false → s.me.acks ≠ 0 → exec (.phsig d) s = .next (s.mark .release))
    ∧ (ready (.phnext d) s = true → m.sigMode = true → m.waitMode = true → m.sig = false → s.me.midway = none → s.me.acks ≠ 0 → exec (.phnext d) s = .next (s.mark .release))
    ∧ (ready (.phsig d) s = true → m.sigMode = false → exec (.phsig d) s = .next (s.trapMe (.phsig d) 0x01 (s.getG d.toNat)))
    ∧ (ready (.phwait d) s = true → m.waitMode = true →
      (m.wp < p.phase → exec (.phwait d) s = .next ((s.setPhaser id (passed p)).commit (.phwait d)))
      ∧ (p.phase ≤ m.wp → (∃ r ∈ p.members, r.sigMode = true) → exec (.phwait d) s = .next (s.mark .phaser)))
    ∧ (ready (.phnext d) s = true → m.sigMode = true → m.waitMode = true → m.sig = false → s.me.midway = none → s.me.acks = 0 → m.wp = p.phase →
      (¬ late → ∃ t : State, exec (.phnext d) s = .next (t.commit (.phnext d)) ∧ t.phaser? id = some (passed next) ∧ t.spm = s.spm)
      ∧ (late → ∃ t : State, exec (.phnext d) s = .next t ∧ t.phaser? id = some mine ∧ t.me.pc = s.me.pc ∧ t.me.midway = some (s.me.pc, 0)))

/-- Phaser membership, signals and waits: `Claims.PhaserMembership` and `Claims.PhaserSignalsAndWaits`. -/
def Obligations.Phasers : Prop := Claims.PhaserMembership ∧ Claims.PhaserSignalsAndWaits

/-- R149, R150: QSEND sends one value to a task slot of its cluster and the slot goes on; on arrival the value joins q3 with status 0, or
is discarded with 1 (queue full), 2 (slot empty) or 3 (core out of service, and by log 73, the model's choice, with its cluster, and by log 8, the model's choice, for a control core, which has no cluster and so no core of one); QPEEK reads a port's count and head and dequeues nothing. -/
def Sys2Proof.Claims.QueueSendAndPeek : Prop :=
  ∀ (s : State) (f t p : BitVec 6),
    (ready (.qsend f t) s = true → Claims.buffered s →
      ∃ u : State, ∃ o : Op, exec (.qsend f t) s = .next (u.commit (.qsend f t)) ∧ u.ops = s.ops ++ [o] ∧ o.id = s.nextId ∧ o.owner = s.cur
        ∧ o.kind = .qsend ((s.getG f.toNat).toNat % 2 ^ 8) ((s.getG f.toNat).toNat / 2 ^ 8 % 2 ^ 2) (s.getG (f.toNat + 1)) ∧ o.off = (if t = 0 then none else some (s.me.gBase + 8 * t.toNat)) ∧ u.me.win = s.me.win)
    ∧ (ready (.qpeek f p) s = true → (56 ≤ p.toNat ∧ p.toNat < 60) →
        let q := if p = 56 then s.me.q0 else if p = 57 then s.me.q1 else if p = 58 then s.me.q2 else s.me.q3
        exec (.qpeek f p) s = .next (((s.putG f.toNat (r64 q.length)).putG (f.toNat + 1) (q.headD 0)).commit (.qpeek f p)))
    ∧ (ready (.qpeek f 63) s = true → exec (.qpeek f 63) s = .next (((s.putG f.toNat (r64 s.me.inbox.length)).putG (f.toNat + 1) ((s.me.inbox.headD []).headD 0)).commit (.qpeek f 63)))
    ∧ (∀ id o c q v, s.op? id = some o → o.kind = .qsend c q v → s.earlierMsg o = false →
        let h := hartOf (o.cluster * 256 + c) q
        let done := fun (s' : State) (st : Nat) => exec (.qsendDelivery id) s = .next ((s'.resolve o (r64 st) []).dropOp id)
        let out := decide (16384 ≤ o.cluster * 256 + c) || s.coresOut.contains (o.cluster * 256 + c) || s.clustersOut.contains ((o.cluster * 256 + c) / 256)
        (out = true → done s 3)
        ∧ (out = false → (s.slot h).live = false → done s 2)
        ∧ (out = false → (s.slot h).live = true → 4 ≤ (s.slot h).q3.length → done s 1)
        ∧ (out = false → (s.slot h).live = true → (s.slot h).q3.length < 4 → done (s.modSlot h (fun x => { x with q3 := x.q3 ++ [v] })) 0))

/-- R151, R152, R415: MSEND and MSENDW send a header, which names the sender, and their data words; on arrival the message joins the
inbox, of 16 messages (R67), with status 0, or meets an absent slot (2), a core or part that nothing reaches, a core out of service or another
process's (3), a part of the domain that cannot be reached (0x0F, after rc.timeout, R401), or an inbox that is full, has messages held for it (R415) or is of a saved task: status 1 for MSEND, another attempt 256 clk
later for MSENDW; a held message enters once an entry is free. What another part answers is its own (log 10). -/
def Sys2Proof.Claims.MessagesSentAndDelivered : Prop :=
  ∀ (s : State),
    (∀ (f t n : BitVec 6) hold i, ((hold = false ∧ i = Instr.msend f t n) ∨ (hold = true ∧ i = Instr.msendw f t n)) → ready i s = true → Claims.buffered s →
      ∃ u : State, ∃ o : Op, ∃ h : Reg64, exec i s = .next (u.commit i) ∧ u.ops = s.ops ++ [o] ∧ o.id = s.nextId ∧ o.owner = s.cur
        ∧ o.kind = .msg hold ((s.getG f.toNat).toNat % 2 ^ 14) ((s.getG f.toNat).toNat / 2 ^ 16 % 2 ^ 2) ((s.getG f.toNat).toNat / 2 ^ 32 % 2 ^ 5) (h :: (List.range n.toNat).map (fun j => s.getG (f.toNat + 1 + j)))
        ∧ (s.cur < 81920 → bits h 60 4 = 1 ∧ bits h 0 16 = s.cur / 5 ∧ bits h 16 16 = s.cur % 5 ∧ bits h 32 8 = s.domIndex.toNat) ∧ u.me.win = s.me.win)
    ∧ (∀ id o hold cid q part words, s.op? id = some o → o.id = id → o.kind = .msg hold cid q part words → q < 4 →
        let h := hartOf cid q
        let own := part = s.domIndex.toNat
        let reach := s.canReach o.owner (if own then h else 2 ^ 20 + part)
        ∀ i, ((i = Instr.messageDelivery id ∧ o.stage = 0 ∧ s.earlierMsg o = false ∧ (reach = true → s.arrived o = true)) ∨ (i = Instr.msendwRetry id ∧ hold = true ∧ o.stage = 1 ∧ o.due ≤ s.clk)) →
        let done := fun (s' : State) (st : Nat) => exec i s = .next ((s'.resolve o (r64 st) []).dropOp id)
        let again := exec i s = .next (s.setOp { o with stage := 1, due := s.clk + 256 })
        let saved := ∃ v ∈ s.saved, v.cid = cid ∧ v.sl = q
        let full := if (s.slot h).live = true then 16 ≤ (s.slot h).inbox.length ∨ (s.slot h).held ≠ [] else saved
        let fits := own ∧ cid < 16384 ∧ reach = true ∧ s.coresOut.contains cid = false ∧ s.clustersOut.contains (cid / 256) = false ∧ s.holds o.pid (cid / 256) = true
        let lost := ¬ own ∧ part < s.domSize.toNat ∧ reach = false
        ((own ∨ reach = false) → ¬ lost → ¬ fits → done s 3)
        ∧ (lost → s.clk < o.due → exec i s = .next s) ∧ (lost → o.due ≤ s.clk → done s 0xF)
        ∧ (¬ own → reach = true → ∃ u : State, exec i s = .next u ∧ u.op? id = none)
        ∧ (fits → (s.slot h).live = false → ¬ saved → done s 2)
        ∧ (fits → full → hold = false → done s 1)
        ∧ (fits → full → hold = true → again)
        ∧ (fits → (s.slot h).live = true → ¬ full → done (s.modSlot h (fun x => { x with inbox := x.inbox ++ [words] })) 0))
    ∧ (∀ cid sl w rest, let h := hartOf cid sl
        sl < 5 → (s.slot h).live = true → (s.slot h).held = w :: rest → (s.slot h).inbox.length < 16 →
        exec (.heldMessageDelivery cid sl) s = .next (s.modSlot h (fun x => { x with inbox := x.inbox ++ [w], held := rest })))

/-- QSEND, QPEEK, MSEND and MSENDW with their deliveries: `Claims.QueueSendAndPeek` and `Claims.MessagesSentAndDelivered`. -/
def Obligations.QueuesAndMessages : Prop := Claims.QueueSendAndPeek ∧ Claims.MessagesSentAndDelivered

/-- R108, R109, R155: SPAWN with room in the deque leaves a child in front of it and clears sp; with a full deque it runs the child
inline: g1 to g4 hold the arguments, ln the next word, sp is set and the pc is the entry; a misaligned entry takes cause 0x02. For SPAWN ln is
g54 alone (log 23), and a child's watch flag is its launch's, its sc flag clear (log 65): the model's choices. A
core's youngest child starts in a free slot with its arguments in g1 to g4 and every other register, sp among them, 0, its parent's task
index and launch, and the srs seed of R49. -/
def Sys2Proof.Claims.SpawnedChildren : Prop :=
  ∀ (s : State) (f : BitVec 6),
    let entry := s.getG f.toNat
    let arg := fun (j : Nat) => s.getG (f.toNat + 1 + j)
    let deque := (s.core (cidOf s.cur)).deque
    (ready (.spawn f) s = true → entry.toNat % 4 ≠ 0 → exec (.spawn f) s = .next (s.trapMe (.spawn f) 0x02 entry))
    ∧ (ready (.spawn f) s = true → entry.toNat % 4 = 0 → deque.length < 16 →
        ∃ t : State, exec (.spawn f) s = .next (t.commit (.spawn f)) ∧ (t.core (cidOf s.cur)).deque = ⟨entry, [arg 0, arg 1, arg 2, arg 3], s.me.lid, s.me.tid⟩ :: deque
          ∧ t.me.xstat.getLsbD 6 = false ∧ t.me.win = s.me.win ∧ t.spm = s.spm)
    ∧ (ready (.spawn f) s = true → entry.toNat % 4 = 0 → 16 ≤ deque.length → s.me.win.wf = true →
        ∃ t : State, exec (.spawn f) s = .next (t.commitJump (.spawn f) entry) ∧ (t.core (cidOf s.cur)).deque = deque ∧ t.me.xstat.getLsbD 6 = true
          ∧ t.getG 1 = arg 0 ∧ t.getG 2 = arg 1 ∧ t.getG 3 = arg 2 ∧ t.getG 4 = arg 3 ∧ t.me.getLn = s.me.pc + 4 ∧ t.spm = s.spm)
    ∧ (∀ cid d rest l p a0 a1 a2 a3, (s.core cid).deque = d :: rest → d.args = [a0, a1, a2, a3] → (s.core cid).probedAt ≠ some s.clk → s.launch? d.lid = some l → s.placeFor d.lid cid l.window 0 0 = some p →
        ∃ t : State, ∃ x : Slot, exec (.childStart cid) s = .next t ∧ (t.core cid).deque = rest ∧ t.slot (hartOf cid p.sl) = x ∧ x.live = true ∧ x.pc = d.entry ∧ x.tid = d.tid ∧ x.lid = d.lid
          ∧ x.ctok = l.token ∧ x.winSize = l.window ∧ x.srs = r64 (d.lid.toNat * 2 ^ 32 + d.tid.toNat) ^^^ 0x9E3779B97F4A7C15 ∧ x.xvec = 0 ∧ x.xstat = 0 ∧ x.fcr = 0 ∧ x.rcTimeout = 2000 ∧ x.watch = l.watch ∧ x.sc = false
          ∧ x.getG 1 = a0 ∧ x.getG 2 = a1 ∧ x.getG 3 = a2 ∧ x.getG 4 = a3 ∧ (∀ n, (n < 1 ∨ 4 < n) → x.getG n = 0) ∧ t.spm = s.spm)

/-- R110: the probe of an idle core steps its LFSR and takes the oldest half, at least one, of the children of the core it names, and does
nothing within 64 clk of its last; the core probed issues nothing after the probe in its clk, so that its own operation of that clk comes
first. -/
def Sys2Proof.Claims.StealProbes : Prop :=
  ∀ (s : State) (cid : Nat), s.coreIdle cid = true →
    let l := (s.core cid).lfsr
    let n : BitVec 16 := (l <<< 1) ||| (BitVec.ofBool (l.getLsbD 15 ^^ l.getLsbD 13 ^^ l.getLsbD 12 ^^ l.getLsbD 10)).zeroExtend 16
    let v := cid / 256 * 256 + n.toNat % 256
    let d := (s.core v).deque
    (s.clk < (s.core cid).probeDue → exec (.stealProbe cid) s = .next s)
    ∧ ((s.core cid).probeDue ≤ s.clk → v ≠ cid → s.coreIn v = true → d ≠ [] →
        ∃ t : State, exec (.stealProbe cid) s = .next t ∧ (t.core cid).lfsr = n ∧ (t.core cid).probeDue = s.clk + 64
          ∧ (t.core v).probedAt = some s.clk ∧ (t.core v).deque = d.take (d.length - max 1 (d.length / 2)) ∧ (t.core cid).deque = d.drop (d.length - max 1 (d.length / 2)))
    ∧ ((s.core cid).probeDue ≤ s.clk → (v = cid ∨ s.coreIn v = false ∨ d = []) →
        exec (.stealProbe cid) s = .next ((s.modCore cid (fun c => { c with lfsr := n, probeDue := s.clk + 64 })).modCore v (fun c => { c with probedAt := some s.clk })))
    ∧ (∀ c, (s.core c).probedAt = some s.clk → s.issueGone c = true)

/-- SPAWN, the start of children and steal probes: `Claims.SpawnedChildren` and `Claims.StealProbes`. -/
def Obligations.SpawnAndSteal : Prop := Claims.SpawnedChildren ∧ Claims.StealProbes

/-- R111, R112, R156: FORK of no iterations goes to its continuation with g1 = g2 = lo and g3 the continuation; otherwise recruitment is
asked for and g1 to g3 are pending; recruitment that finds no free core or cell gives the forker the whole range with g3 the
continuation, and one that places r recruits makes a join cell of r + 1, gives the forker the first of r + 1 parts, with its bounds in g1 and
g2 and the cell in g3, and starts recruit i at the word after the FORK with the bounds of part i + 1, the cell, and the forker's g4 to g8; that a recruit's sc flag is
clear is the model's choice (log 65). -/
def Sys2Proof.Claims.ForkAndRecruitment : Prop :=
  ∀ (s : State) (f : BitVec 6),
    let lo := s.getG f.toNat
    let t := s.getG (f.toNat + 1)
    let g := s.getG (f.toNat + 2)
    let c := s.getG (f.toNat + 3)
    (ready (.fork f) s = true → c.toNat % 4 ≠ 0 → exec (.fork f) s = .next (s.trapMe (.fork f) 0x02 c))
    ∧ (ready (.fork f) s = true → c.toNat % 4 = 0 → t = 0 → exec (.fork f) s = .next ((((s.putG 1 lo).putG 2 lo).putG 3 c).commitJump (.fork f) c))
    ∧ (ready (.fork f) s = true → c.toNat % 4 = 0 → t ≠ 0 →
        ∃ u : State, ∃ o : Op, exec (.fork f) s = .next (u.commit (.fork f)) ∧ u.ops = s.ops ++ [o] ∧ o.id = s.nextId ∧ o.owner = s.cur
          ∧ o.kind = .fork lo t (if g = 0 then 1 else g) c [s.getG 4, s.getG 5, s.getG 6, s.getG 7, s.getG 8]
          ∧ u.me.pend = s.me.pend ++ [(s.me.gBase + 8, o.id), (s.me.gBase + 16, o.id), (s.me.gBase + 24, o.id)] ∧ u.me.win = s.me.win)
    ∧ (∀ id o lo t g c regs off, s.op? id = some o → o.id = id → o.kind = .fork lo t g c regs → o.off = some off → (s.slot o.owner).live = true → (s.slot o.owner).uid = o.task → (s.slot o.owner).win.wf = true →
        let cell := freeNumber (s.cluster o.cluster).cells 128
        let window := (s.slot o.owner).winSize
        let plan := State.plan o.lid window (recruitOrder (cidOf o.owner)) (min ((t.toNat + g.toNat - 1) / g.toNat - 1) 63) s
        let r := plan.length
        let bound := fun (k : Nat) => lo + r64 (k * (t.toNat / (r + 1)) + min k (t.toNat % (r + 1)))
        let taken := fun (x : Slot) (a b : Reg64) => { x with win := Mem.write (Mem.write (Mem.write x.win off 8 lo.toNat) (off + 8) 8 a.toNat) (off + 16) 8 b.toNat, pend := x.pend.filter (fun q => q.2 != id), bad := x.bad.filter (fun e => decide (e + 4 ≤ off) || decide (off + 24 ≤ e)) }
        ((cell = none ∨ r = 0) → exec (.forkRecruitment id) s = .next ((s.modSlot o.owner (fun x => taken x (lo + t) c)).dropOp id))
        ∧ (∀ n, cell = some n → r ≠ 0 → regs.length = 5 → ∃ u : State, exec (.forkRecruitment id) s = .next u ∧ Tab.get? (u.cluster o.cluster).cells n = some ⟨r + 1, o.lid, c⟩ ∧ u.op? id = none ∧ u.spm = s.spm
            ∧ u.slot o.owner = taken (s.slot o.owner) (bound 1) (r64 (2 ^ 63 + n))
            ∧ ∀ i (hi : i < r), let h := hartOf plan[i].1 plan[i].2.sl
              let x := u.slot h
              (s.slot h).live = false ∧ x.live = true ∧ x.pc = o.pc + 4 ∧ x.tid = o.tid ∧ x.lid = o.lid ∧ x.winSize = window ∧ x.winOff = plan[i].2.win ∧ x.sc = false
              ∧ x.getG 1 = bound (i + 1) ∧ x.getG 2 = bound (i + 2) ∧ x.getG 3 = r64 (2 ^ 63 + n) ∧ (∀ j < 5, x.getG (4 + j) = regs.getD j 0)))

/-- R113, R157: JOINC to an address goes there; at a join cell of its launch the last part frees the cell and goes to the continuation, and
every other part lowers the count and retires, by the model's choice (log 24) once everything its task issued has completed. -/
def Sys2Proof.Claims.JoinCompletion : Prop :=
  ∀ (s : State) (f : BitVec 6), ready (.joinc f) s = true →
    let v := s.getG f.toNat
    let cl := clusterOf s.cur
    (v.getLsbD 63 = false → v.toNat % 4 = 0 → exec (.joinc f) s = .next (s.commitJump (.joinc f) v))
    ∧ (v.getLsbD 63 = false → v.toNat % 4 ≠ 0 → exec (.joinc f) s = .next (s.trapMe (.joinc f) 0x02 v))
    ∧ (v.getLsbD 63 = true → Tab.get? (s.cluster cl).cells (v.toNat % 128) = none → exec (.joinc f) s = .next (s.trapMe (.joinc f) 0x01 v))
    ∧ (∀ c, v.getLsbD 63 = true → v.toNat % 2 ^ 63 < 128 → Tab.get? (s.cluster cl).cells (v.toNat % 128) = some c → c.lid = s.me.lid →
        (s.drained s.cur none = false → 1 < c.count → exec (.joinc f) s = .next (s.mark .drain))
        ∧ (c.count = 1 → exec (.joinc f) s = .next ((s.modCluster cl (fun x => { x with cells := Tab.erase x.cells (v.toNat % 128) })).commitJump (.joinc f) c.cont))
        ∧ (s.drained s.cur none = true → 1 < c.count → exec (.joinc f) s = .next ((s.modCluster cl (fun x => { x with cells := Tab.set x.cells (v.toNat % 128) { c with count := c.count - 1 } })).modMe (Slot.beginRetire s.clk))))

/-- FORK, recruitment and JOINC: `Claims.ForkAndRecruitment` and `Claims.JoinCompletion`. -/
def Obligations.ForkAndJoin : Prop := Claims.ForkAndRecruitment ∧ Claims.JoinCompletion

/-- R92, R93, R94, R158: LAUNCH sends the eight words of its record and its result is pending; a record with a fault of R93 is rejected
with the fault's code, the first in R93's order, and launch id 0, which in the register is the model's choice (log 80), and one without is held under a new launch id of its die. -/
def Sys2Proof.Claims.LaunchRecords : Prop :=
  ∀ (s : State) (f t : BitVec 6),
    (ready (.launch f t) s = true →
      ∃ u : State, ∃ o : Op, exec (.launch f t) s = .next (u.commit (.launch f t)) ∧ u.ops = s.ops ++ [o] ∧ o.id = s.nextId ∧ o.owner = s.cur ∧ o.off = (if t = 0 then none else some (s.me.gBase + 8 * t.toNat))
        ∧ o.kind = .launch ((List.range 8).map (fun j => s.getG (f.toNat + j))) ∧ u.me.win = s.me.win ∧ u.launches = s.launches)
    ∧ (∀ o w off, s.ops = [o] → o.owner < 81920 → o.kind = .launch w → o.off = some off → let die := o.owner / 5 / 4096
        (∀ k, s.rejectCode die o.pid false w = k → k ≠ 0 → exec (.launchRecordAcceptance die) s = .next (s.setOp { o with kind := .value (r64 (k * 2 ^ 32)) [] }))
        ∧ (s.rejectCode die o.pid false w = 0 → s.launches = [] → s.tokens = [] → bits (w.getD 3 0) 0 32 ≠ 0 →
            ∃ u : State, ∃ l : Launch, exec (.launchRecordAcceptance die) s = .next u ∧ u.launches = [l] ∧ l.die = die ∧ l.lid.toNat / 2 ^ 30 = die % 4 ∧ l.entry = w.getD 0 0 ∧ l.args = w.getD 1 0 ∧ l.count = bits (w.getD 3 0) 0 32 ∧ l.next = 0 ∧ l.pid = o.pid
              ∧ u.ops = [{ o with kind := .value (l.lid.zeroExtend 64) [] }]))
    ∧ (∀ (die : Nat) (pid : BitVec 16) (firmware : Bool) (w : List Reg64),
        let word := fun (j : Nat) => (w.getD j 0).toNat
        let prio := word 5 / 2 ^ 56 % 8
        let scratch := word 5 % 2 ^ 32
        let waiting := s.launches.filter (fun l => decide (l.die = die ∧ l.prio = prio ∧ l.next < l.count))
        let wrong := fun (k : Nat) =>
          (k = 1 ∧ (word 7 ≠ 0 ∨ word 6 / 16 ≠ 0 ∨ word 5 / 2 ^ 59 ≠ 0 ∨ word 5 / 2 ^ 50 % 64 ≠ 0)) ∨ (k = 2 ∧ prio = 7 ∧ firmware = false)
          ∨ (k = 3 ∧ (scratch % 256 ≠ 0 ∨ 65536 < scratch ∨ 16 < word 5 / 2 ^ 32 % 2 ^ 16)) ∨ (k = 4 ∧ (word 0 % 4 ≠ 0 ∨ word 0 / 2 ^ 48 ≠ 0))
          ∨ (k = 5 ∧ word 3 % 2 ^ 32 ≠ 0 ∧ ∀ c < 64, (w.getD 2 0).getLsbD c = true → s.holds pid c = true → c ∈ s.clustersOut)
          ∨ (k = 6 ∧ (w.getD 6 0).getLsbD 1 = true) ∨ (k = 7 ∧ 4096 ≤ waiting.length)
        (∀ k, wrong k → (∀ j < k, ¬ wrong j) → s.rejectCode die pid firmware w = k) ∧ ((∀ k, ¬ wrong k) → s.rejectCode die pid firmware w = 0))

/-- R96, R97, R100, R102: the dispatcher of a cluster places the next task of the one launch that has one there on the first core that
fits, with its argument, index and count in g1 to g3, the end of its reservation in sp where
its window holds one, the words of the reservation empty (R235), and the start state of R102; a launch gains one priority step for every 100 µs it
has been eligible, up to 6, and reserves once its next task has waited 100 µs: no task of a launch of lower priority is placed in its clusters then,
and none where a saved task of at least its priority could resume (R120). -/
def Sys2Proof.Claims.TaskPlacementAndPriority : Prop :=
  ∀ (s : State),
    (∀ cl l c p, cl < 64 → s.launches = [l] → l.clusters.getLsbD cl = true → let a := s.reserve (l.age s.clk)
      let s' : State := { s with launches := [a] }
      (∀ o ∈ s.ops, ∀ q b v, o.kind ≠ .fullEmpty q b v) → s'.unplaced a = true → s'.firstFit a = some (c, p) → c / 256 = cl → s'.imageFault cl a = none → (∃ u, s'.loadImage cl a = some u) →
      ∃ t : State, ∃ x : Slot, exec (.taskPlacement cl) s = .next t ∧ t.slot (hartOf c p.sl) = x ∧ x.live = true ∧ x.pc = a.entry ∧ x.tid = BitVec.ofNat 32 a.next ∧ x.lid = a.lid ∧ x.ctok = a.token
        ∧ x.winSize = a.window ∧ x.winOff = p.win ∧ x.scratchOff = p.scratch ∧ x.scratch = a.scratch ∧ x.phLeft = a.phasers ∧ x.gBase = 0 ∧ x.kBase = 448 ∧ x.vBase = 512 ∧ x.link = 0 ∧ x.fcr = 0 ∧ x.xvec = 0 ∧ x.grant = 0
        ∧ x.srs = r64 (a.lid.toNat * 2 ^ 32 + (BitVec.ofNat 32 a.next).toNat) ^^^ 0x9E3779B97F4A7C15
        ∧ x.getG 1 = a.args ∧ x.getG 2 = r64 a.next ∧ x.getG 3 = r64 a.count ∧ (448 ≤ a.window → x.getG 55 = r64 (c * 65536 + p.scratch + a.scratch)) ∧ (∀ n, 3 < n → n ≠ 55 → x.getG n = 0) ∧ x.watch = a.watch ∧ x.sc = a.sc
        ∧ (∀ b, t.full.contains b = (s.full.contains b && !(decide (c * 65536 + p.scratch ≤ b) && decide (b < c * 65536 + p.scratch + a.scratch))))
        ∧ ∃ m, t.launches = [m] ∧ m.next = a.next + 1 ∧ m.ran = a.ran + 1)
    ∧ (∀ l e, s.launches = [l] → l.eligible = some e → l.next < l.count →
        exec (.priorityAging l.lid.toNat) s = .next { s with launches := [{ l with aged := (s.clk - e) / 180000 }] })
    ∧ (∀ l, s.launches = [l] → s.unplaced l = true → 180000 ≤ s.clk - l.waitFrom → exec (.launchReserving l.lid.toNat) s = .next { s with launches := [{ l with reserving := true }] })
    ∧ (∀ (l : Launch) (clk e : Nat), l.prio < 7 → l.eligible = some e → l.next < l.count → l.eff clk = min 6 (l.prio + (clk - e) / 180000))
    ∧ (∀ (l : Launch) (clk : Nat), l.prio < 7 → l.eligible = none → l.eff clk = min 6 l.prio) ∧ (∀ (l : Launch) (clk : Nat), l.prio = 7 → l.eff clk = 7)
    ∧ (∀ lid cid window scratch phasers, (∃ r ∈ s.launches, r.reserving = true ∧ s.unplaced r = true ∧ r.clusters.getLsbD (cid / 256) = true ∧ s.effOf lid < r.eff s.clk) → s.placeFor lid cid window scratch phasers = none)
    ∧ (∀ lid cid window scratch phasers, (∃ v ∈ s.saved, v.cid = cid ∧ s.canResume v = true ∧ s.effOf lid ≤ s.effOf v.slot.lid) → s.placeFor lid cid window scratch phasers = none)

/-- Launch records, placement of tasks and priority: `Claims.LaunchRecords` and `Claims.TaskPlacementAndPriority`. -/
def Obligations.LaunchesAndPlacement : Prop := Claims.LaunchRecords ∧ Claims.TaskPlacementAndPriority

/-- R118, R119, R120, R287: a retiring task whose operations have all completed leaves its slot; a pre-emption request, which only a
launch of higher priority with a task to place (never against one of priority 7) or a descheduled process makes, marks its slot, after a
status trap that was due (R282); a drained slot is saved with a lane grant of 0 and empty, and a saved task comes back to its slot when it is free and its window fits. -/
def Sys2Proof.Claims.RetirementAndPreemption : Prop :=
  ∀ (s : State) (cid sl : Nat), sl < 4 → let h := hartOf cid sl
    let x := s.slot h
    x.live = true →
    (x.retiring = true → s.withdrawn h = none → s.drained h none = true → ∃ t : State, exec (.taskRetirement cid sl) s = .next ((t.endTask cid x.uid x).pokeGroups).settle ∧ t = s.vacate h ∧ t.slot h = { callId := x.callId })
    ∧ (x.retiring = true → s.withdrawn h = none → s.drained h none = false → exec (.taskRetirement cid sl) s = .next s)
    ∧ (x.retiring = false → x.preempt = false → x.edge = false → s.mayPreempt h = true → s.takesStatus h = false → exec (.preemptionRequest cid sl) s = .next (s.modSlot h (fun y => { y with preempt := true, drainFrom := s.clk })))
    ∧ (x.retiring = false → x.preempt = false → s.mayPreempt h = true → s.takesStatus h = true → x.xvec ≠ 0 → (∀ q ∈ x.statusQ, q.1 ≠ 9) → ∃ t : State, exec (.preemptionRequest cid sl) s = .next t ∧ (t.slot h).pc = x.xvec ∧ (t.slot h).xpc = x.pc ∧ (t.slot h).preempt = true)
    ∧ (s.mayPreempt h = false → exec (.preemptionRequest cid sl) s = .next s)
    ∧ (s.mayPreempt h = true ↔ x.pid ∈ s.descheduled ∨ ((∃ l ∈ s.launches, s.unplaced l = true ∧ l.clusters.getLsbD (clusterOf h) = true ∧ s.effOf x.lid < l.eff s.clk) ∧ ∀ l, s.launch? x.lid = some l → l.prio ≠ 7))
    ∧ (x.preempt = true → x.retiring = false → x.edge = false → s.ops = [] → x.acks = 0 → x.blocked = none → s.taskDead x = false → (s.panel (panelOf h)).committed = none →
        ∃ t : State, exec (.slotStateSave cid sl) s = .next t ∧ (t.slot h).live = false ∧ ∃ v, t.saved = s.saved ++ [v] ∧ v.cid = cid ∧ v.sl = sl ∧ v.slot.win = x.win ∧ v.slot.pc = x.pc ∧ v.slot.grant = 0
          ∧ v.slot.request = x.request ∧ v.slot.loops = x.loops ∧ v.slot.xstat = x.xstat ∧ v.slot.fcr = x.fcr ∧ v.slot.srs = x.srs ∧ v.slot.inbox = x.inbox ∧ v.slot.preempt = false)

/-- R120, R287: the return of a saved task whose slot and window are free: everything of its slot comes back but the
slot's own next call id (R329), its lanes are negotiated
again, in their order within the clk (R168), and outside an RPT frame it goes on where it was. -/
def Sys2Proof.Claims.ResumptionOfSavedTask : Prop :=
  ∀ (s : State) (v : Saved) (w : Nat), s.saved = [v] → s.canResume v = true → s.outranked v = false → s.freeWindow v.cid v.slot.winSize = some w → (∀ r ∈ (s.panel (v.cid / 8)).reneg, r.1 ≠ s.clk ∨ r.2 ≤ 4 * (v.cid % 8) + v.sl) → v.slot.rptOn = false → v.sl < 4 → v.cid < 16384 →
    ∃ t : State, exec (.resumption 0) s = .next t ∧ t.saved = [] ∧ t.slot (hartOf v.cid v.sl) = { v.slot with winOff := w, callId := (s.slot (hartOf v.cid v.sl)).callId, grant := (t.slot (hartOf v.cid v.sl)).grant }
      ∧ (t.slot (hartOf v.cid v.sl)).grant ≤ v.slot.request ∧ t.spm = s.spm

/-- Retirement, pre-emption and the return of a saved task: `Claims.RetirementAndPreemption` and `Claims.ResumptionOfSavedTask`. -/
def Obligations.RetirementAndPreemption : Prop := Claims.RetirementAndPreemption ∧ Claims.ResumptionOfSavedTask

/-- R122, R124, R18, R238, R412: a cancelled token joins the cancelled ones (token 0 never does); a slot that has waited past the watchdog
period, for what its instruction needs or to drain for its retirement or pre-emption (R106), is reported once; an assigned cluster belongs to its process with zeroed scratchpads, table, operand and accumulator memories;
a released one belongs to none, and with its last cluster a process loses its bindings (R263). -/
def Obligations.CancellationAndClusters : Prop :=
  ∀ (s : State),
    exec (.tokenCancellation 0) s = .next s
    ∧ (∀ t : Word, t ≠ 0 → s.saved = [] → s.launches = [] → s.tokens.contains t = false → exec (.tokenCancellation t) s = .next { s with tokens := s.tokens ++ [t] })
    ∧ (∀ cid sl w t, sl < 5 → let x := s.slot (hartOf cid sl)
        (x.waitsIn = if x.retiring = true ∨ x.preempt = true then some (.drain, x.drainFrom) else x.waiting) ∧ (x.live = true → x.waitsIn = some (w, t) → s.watchdogPeriod < s.clk - t → s.watchdog.contains (cid, sl, x.lid, w, t) = false →
        ∃ u : State, exec (.watchdogReport cid sl) s = .next u ∧ u.watchdog = s.watchdog ++ [(cid, sl, x.lid, w, t)] ∧ u.outbox.length = s.outbox.length + 1 ∧ u.harts = s.harts
          ∧ exec (.watchdogReport cid sl) u = .next u))
    ∧ (∀ cl pid, cl < 64 → (s.cluster cl).pid = none → s.clustersOut.contains cl = false →
        ∃ t : State, exec (.clusterAssignment cl pid) s = .next t ∧ (t.cluster cl).pid = some pid ∧ (t.cluster cl).phasers = [] ∧ (t.cluster cl).dqs = [] ∧ (t.cluster cl).pipes = []
          ∧ (∀ a, t.spm.get a = if cl * 2 ^ 24 ≤ a ∧ a < (cl + 1) * 2 ^ 24 then 0 else s.spm.get a) ∧ (∀ a, a / 2 ^ 24 = cl → t.full.contains a = false)
          ∧ (∀ a, t.tblMem.get a = if cl * 32 * 4096 ≤ a ∧ a < (cl + 1) * 32 * 4096 then 0 else s.tblMem.get a)
          ∧ (∀ a, t.opMem.get a = if cl * 512 * 16896 ≤ a ∧ a < (cl + 1) * 512 * 16896 then 0 else s.opMem.get a)
          ∧ (∀ a, t.accMem.get a = if cl * 256 * 16384 ≤ a ∧ a < (cl + 1) * 256 * 16384 then 0 else s.accMem.get a)
          ∧ (∀ p, p / 32 = cl → t.panel p = {}) ∧ t.ext = s.ext)
    ∧ (∀ cl pid, cl < 64 → (s.cluster cl).pid = some pid → s.harts = [] → s.saved = [] → s.cores = [] → s.ops = [] → s.nibs = [] → s.forwards = [] → s.regions = [] → (s.cluster cl).comb = [] → (s.cluster cl).pipes = [] →
        ∃ t : State, exec (.clusterRelease cl) s = .next t ∧ (t.cluster cl).pid = none ∧ t.ext = s.ext ∧ t.spm = s.spm
          ∧ ((∀ c < 64, c ≠ cl → (s.cluster c).pid ≠ some pid) → (t.proc pid).bindings = []) ∧ ((∃ c < 64, c ≠ cl ∧ (s.cluster c).pid = some pid) → t.procs = s.procs))

/-- R325, R328, R329, R335: RCALL checks its entry and target, waits for the slot's counter where it is a release and for a call record,
and sends the call with its payload and the slot's next call id; its token register, when named, is pending. -/
def Sys2Proof.Claims.RemoteCallIssue : Prop :=
  ∀ (s : State) (f t n : BitVec 6) (r : BitVec 1),
    let i := Instr.rcall f t n r
    let entry := s.getG f.toNat
    let target := s.getG (f.toNat + 1)
    let inside := (s.codeAt (s.codeOf s.cur).1 (s.codeOf s.cur).2 entry).isSome = true
    let unit := match s.address target with
      | some (off, none) => if off < 0x40000000 then off / 2 ^ 16 * 5 + 4 else 81920 + off / 2 ^ 16 % 256
      | some (off, some p) => 2 ^ 20 + 32 * (if off < 0x40000000 then off / 2 ^ 16 * 5 + 4 else 81920 + off / 2 ^ 16 % 256) + p
      | none => 2 ^ 20
    ready i s = true →
    (entry.toNat % 4 ≠ 0 → exec i s = .next (s.trapMe i 0x02 entry))
    ∧ (entry.toNat % 4 = 0 → ¬ inside → exec i s = .next (s.trapMe i 0x03 entry))
    ∧ (entry.toNat % 4 = 0 → inside → s.address target = none → exec i s = .next (s.trapMe i 0x03 target))
    ∧ (entry.toNat % 4 = 0 → inside → ∀ off, s.address target = some (off, none) → off < 0x40000000 → s.holds (s.pidOf s.cur) (off / 2 ^ 24) = false → exec i s = .next (s.trapMe i 0x03 target))
    ∧ (entry.toNat % 4 = 0 → inside → s.atomicCheck target 1 = none →
      (r = 1 → s.me.acks ≠ 0 → exec i s = .next (s.mark .release))
      ∧ ((r = 1 → s.me.acks = 0) → 16 ≤ s.callsUsed s.cur → exec i s = .next (s.mark .request))
      ∧ ((r = 1 → s.me.acks = 0) → s.callsUsed s.cur < 16 → Claims.buffered s → (∀ o ∈ s.ops, ∀ a b l c u, o.kind = .rcall a b l c u → c ≠ s.me.callId) →
        ∃ u : State, ∃ o : Op, exec i s = .next (u.commit i) ∧ u.ops = s.ops ++ [o] ∧ o.id = s.nextId ∧ o.owner = s.cur ∧ o.stage = 0 ∧ o.call = true ∧ o.buf = true
          ∧ o.kind = .rcall entry target ((List.range n.toNat).map (fun j => s.getG (f.toNat + 2 + j))) s.me.callId unit
          ∧ o.off = (if t = 0 then none else some (s.me.gBase + 8 * t.toNat)) ∧ u.me.pend = (if t = 0 then s.me.pend else s.me.pend ++ [(s.me.gBase + 8 * t.toNat, o.id)])
          ∧ u.me.callId = s.me.callId + 1 ∧ u.me.win = s.me.win ∧ u.me.acks = s.me.acks ∧ u.spm = s.spm ∧ u.ext = s.ext))

/-- R332, R335, R338, R339, R340, R341, R401: a reply that has come to its caller's die arrives after those of the slot's earlier calls and
atomics to the unit, and not before them: its word 0, with the count, the status, the call id and the unit, goes to the token register and,
with the words, to the inbox; its acknowledgement frees the cache entry. When rc.timeout elapses, a call ends with status 0x0F where its unit
has left service (detail 3) or cannot be reached (1), an atomic, a RADD and a message to a part that cannot be reached with status 0x0F, and
each is timed again otherwise; a reply that has been formed and has not arrived is no reply yet (log 40). -/
def Sys2Proof.Claims.RemoteReplies : Prop :=
  ∀ (s : State) (id : Nat) (o : Op),
    s.op? id = some o → o.id = id →
    (∀ entry target pay cid u, o.kind = .rcall entry target pay cid u →
      let before := fun (p : Op) => p.id < id ∧ p.owner = o.owner ∧ p.task = o.task
        ∧ ((∃ e t w c, p.kind = .rcall e t w c u) ∨ p.stage < 2 ∧ ∃ fn n a v e q nr m r, p.kind = .atomic fn n a v e q nr m r ∧ s.callUnit a = u)
      (o.stage = 3 → ((∃ p ∈ s.ops, before p) ∨ s.arrived o = false) → exec (.replyArrival id) s = .next s)
      ∧ (o.stage = 3 → (∀ p ∈ s.ops, ¬ before p) → s.arrived o = true → (s.slot o.owner).live = true → (s.slot o.owner).uid = o.task → (s.slot o.owner).held = [] → (s.slot o.owner).inbox.length < 16 →
        o.reply.length < 16 → o.status < 256 → s.domIndex.toNat < 32 → u < 2 ^ 20 → u = s.callUnit target → o.owner < 81920 →
        ∃ t : State, ∃ w : Reg64, exec (.replyArrival id) s = .next t ∧ t.ops = s.ops.filter (fun p => p.id != id) ∧ (t.slot o.owner).inbox = (s.slot o.owner).inbox ++ [w :: o.reply]
          ∧ bits w 60 4 = 2 ∧ bits w 56 4 = o.reply.length ∧ bits w 48 8 = o.status ∧ bits w 32 16 = cid.toNat ∧ bits w 24 5 = s.domIndex.toNat ∧ bits w 16 8 = 0
          ∧ (∀ off, s.address target = some (off, none) → target.toNat / 2 ^ 53 = 0 →
              (off < 0x40000000 → bits w 29 3 = (if off / 2 ^ 16 = o.owner / 5 then 0 else 1) ∧ bits w 0 16 = off / 2 ^ 16)
              ∧ (0x40000000 ≤ off → bits w 29 3 = 2 ∧ bits w 0 16 = off / 2 ^ 16 % 256))
          ∧ (∀ off, o.off = some off → (s.slot o.owner).win.wf = true → Claims.holdsAt (t.slot o.owner).win (s.slot o.owner).win off 8 w.toNat ∧ (t.slot o.owner).pend = (s.slot o.owner).pend.filter (fun p => p.2 != id))
          ∧ t.spm = s.spm ∧ t.ext = s.ext)
      ∧ ((o.stage < 3 ∨ s.arrived o = false) → o.due ≤ s.clk →
        let lost := fun (d : Reg64) => exec (.rcTimeoutExpiry id) s = .next (s.setOp { o with stage := 3, since := s.clk, die := dieOf o.owner, buf := false, status := 0xF, reply := [d, 0xFFFFFFFF00000000] })
        let gone := u < 2 ^ 20 ∧ s.unitOut u = true
        (gone → lost 3)
        ∧ (¬ gone → s.canReach o.owner u = true → exec (.rcTimeoutExpiry id) s = .next (s.setOp { o with due := o.due + (s.slot o.owner).rcTimeout * 1800 }))
        ∧ (¬ gone → s.canReach o.owner u = false → lost 1)))
    ∧ (s.op? (id + 1) = none → exec (.replyAcknowledgement (id + 1)) s = .next { s with replies := s.replies.filter (fun r => r.op != id + 1) })
    ∧ (s.clk < o.due → exec (.rcTimeoutExpiry id) s = .next s)
    ∧ (∀ fn n a v e q nr m r, o.kind = .atomic fn n a v e q nr m r → (o.stage = 0 ∨ o.stage = 1 ∧ s.arrived o = false) → o.due ≤ s.clk →
        let u := s.callUnit a
        ((u < 2 ^ 20 ∧ s.unitOut u = true ∨ s.canReach o.owner u = false) → exec (.rcTimeoutExpiry id) s = .next (s.setOp { o with stage := 1, die := dieOf o.owner, buf := false, status := 0xF, reply := [0] }))
        ∧ (¬ (u < 2 ^ 20 ∧ s.unitOut u = true ∨ s.canReach o.owner u = false) → exec (.rcTimeoutExpiry id) s = .next (s.setOp { o with due := o.due + (s.slot o.owner).rcTimeout * 1800 })))
    ∧ (∀ w slot own part reach, o.kind = .msg w slot own part reach → o.stage = 0 → part ≠ s.domIndex.toNat → o.due ≤ s.clk →
        (s.canReach o.owner (2 ^ 20 + part) = true → exec (.rcTimeoutExpiry id) s = .next (s.setOp { o with due := o.due + (s.slot o.owner).rcTimeout * 1800 }))
        ∧ (s.canReach o.owner (2 ^ 20 + part) = false → ∃ t : State, exec (.rcTimeoutExpiry id) s = .next t ∧ t.ops = s.ops.filter (fun p => p.id != id) ∧ t.spm = s.spm ∧ t.ext = s.ext
          ∧ ∀ off, o.off = some off → (s.slot o.owner).live = true → (s.slot o.owner).uid = o.task → (s.slot o.owner).held = [] → o.owner < 81920 → (s.slot o.owner).win.wf = true →
            Claims.holdsAt (t.slot o.owner).win (s.slot o.owner).win off 8 0xF))
    ∧ (∀ a v dt, o.kind = .radd a v dt → s.address a ≠ none → o.due ≤ s.clk →
        let reach := s.combHolds o a = true ∨ s.canReach o.owner (s.callUnit a) = true
        (¬ reach → exec (.rcTimeoutExpiry id) s = .next (((s.pushStatus o 0xF a).dropOp id).ackSlot o))
        ∧ (reach → exec (.rcTimeoutExpiry id) s = .next (s.setOp { o with due := o.due + (s.slot o.owner).rcTimeout * 1800 })))

/-- RCALL's issue, and the reply, its order and its time-out: `Claims.RemoteCallIssue` and `Claims.RemoteReplies`. -/
def Obligations.RemoteCallsAndReplies : Prop := Claims.RemoteCallIssue ∧ Claims.RemoteReplies

/-- R18, R325, R326, R327, R330, R335, R336, R339: a call that arrives, after the slot's earlier calls and atomics to the unit, takes a
reply-cache entry and waits its turn, or is answered with status 4 where a nib's station cannot translate its target and 3 where a handler's
cluster has gone to another process; a copy of it that its sender sends again (an input, log 11) is discarded, or answered again from the cache, an event of the sending core either way (the model's choice, log 11); the first call waiting at a free
unit, once no access the caller issued before it is held back or on its way to the handler's scratchpad (R223, R233), starts its routine, or
ends with status 3 where the cluster has gone to another process meanwhile: window zeroed, g1 to g8 the payload, g9 the target, fcr and ln 0, a nib's grant 16, and the nib's local store zeroed
for a new process only; no other starts. -/
def Sys2Proof.Claims.RemoteRoutineStart : Prop :=
  ∀ (s : State) (id : Nat) (o : Op) (entry target : Reg64) (pay : List Reg64) (cid : BitVec 16) (u : Nat),
    s.op? id = some o → o.id = id → o.kind = .rcall entry target pay cid u → u < 2 ^ 20 → s.unitOut u = false →
    let nib := decide (81920 ≤ u ∧ u < 82176)
    let before := fun (p : Op) => p.id < id ∧ p.owner = o.owner ∧ p.task = o.task ∧ p.stage = 0
      ∧ ((∃ e t w c, p.kind = .rcall e t w c u) ∨ ∃ fn n a v e q nr m r, p.kind = .atomic fn n a v e q nr m r ∧ s.callUnit a = u)
    let waits := fun (r : CacheEntry) => r.unit = u ∧ ∃ p e t w c v, s.op? r.op = some p ∧ p.stage = 1 ∧ p.kind = .rcall e t w c v
    let fails := fun (st : Nat) => exec (.remoteCallArrival id) s = .next (s.setOp { o with stage := 3, since := s.clk, buf := false, status := st, reply := [target, 0xFFFFFFFF00000000] })
    (o.stage = 0 → ((∃ p ∈ s.ops, before p) ∨ s.arrived o = false) → exec (.remoteCallArrival id) s = .next s)
    ∧ (o.stage = 0 → (∀ p ∈ s.ops, ¬ before p) → s.arrived o = true →
      let translates := (s.translate o.pid (target.toNat % 2 ^ 48) false false false).isSome = true
      let sound := if nib then translates else s.holds o.pid (u / 1280) = true
      (nib = true → ¬ translates → fails 4) ∧ (nib = false → ¬ sound → fails 3)
      ∧ (sound → s.cacheFull u = false → exec (.remoteCallArrival id) s = .next (({ s with replies := s.replies ++ [⟨u, id, none⟩] } : State).setOp { o with stage := 1, buf := false }))
      ∧ (sound → s.cacheFull u = true → exec (.remoteCallArrival id) s = .next s))
    ∧ (o.stage ≠ 0 → .call id ∉ s.softErrors → exec (.remoteCallArrival id) s = .next s)
    ∧ ((o.stage = 1 ∨ o.stage = 2) → .call id ∈ s.softErrors → exec (.remoteCallArrival id) s = .next (({ s with softErrors := s.softErrors.erase (.call id) } : State).countHart o.owner))
    ∧ (o.stage = 3 → .call id ∈ s.softErrors → (∃ e ∈ s.replies, e.op = id ∧ e.reply = some (o.status, o.reply)) →
        exec (.remoteCallArrival id) s = .next ((({ s with softErrors := s.softErrors.erase (.call id) } : State).setOp { o with die := if nib then (u - 81920) / 64 else u / 5 / 4096, since := s.clk }).countHart o.owner))
    ∧ (o.stage = 1 → ((s.slot u).live = true ∨ ∃ l e r, s.replies = l ++ e :: r ∧ waits e ∧ e.op ≠ id ∧ (∀ k ∈ l, ¬ waits k)) → exec (.routineStart id) s = .next s)
    ∧ (o.stage = 1 → (s.heldBack o = true ∨ nib = false ∧ s.earlierOwn o (u / 5 * 65536) 65536 = true) → exec (.routineStart id) s = .next s)
    ∧ (o.stage = 1 → s.heldBack o = false → (nib = false → u % 5 = 4 ∧ s.earlierOwn o (u / 5 * 65536) 65536 = false ∧ s.holds o.pid (u / 1280) = false) → (s.slot u).live = false →
      (∃ l e r, s.replies = l ++ e :: r ∧ e.unit = u ∧ e.op = id ∧ ∀ k ∈ l, ¬ waits k) → nib = false → u < 81920 →
      exec (.routineStart id) s = .next (({ s with replies := s.replies.map (fun e => if e.op = id then { e with reply := some (3, [target, 0xFFFFFFFF00000000]) } else e) } : State).setOp
        { o with stage := 3, since := s.clk, buf := false, status := 3, reply := [target, 0xFFFFFFFF00000000] }))
    ∧ (o.stage = 1 → s.heldBack o = false → (nib = false → s.earlierOwn o (u / 5 * 65536) 65536 = false ∧ s.holds o.pid (u / 1280) = true) → (s.slot u).live = false → (∃ l e r, s.replies = l ++ e :: r ∧ e.unit = u ∧ e.op = id ∧ ∀ k ∈ l, ¬ waits k) → pay.length ≤ 8 → (nib = true ∨ u < 81920 ∧ u % 5 = 4) →
      ∃ t : State, exec (.routineStart id) s = .next t ∧ t.op? id = some { o with stage := 2 } ∧ t.spm = s.spm ∧ t.ext = s.ext ∧ (∀ h, h ≠ u → t.slot h = s.slot h)
        ∧ (let x := t.slot u
           x.live = true ∧ x.pc = entry ∧ x.getG 9 = target ∧ (∀ j < 8, x.getG (j + 1) = pay.getD j 0) ∧ (∀ b, (b < 8 ∨ 80 ≤ b) → x.win.get b = 0) ∧ x.getLn = 0 ∧ x.fcr = 0
           ∧ x.gBase = 0 ∧ x.kBase = 448 ∧ x.vBase = 512 ∧ x.winSize = (if nib then 8192 else 256) ∧ x.grant = (if nib then 16 else 0) ∧ x.loops = [] ∧ x.routine.map (fun r => (r.op, r.entry, r.began)) = some (id, entry, s.clk))
        ∧ (nib = false → t.nibMem = s.nibMem ∧ (t.slot u).srs = (s.slot u).srs)
        ∧ (nib = true → let n := u - 81920
           (t.nib n).lastPid = some o.pid
           ∧ (((s.nib n).lastPid = none ∨ (s.nib n).lastPid = some o.pid) → t.nibMem = s.nibMem ∧ (t.slot u).srs = (s.slot u).srs)
           ∧ (∀ q, (s.nib n).lastPid = some q → q ≠ o.pid → (∀ a, t.nibMem.get a = if n * 65536 ≤ a ∧ a < (n + 1) * 65536 then 0 else s.nibMem.get a)
               ∧ (t.slot u).srs = r64 (n * 2 ^ 32 + 0xFFFFFFFE) ^^^ 0x9E3779B97F4A7C15)))

/-- R331, R333, R336, R339: RRET ends its routine with the values g1 to gm and status 0, one of m over 4 with status 1 and the word, and
one in a task traps; a routine that has run its 36,000 clk ends with status 0x0F and detail 2, but not in the middle of a vector access (R185, log 5); the reply stays in the call's cache entry. -/
def Sys2Proof.Claims.RemoteRoutineEnd : Prop :=
  ∀ (s : State) (m : BitVec 3),
    (∀ r o, s.me.routine = some r → s.op? r.op = some o → o.id = r.op → o.stage = 2 → isTask s.cur = false → isControl s.cur = false →
      let ended := fun (h : Nat) (i : Instr) (st : Nat) (l : List Reg64) => ∃ t : State, exec i s = .next t ∧ (t.slot h).live = false ∧ (t.slot h).routine = none
        ∧ t.op? r.op = some { o with stage := 3, since := s.clk, status := st, reply := l } ∧ t.replies = s.replies.map (fun e => if e.op = r.op then { e with reply := some (st, l) } else e)
        ∧ t.spm = s.spm ∧ t.ext = s.ext ∧ t.nibMem = s.nibMem
      (ready (.rret m) s = true → ended s.cur (.rret m) 0 ((List.range m.toNat).map (fun j => s.getG (j + 1))))
      ∧ (4 < m.toNat → s.me.issues = true → ended s.cur (.rret m) 1 [(Instr.rret m).word.zeroExtend 64, r64 ((s.me.pc - r.entry).toNat % 2 ^ 32 * 2 ^ 32)])
      ∧ (s.me.live = true → s.harts = [(s.cur, s.me)] → r.began + 36000 ≤ s.clk → s.me.parts = none → ended s.cur (.routineBudgetExpiry r.op) 0xF [2, r64 ((s.me.pc - r.entry).toNat % 2 ^ 32 * 2 ^ 32)])
      ∧ (s.me.live = true → s.harts = [(s.cur, s.me)] → (s.clk < r.began + 36000 ∨ s.me.parts ≠ none) → exec (.routineBudgetExpiry r.op) s = .next s))
    ∧ (s.me.routine = none → s.me.issues = true → exec (.rret m) s = .next (s.trapMe (.rret m) 0x01 ((Instr.rret m).word.zeroExtend 64)))

/-- How a remote routine starts and ends: `Claims.RemoteRoutineStart` and `Claims.RemoteRoutineEnd`. -/
def Obligations.RemoteRoutines : Prop := Claims.RemoteRoutineStart ∧ Claims.RemoteRoutineEnd

/-- R344, R346, R350: OCLAIM claims the lowest free slots for its task and answers their mask, or claims none; OREL releases slots its
task has claimed, each free once no operation or fill uses it, and traps on any other; SEMP takes one from a semaphore or waits, SEMV
adds one, or traps where the count is 15. That a SEMV adds its one only once what its slot has stored is home, and that posts on their way
count toward the 15, is the model's choice (log 77). -/
def Sys2Proof.Claims.OperandSlotsAndSemaphores : Prop :=
  ∀ (s : State) (t n f : BitVec 6) (z : BitVec 3),
    let p := panelOf s.cur
    let q := fun (u : State) (k : Nat) => (u.panel p).slot k
    let free := (List.range 16).filter (fun k => (q s k).claim == none)
    (ready (.oclaim t n) s = true →
      (free.length < n.toNat → exec (.oclaim t n) s = .next ((s.putG t.toNat 0).commit (.oclaim t n)))
      ∧ (n.toNat ≤ free.length → ∃ u : State, exec (.oclaim t n) s = .next ((u.putG t.toNat (Claims.ofBits 64 (fun k => (free.take n.toNat).contains k))).commit (.oclaim t n))
          ∧ u.harts = s.harts ∧ u.opMem = s.opMem ∧ (∀ k, q u k = if k ∈ free.take n.toNat then { q s k with claim := some s.me.uid, releasing := false } else q s k)))
    ∧ (ready (.orel f) s = true →
      let v := s.getG f.toNat
      let mine := fun (k : Nat) => (q s k).claim = some s.me.uid ∧ (q s k).releasing = false
      ((2 ^ 16 ≤ v.toNat ∨ ∃ k < 16, v.getLsbD k = true ∧ ¬ mine k) → exec (.orel f) s = .next (s.trapMe (.orel f) 0x01 v))
      ∧ (v.toNat < 2 ^ 16 → (∀ k < 16, v.getLsbD k = true → mine k) → ∃ u : State, exec (.orel f) s = .next (u.commit (.orel f)) ∧ u.harts = s.harts ∧ u.opMem = s.opMem
          ∧ (∀ k < 16, v.getLsbD k = true → q u k = if s.slotBusy p k = true then { q s k with releasing := true } else { q s k with claim := none, releasing := false })
          ∧ (∀ k < 16, v.getLsbD k = false → (q s k).releasing = false → q u k = q s k)))
    ∧ (let c := (s.panel p).sem z.toNat
       let count := fun (m : Nat) => s.modPanel p (fun x => { x with sems := Tab.set x.sems z.toNat m })
       (ready (.semp z) s = true → (c = 0 → exec (.semp z) s = .next (s.mark .semaphore)) ∧ (0 < c → exec (.semp z) s = .next ((count (c - 1)).commit (.semp z))))
       ∧ (let posts := c + (s.ops.filter (fun o => match o.kind with | .semv a b => a == p && b == z.toNat | _ => false)).length
         ready (.semv z) s = true → (posts < 15 → s.me.acks = 0 → exec (.semv z) s = .next ((count (c + 1)).commit (.semv z)))
         ∧ (posts < 15 → s.me.acks ≠ 0 → ∃ u : State, ∃ o : Op, exec (.semv z) s = .next (u.commit (.semv z)) ∧ u.panels = s.panels ∧ u.harts = s.harts ∧ u.ops = s.ops ++ [o] ∧ o.owner = s.cur ∧ o.kind = .semv p z.toNat)
         ∧ (15 ≤ posts → exec (.semv z) s = .next (s.trapMe (.semv z) 0x01 ((Instr.semv z).word.zeroExtend 64)))))

/-- R343, R347, R348, R417: OFILL refuses a wrong control word (cause 0x01), a misaligned source (0x02) and a source it may not read
(0x03), and else leaves one fill; a fill of on-chip bytes writes the slot's data (a BS8 source its scales and data, run by run or group
by group), sets the slot's tag, and answers the count of its source bytes; a fill waits for the started operations that read its slot. -/
def Sys2Proof.Claims.OperandFills : Prop :=
  ∀ (s : State),
    (∀ (f t : BitVec 6), let i := Instr.ofill f t
      let ctl := s.getG f.toNat
      let src := s.getG (f.toNat + 1)
      let off := src.toNat % 2 ^ 48
      let ext := 0x40000000 ≤ off
      let ct := ctl.getLsbD 8 = true
      let fmt := bits ctl 4 4
      let h := bits ctl 16 16
      let q := (s.panel (panelOf s.cur)).slot (bits ctl 0 4)
      let runs := fmt = 3 ∧ ¬ ct
      let wrong := bits ctl 32 32 ≠ 0 ∨ bits ctl 9 7 ≠ 0 ∨ 10 ≤ fmt ∨ (ext ∧ fmt ≠ 0) ∨ (ct ∧ ¬ ext ∧ fmt ≠ 3) ∨ (ct ∧ h ≠ 64 ∧ h ≠ 256) ∨ (¬ ct ∧ h ≠ 0) ∨ q.claim ≠ some s.me.uid ∨ q.releasing = true
      let crooked := off % 64 ≠ 0 ∨ (¬ ext ∧ runs ∧ (off % 2 ^ 16 % 2112 ≠ 0 ∨ 65472 ≤ off % 2 ^ 16))
      let cl := clusterOf s.cur
      let sends := ∃ u : State, ∃ o : Op, exec i s = .next (u.commit i) ∧ u.ops = s.ops ++ [o] ∧ o.id = s.nextId ∧ o.owner = s.cur ∧ o.kind = .ofill (panelOf s.cur) ctl (r64 off)
        ∧ o.off = (if t = 0 then none else some (s.me.gBase + 8 * t.toNat)) ∧ u.opMem = s.opMem ∧ u.spm = s.spm ∧ u.panels = s.panels ∧ u.me.win = s.me.win
      ready i s = true →
      (wrong → exec i s = .next (s.trapMe i 0x01 ctl))
      ∧ (¬ wrong → crooked → exec i s = .next (s.trapMe i 0x02 src))
      ∧ (¬ wrong → ¬ crooked → (∀ a, s.address src ≠ some (a, none)) → exec i s = .next (s.trapMe i 0x03 src))
      ∧ (¬ wrong → ¬ crooked → s.address src = some (off, none) →
          (ext → sends)
          ∧ (¬ ext → (off / 2 ^ 24 ≠ cl ∨ s.holds (s.pidOf s.cur) cl = false) → exec i s = .next (s.trapMe i 0x03 src))
          ∧ (¬ ext → fmt ≠ 3 → off / 2 ^ 24 = cl → (cl + 1) * 2 ^ 24 < off + 16384 → exec i s = .next (s.trapMe i 0x03 src))
          ∧ (¬ ext → s.holds (s.pidOf s.cur) cl = true → off / 2 ^ 24 = cl → off + 2 ^ 16 ≤ (cl + 1) * 2 ^ 24 → sends)))
    ∧ (∀ (id : Nat) (o : Op) (p : Nat) (ctl src : Reg64), s.op? id = some o → o.id = id → o.kind = .ofill p ctl src →
        let n := bits ctl 0 4
        let b := (p * 16 + n) * 16896
        let a := src.toNat
        let fills := fun (count fmt h : Nat) (data scale : Nat → Nat) => ∀ off, o.off = some off → (s.slot o.owner).live = true → (s.slot o.owner).uid = o.task → (s.slot o.owner).win.wf = true →
          ∃ t : State, exec (.ofillCompletion id) s = .next t
            ∧ (∀ x < 16384, t.opMem.get (b + x) = s.spm.get (data x)) ∧ (fmt = 3 → ∀ x < 512, t.opMem.get (b + 16384 + x) = s.spm.get (scale x))
            ∧ (∀ x, (x < b ∨ b + 16896 ≤ x ∨ (fmt ≠ 3 ∧ b + 16384 ≤ x)) → t.opMem.get x = s.opMem.get x)
            ∧ ((t.panel p).slot n).fmt = fmt ∧ ((t.panel p).slot n).h = h ∧ t.spm = s.spm ∧ t.ext = s.ext ∧ t.op? id = none
            ∧ Claims.holdsAt (t.slot o.owner).win (s.slot o.owner).win off 8 (count * 2 ^ 8) ∧ (t.slot o.owner).pend = (s.slot o.owner).pend.filter (fun e => e.2 != id)
        (s.ops = [o] → s.softErrors = [] → s.coresOut = [] → (∀ d < 4, s.joined (dieOf o.owner) d = true) → s.opMem.wf = true → a + 2 ^ 17 ≤ 0x40000000 → (∀ x, a ≤ x → x < a + 2 ^ 17 → s.holds o.pid (x / 2 ^ 24) = true) →
          (ctl.getLsbD 8 = false → bits ctl 4 4 ≠ 3 → fills 16384 (bits ctl 4 4) 0 (fun x => a + x) (fun _ => 0))
          ∧ (ctl.getLsbD 8 = false → bits ctl 4 4 = 3 → let run := fun (r : Nat) => (a / 2 ^ 16 + (a % 2 ^ 16 / 2112 + r) / 31) * 2 ^ 16 + (a % 2 ^ 16 / 2112 + r) % 31 * 2112
              fills 16896 3 0 (fun x => run (x / 2048) + 64 + x % 2048) (fun x => run (x / 64) + x % 64))
          ∧ (ctl.getLsbD 8 = true → bits ctl 4 4 = 3 → let h := bits ctl 16 16
              (h = 64 ∨ h = 256) → fills 16896 3 h (fun x => a + x / (32 * h) * (33 * h) + h + x % (32 * h)) (fun x => a + x / h * (33 * h) + x % h)))
        ∧ ((∃ e ∈ s.ops, ∃ w w1 ms l, e.kind = .mx p w w1 ms l ∧ e.stage = 1 ∧ 16 * p + n ∈ l) → exec (.ofillCompletion id) s = .next s))

/-- Operand slots, panel semaphores and fills: `Claims.OperandSlotsAndSemaphores` and `Claims.OperandFills`. -/
def Obligations.OperandSlots : Prop := Claims.OperandSlotsAndSemaphores ∧ Claims.OperandFills

/-- R352, R353: a shadow the engine does not take: a reserved bit, formats of no common class, a wrong k, an odd tile for FP64, or a
sparse mode with transposed A, an encoded A, a rectangle, or, for blocks, a k that is no multiple of 16. MXCFG and MXGO trap on it and
change nothing; else they wait while the shadow is committed, MXCFG and MXSP writing it, MXGO committing it with its operation. -/
def Sys2Proof.Claims.MatrixShadow : Prop :=
  ∀ (s : State),
    (∀ (f t : BitVec 6) (n : BitVec 4), let p := panelOf s.cur
      let x := s.panel p
      let w := s.getG f.toNat
      let v := s.getG (f.toNat + 1)
      let traps := fun (i : Instr) => exec i s = .next (s.trapMe i 0x01 (i.word.zeroExtend 64))
      (ready (.mxcfg f) s = true → (mxBad w v = true → traps (.mxcfg f)) ∧ (mxBad w v = false → x.committed ≠ none → exec (.mxcfg f) s = .next (s.mark .shadow))
        ∧ (mxBad w v = false → x.committed = none → exec (.mxcfg f) s = .next ((s.modPanel p (fun y => { y with w0 := w, w1 := v })).commit (.mxcfg f))))
      ∧ (ready (.mxsp n) s = true → (x.committed ≠ none → exec (.mxsp n) s = .next (s.mark .shadow))
        ∧ (x.committed = none → exec (.mxsp n) s = .next ((s.modPanel p (fun y => { y with mslot := n.toNat })).commit (.mxsp n))))
      ∧ (ready (.mxgo t) s = true →
        let bad := mxBad x.w0 x.w1 = true ∨ (bits x.w1 8 8 ≠ 0 ∧ s.rectOf p (bits x.w1 8 8) = none)
        (bad → traps (.mxgo t)) ∧ (¬ bad → x.committed ≠ none → exec (.mxgo t) s = .next (s.mark .shadow))
        ∧ (¬ bad → x.committed = none → ∃ u : State, ∃ o : Op, exec (.mxgo t) s = .next (u.commit (.mxgo t)) ∧ u.ops = s.ops ++ [o] ∧ o.id = s.nextId ∧ o.owner = s.cur ∧ o.stage = 0
            ∧ o.kind = .mx p x.w0 x.w1 x.mslot [] ∧ o.off = (if t = 0 then none else some (s.me.gBase + 8 * t.toNat)) ∧ u.panel p = { x with committed := some o.id } ∧ u.accMem = s.accMem ∧ u.me.win = s.me.win)))
    ∧ (∀ w v : Reg64, let a := bits w 12 4
        let b := bits w 16 4
        let k := bits w 48 9
        let sparse := bits w 22 2
        mxBad w v = false ↔ bits w 57 7 = 0 ∧ bits w 46 2 = 0 ∧ bits w 38 2 = 0 ∧ bits w 24 8 = 0 ∧ bits v 16 48 = 0
          ∧ (∃ c ∈ ([([8], 32, 1), ([7], 64, 2), ([5, 6], 128, 4), ([1, 2, 3, 4], 256, 8), ([9], 256, 8)] : List (List Nat × Nat × Nat)), a ∈ c.1 ∧ b ∈ c.1 ∧ 0 < k ∧ k ≤ c.2.1 ∧ k % c.2.2 = 0)
          ∧ (a = 8 → bits w 8 3 % 2 = 0) ∧ sparse ≠ 3 ∧ (sparse ≠ 0 → bits w 20 1 = 0 ∧ a ≠ 3 ∧ a ≠ 4 ∧ bits v 8 8 = 0) ∧ (sparse = 1 → k % 16 = 0))

/-- R24, R351, R357, R358, R363: a committed operation outside rectangles starts, in no clk its die's throttle takes, once the engine is free, its semaphore has a count (which it
takes), no fill of its slots is in flight and its sub-arrays are awake; else its gated sub-arrays wake for 288 clk; the errors of its
slots and tile are found then, an unclaimed slot before every other error (log 42); that a wake begins with the first attempt at which all
else holds is the model's choice (log 45); an awake sub-array idle for gate.idle clk is gated, unless gate.idle is 0. -/
def Sys2Proof.Claims.MatrixStart : Prop :=
  ∀ (s : State) (cl n id : Nat) (o : Op) (w v : Reg64) (ms : Nat) (l : List Nat), n < 32 → ms < 16 →
    let p := cl * 32 + n
    let x := s.panel p
    let slots := [16 * p + bits w 0 4, 16 * p + bits w 4 4] ++ (if bits w 22 2 ≠ 0 then [16 * p + ms] else [])
    (x.committed = some id → s.op? id = some o → o.id = id → o.kind = .mx p w v ms l → mxBad w v = false → bits v 8 8 = 0 →
      let holds := s.throttled (p * 8) = false ∧ x.running = none ∧ (bits v 3 1 = 1 → 0 < x.sem (bits v 0 3)) ∧ (∀ e ∈ s.ops, ∀ c a, e.kind = .ofill p c a → 16 * p + bits c 0 4 ∉ slots)
      let awake := ∀ k, 16 * k < bits w 32 6 + 1 → x.awake.contains k = true
      (¬ holds → exec (.mxOperationStart cl n) s = .next s)
      ∧ (holds → ¬ awake → ∃ t : State, exec (.mxOperationStart cl n) s = .next t ∧ t.panel p = { x with waking := some (x.waking.getD (s.clk + 288)) } ∧ t.ops = s.ops ∧ t.harts = s.harts)
      ∧ (holds → awake → ∃ t : State, exec (.mxOperationStart cl n) s = .next t ∧ (t.panel p).committed = none ∧ (t.panel p).running = some id ∧ t.accMem = s.accMem ∧ t.harts = s.harts
          ∧ (∀ k, (t.panel p).sem k = if bits v 3 1 = 1 ∧ k = bits v 0 3 then x.sem k - 1 else x.sem k)
          ∧ ∃ e : Op, t.op? id = some e ∧ e.stage = 1 ∧ e.kind = .mx p w v ms slots
            ∧ (bits w 22 2 = 0 → e.due = s.clk + (if bits w 12 4 = 8 then 2048 else if bits w 12 4 = 7 then 1024 else if bits w 12 4 = 5 ∨ bits w 12 4 = 6 then 512 else 256))
            ∧ ((∃ k ∈ slots, (x.slot (k % 16)).claim = none) → e.status = 1)))
    ∧ (∀ d, x.waking = some d → (s.clk < d → exec (.subarrayWake cl n) s = .next s)
        ∧ (d ≤ s.clk → ∃ t : State, exec (.subarrayWake cl n) s = .next t ∧ (t.panel p).waking = none ∧ (∀ k ∈ x.awake, k < 4 → k ∈ (t.panel p).awake) ∧ t.accMem = s.accMem ∧ t.ops = s.ops
            ∧ (s.committedOp p = some (o, w, v, ms) → bits v 8 8 = 0 → ∀ k, 16 * k < bits w 32 6 + 1 → k ∈ (t.panel p).awake)))
    ∧ (∀ k ∈ x.awake, x.running = none →
        (x.gateIdle ≠ 0 → Tab.getD x.idle k 0 + x.gateIdle ≤ s.clk → exec (.subarrayGating cl n k) s = .next (s.modPanel p (fun y => { y with awake := y.awake.filter (fun j => j != k) })))
        ∧ ((x.gateIdle = 0 ∨ s.clk < Tab.getD x.idle k 0 + x.gateIdle) → exec (.subarrayGating cl n k) s = .next s))

/-- R351, R358, R362: once every member of a rectangle has committed an operation with its id and meets the start conditions, all start
together with their errors found: member (u, v) reads A from the A slot that member (u, 0) names and B from the B slot that member (0, v)
names, and takes 16(a + b - 2) clk more; where formats, transpositions or sizes differ every member has code 6, and where an operand slot
is not claimed every member has code 1. -/
def Sys2Proof.Claims.RectangleStart : Prop :=
  ∀ (s : State) (cl r u0 v0 uid r0 c0 a b : Nat) (op : Nat → Nat → Op) (w v : Nat → Nat → Reg64) (ms : Nat → Nat → Nat),
    let member := fun (i j : Nat) => cl * 32 + (r0 + i) * 8 + c0 + j
    r ≠ 0 → Tab.get? (s.cluster cl).rects r = some (uid, r0, c0, a, b) → r0 + a ≤ 4 → c0 + b ≤ 8 → u0 < a → v0 < b →
    (∀ i < a, ∀ j < b, (s.panel (member i j)).committed = some (op i j).id ∧ s.op? (op i j).id = some (op i j) ∧ (op i j).kind = .mx (member i j) (w i j) (v i j) (ms i j) []
      ∧ bits (v i j) 8 8 = r ∧ mxBad (w i j) (v i j) = false ∧ (s.panel (member i j)).running = none ∧ (bits (v i j) 3 1 = 1 → 0 < (s.panel (member i j)).sem (bits (v i j) 0 3))
      ∧ ∀ k < 4, (s.panel (member i j)).awake.contains k = true) →
    (∀ i < a, ∀ j < b, ∀ i' < a, ∀ j' < b, (op i j).id = (op i' j').id → i = i' ∧ j = j') →
    (∀ e ∈ s.ops, ∀ p c x, e.kind ≠ .ofill p c x) → s.throttled (member u0 v0 * 8) = false →
    let shares := ∀ i < a, ∀ j < b, ∀ q ∈ ([(12, 4), (16, 4), (20, 1), (21, 1), (32, 6), (40, 6), (48, 9)] : List (Nat × Nat)), bits (w i j) q.1 q.2 = bits (w 0 0) q.1 q.2
    let unclaimed := ∃ i < a, ∃ j < b, ((s.panel (member i 0)).slot (bits (w i 0) 0 4)).claim = none ∨ ((s.panel (member 0 j)).slot (bits (w 0 j) 4 4)).claim = none
    ∃ t : State, exec (.mxOperationStart cl ((r0 + u0) * 8 + c0 + v0)) s = .next t ∧ t.accMem = s.accMem ∧ t.opMem = s.opMem ∧ t.harts = s.harts
      ∧ ∀ i < a, ∀ j < b, (t.panel (member i j)).committed = none ∧ (t.panel (member i j)).running = some (op i j).id
        ∧ (∀ k, (t.panel (member i j)).sem k = if bits (v i j) 3 1 = 1 ∧ k = bits (v i j) 0 3 then (s.panel (member i j)).sem k - 1 else (s.panel (member i j)).sem k)
        ∧ ∃ e : Op, t.op? (op i j).id = some e ∧ e.stage = 1
          ∧ e.kind = .mx (member i j) (w i j) (v i j) (ms i j) [16 * member i 0 + bits (w i 0) 0 4, 16 * member 0 j + bits (w 0 j) 4 4]
          ∧ e.due = s.clk + (if bits (w i j) 12 4 = 8 then 2048 else if bits (w i j) 12 4 = 7 then 1024 else if bits (w i j) 12 4 = 5 ∨ bits (w i j) 12 4 = 6 then 512 else 256) + 16 * (a + b - 2)
          ∧ (¬ shares → e.status = 6) ∧ (shares → unclaimed → e.status = 1)

/-- The matrix shadow, MXCFG, MXSP, MXGO and the start of an operation, alone and in a rectangle: `Claims.MatrixShadow`, `Claims.MatrixStart` and `Claims.RectangleStart`. -/
def Obligations.MatrixStart : Prop := Claims.MatrixShadow ∧ Claims.MatrixStart ∧ Claims.RectangleStart

/-- R57, R58, R349, R354 to R357, R362: an operation completes at its time with each element of C in m rows and n columns the sum of R57 (for
i8 the integer sum modulo 2^32) of its products, from the panels its start named, from the element it had, or from -0, and every other
element kept; the products are the row's, for BSR those of the blocks of the row's block row and for CSR those of the row's values, in
the order of the metadata; an overwriting one sets the tile's tag; one found wrong writes no tile, a kind-3 record, whose unit is the panel's number over the part by the model's choice (log 69), and its code; psem is posted when pen is 1, at
once where the slot's stores are home and behind them else, the model's choice (log 77). -/
def Obligations.MatrixResults : Prop :=
  ∀ (s : State) (id : Nat) (o : Op) (p : Nat) (w v : Reg64) (ms qa a qb b : Nat) (l : List Nat),
    s.op? id = some o → o.id = id → id < s.nextId → o.kind = .mx p w v ms ((16 * qa + a) :: (16 * qb + b) :: l) → a < 16 → b < 16 → o.stage = 1 →
    (s.clk < o.due → exec (.mxOperationCompletion id) s = .next s)
    ∧ (o.due ≤ s.clk → s.softErrors = [] → mxBad w v = false → s.accMem.wf = true → ∀ off, o.off = some off → (s.slot o.owner).live = true → (s.slot o.owner).uid = o.task → (s.slot o.owner).win.wf = true →
      (∀ c, (s.cluster c).qntRun = none) →
      let post := bits v 7 1 = 1
      let count := s.semCount p (bits v 4 3)
      let home := (s.slot o.owner).acks = 0
      let ends := fun (t : State) (code : Nat) => exec (.mxOperationCompletion id) s = .next t ∧ (t.panel p).running = none ∧ t.op? id = none ∧ t.spm = s.spm ∧ t.opMem = s.opMem
        ∧ (∀ k, (t.panel p).sem k = if post ∧ home ∧ k = bits v 4 3 ∧ count < 15 then (s.panel p).sem k + 1 else (s.panel p).sem k)
        ∧ (post → ¬ home → count < 15 → ∃ e ∈ t.ops, e.kind = .semv p (bits v 4 3) ∧ e.owner = o.owner)
        ∧ Claims.holdsAt (t.slot o.owner).win (s.slot o.owner).win off 8 ((if post ∧ 15 ≤ count then 2 ^ 39 else 0) + code * 2 ^ 8 + (if code = 0 then 0 else 0x10))
      (o.status ≠ 0 → o.status < 2 ^ 16 → ∃ t : State, ends t o.status ∧ t.accMem = s.accMem ∧ (∀ k, (t.panel p).tile k = (s.panel p).tile k)
        ∧ (o.cluster < 64 → ∃ r ∈ (t.cluster o.cluster).errs.head?, r.kind = 3 ∧ r.cause = 0x10 ∧ r.status = 0x10 ∧ r.ukind = 4 ∧ r.unit = p ∧ r.info = r64 o.status ∧ r.tid = o.tid ∧ r.pc = o.pc ∧ r.lid = o.lid))
      ∧ (o.status = 0 →
        let fa := bits w 12 4
        let fb := bits w 16 4
        let kx := if fa = 8 then 32 else if fa = 7 then 64 else if fa = 5 ∨ fa = 6 then 128 else 256
        let g := if fa = 8 then 1 else if fa = 7 then 2 else if fa = 5 ∨ fa = 6 then 4 else 8
        let e := if fa = 8 then 8 else 4
        let va := slotValues s.opMem qa a fa ((s.panel qa).slot a).h
        let vb := slotValues s.opMem qb b fb ((s.panel qb).slot b).h
        let prod := fun (x : Nat × Nat) => (exactMul (va.getD x.1 (.zero false)) (vb.getD x.2 (.zero false))).1
        let int8 := fun (q n k : Nat) => (s.opMem.get ((q * 16 + n) * 16896 + k)).toInt
        let rp := fun (i : Nat) => Mem.read s.opMem ((p * 16 + ms) * 16896 + 2 * i) 2
        let col := fun (d : Nat) => Mem.read s.opMem ((p * 16 + ms) * 16896 + 256 + 2 * d) 2
        let inB := fun (k j : Nat) => if bits w 21 1 = 1 then j * kx + k else k * 64 + j
        let sums := fun (i j : Nat) => ((if bits w 22 2 = 0 then (List.range (bits w 48 9 / g)).map (fun q => (List.range g).map (fun r => (if bits w 20 1 = 1 then (q * g + r) * 64 + i else i * kx + q * g + r, inB (q * g + r) j)))
          else if bits w 22 2 = 1 then (List.range (rp (i / 16 + 1) - rp (i / 16))).flatMap (fun d => (List.range (16 / g)).map (fun q => (List.range g).map (fun r =>
            (256 * (rp (i / 16) + d) + 16 * (i % 16) + q * g + r, inB (16 * col (rp (i / 16) + d) + q * g + r) j))))
          else (List.range ((rp (i + 1) - rp i + g - 1) / g)).map (fun q => (List.range (min g (rp (i + 1) - rp i - q * g))).map (fun r => (rp i + q * g + r, inB (col (rp i + q * g + r)) j)))) : List (List (Nat × Nat)))
        let addr := fun (i j : Nat) => (p * 8 + bits w 8 3) * 16384 + e * (64 * i + j)
        let f := if fa = 8 then fp64 else fp32
        let start := fun (i j : Nat) => if bits w 11 1 = 1 then Mem.read s.accMem (addr i j) e else if fa = 9 then 0 else 2 ^ (8 * e - 1)
        ∃ t : State, ends t 0
          ∧ (fa ≠ 9 → ∀ i < bits w 32 6 + 1, ∀ j < bits w 40 6 + 1, Mem.read t.accMem (addr i j) e = (sums i j).foldl (fun acc q => (f.round .rne false 0 (exactSum false (f.decode acc :: q.map prod)).1).bits) (start i j))
          ∧ (fa = 9 → ∀ i < bits w 32 6 + 1, ∀ j < bits w 40 6 + 1, (∀ q ∈ sums i j, ∀ x ∈ q, x.1 < 16384 ∧ x.2 < 16384) →
              ((Mem.read t.accMem (addr i j) 4 : Int) - (start i j : Int) - ((sums i j).flatten.map (fun x => int8 qa a x.1 * int8 qb b x.2)).sum) % 2 ^ 32 = 0)
          ∧ (∀ x, (∀ i < bits w 32 6 + 1, ∀ j < bits w 40 6 + 1, ¬ (addr i j ≤ x ∧ x < addr i j + e)) → t.accMem.get x = s.accMem.get x)
          ∧ (bits w 11 1 = 0 → ((t.panel p).tile (bits w 8 3)) = { tag := if fa = 8 then .fp64 else if fa = 9 then .i32 else .fp32, invalid := false })
          ∧ (bits w 11 1 = 1 → ∀ k, (t.panel p).tile k = (s.panel p).tile k)))

/-- R46, R50, R106, R343, R359, R360, R418: MXZ zeroes a tile and tags it; MXRD writes a tile's elements, in row order rounded to the type
named under the mode of rnd (7 is fcr's; under RSTO each draw moves srs on), home to the scratchpads, completing with 0, or answers 0x310 for an invalid tile and 0x410
for a type its tag does not allow, writing nothing, or traps 0x09 at the first element not finite where that is checked; an earlier store of the
slot to its rows it waits for; MXWR writes a whole tile from the elements its slot sees; each waits while the engine holds an operation on
the tile. That rnd 5 traps (log 46) and that an invalid tile comes before a wrong type (log 42) is the model's choice. -/
def Obligations.TileTransfers : Prop :=
  ∀ (s : State), let p := panelOf s.cur
    let idle := ∀ o ∈ s.ops, ∀ w v m l, o.kind ≠ .mx p w v m l
    (∀ (y : BitVec 2) (n : BitVec 3), let i := Instr.mxz y n
      let b := (p * 8 + n.toNat) * 16384
      let tag := if y = 1 then TileTag.fp64 else if y = 2 then .i32 else .fp32
      ready i s = true →
      (idle → ∃ u : State, exec i s = .next (u.commit i) ∧ u.harts = s.harts ∧ (∀ x, u.accMem.get x = if b ≤ x ∧ x < b + (if y = 1 then 32768 else 16384) then 0 else s.accMem.get x)
        ∧ ∀ k, (u.panel p).tile k = if k = n.toNat ∨ (y = 1 ∧ k = n.toNat + 1) then { tag := tag, invalid := false } else (s.panel p).tile k)
      ∧ (∀ o ∈ s.ops, ∀ w v m l, o.kind = .mx p w v m l → o.stage ≠ 9 → mxBad w v = false → bits w 8 3 = n.toNat → exec i s = .next (s.mark .tile)))
    ∧ (∀ (f t : BitVec 6), let i := Instr.mxrd f t
      let a := s.getG f.toNat
      let c := s.getG (f.toNat + 1)
      let ty := bits c 4 3
      let z := if ty = 7 then 8 else if ty = 6 ∨ ty = 2 then 4 else 2
      let step := if bits c 32 16 = 0 then 64 * z else bits c 32 16
      let n := bits c 0 3
      let q := (s.panel p).tile n
      let wrong := fun (write : Bool) => bits c 48 16 ≠ 0 ∨ bits c 13 19 ≠ 0 ∨ bits c 7 1 ≠ 0 ∨ bits c 3 1 ≠ 0 ∨ bits c 8 3 = 5 ∨ bits c 8 3 = 6 ∨ ty = 0 ∨ ty = 1 ∨ ty = 3 ∨ (ty = 7 ∧ n % 2 = 1) ∨ (bits c 32 16 ≠ 0 ∧ bits c 32 16 < 64 * z)
        ∨ (write = true ∧ (bits c 8 3 ≠ 0 ∨ bits c 11 1 = 1 ∨ bits c 12 1 = 1))
      let at' := a.toNat % 2 ^ 48
      let clear := fun (write : Bool) => ¬ wrong write ∧ a.toNat % z = 0 ∧ bits c 32 16 % z = 0 ∧ s.inScratchpads a (63 * step + 64 * z) = true ∧ Claims.unheld s ∧ idle
      let home := ∀ k < 64, s.ownInFlight (at' + k * step) (64 * z) = false
      let fits := (q.tag = .fp32 ∧ (ty = 4 ∨ ty = 5 ∨ ty = 6)) ∨ (q.tag = .fp64 ∧ (ty = 6 ∨ ty = 7) ∧ n % 2 = 0) ∨ (q.tag = .i32 ∧ ty = 2)
      let e := if q.tag = .fp64 then 8 else 4
      let from' := if q.tag = .fp64 then fp64 else fp32
      let f' := if ty = 4 then fp16 else if ty = 5 then bf16 else if ty = 6 then fp32 else fp64
      let old := fun (k : Nat) => Mem.read s.accMem ((p * 8 + n) * 16384 + e * k) e
      let mode := (Rnd.ofCode (if bits c 8 3 = 7 then bits s.me.fcr 0 3 else bits c 8 3)).getD .rne
      let rounded := fun (x : Reg64) (k : Nat) => f'.round mode (bits c 12 1 == 1) x (from'.decode (old k))
      let drawn := fun (k : Nat) => if q.tag = .i32 then s.me.srs else (List.range k).foldl (fun x j => (rounded x j).srs) s.me.srs
      let new := fun (k : Nat) => if q.tag = .i32 then old k else (rounded (drawn k) k).bits
      let checks := (bits c 11 1 = 1 ∨ s.me.watch = true) ∧ q.tag ≠ .i32
      (∀ write j, ((write = false ∧ j = i) ∨ (write = true ∧ j = Instr.mxwr f)) → ready j s = true →
        (wrong write → exec j s = .next (s.trapMe j 0x01 (j.word.zeroExtend 64)))
        ∧ (¬ wrong write → a.toNat % z ≠ 0 → exec j s = .next (s.trapMe j 0x02 a))
        ∧ (¬ wrong write → a.toNat % z = 0 → bits c 32 16 % z = 0 → s.inScratchpads a (63 * step + 64 * z) = false → exec j s = .next (s.trapMe j 0x03 a)))
      ∧ (ready i s = true → clear false →
        (¬ home → exec i s = .next (s.mark .pending))
        ∧ (home → q.invalid = true → exec i s = .next ((s.putG t.toNat 0x310).commit i))
        ∧ (home → q.invalid = false → ¬ fits → exec i s = .next ((s.putG t.toNat 0x410).commit i))
        ∧ (home → q.invalid = false → fits → s.softErrors = [] →
          (¬ (checks ∧ ∃ k < 4096, f'.nonFinite (new k) = true) → s.spm.wf = true →
            ∃ u : State, exec i s = .next ((u.putG t.toNat 0).commit i) ∧ u.accMem = s.accMem ∧ u.panels = s.panels
              ∧ (∀ k < 4096, Mem.read u.spm (at' + k / 64 * step + k % 64 * z) z = new k)
              ∧ (∀ x, (∀ k < 64, x < at' + k * step ∨ at' + k * step + 64 * z ≤ x) → u.spm.get x = s.spm.get x)
              ∧ ((∀ o ∈ s.ops, ∀ b e y, o.kind ≠ .waitw b e y) → u.ops = s.ops ∧ u.me = { s.me with srs := drawn 4096 }))
          ∧ (checks → ∀ k < 4096, f'.nonFinite (new k) = true → (∀ j < k, f'.nonFinite (new j) = false) → exec i s = .next (s.trapMe i 0x09 (r64 k)))))
      ∧ (ready (.mxwr f) s = true → clear true → s.ownBusy at' (63 * step + 64 * z) = false → s.accMem.wf = true → s.softErrors = [] →
        let d := if ty = 7 then 8 else 4
        ∃ u : State, exec (.mxwr f) s = .next (u.commit (.mxwr f)) ∧ u.harts = s.harts ∧ u.spm = s.spm ∧ u.ops = s.ops
          ∧ (∀ k < 4096, let x := Mem.read (s.view s.cur) (at' + k / 64 * step + k % 64 * z) z
              Mem.read u.accMem ((p * 8 + n) * 16384 + d * k) d = if ty = 4 then (fp32.round .rne false 0 (fp16.decode x)).bits else if ty = 5 then (fp32.round .rne false 0 (bf16.decode x)).bits else x)
          ∧ (∀ x, (x < (p * 8 + n) * 16384 ∨ (p * 8 + n) * 16384 + 4096 * d ≤ x) → u.accMem.get x = s.accMem.get x)
          ∧ (u.panel p).tile n = { tag := if ty = 7 then .fp64 else if ty = 2 then .i32 else .fp32, invalid := false }))

/-- R361: MXRECT.FORM answers 1 for an id that is 0 or in use, 2 for a panel of another rectangle, 3 for one out of service, 4 for a shape
outside the cluster or without the issuer's panel, judged in the order 1, 4, 2, 3 by the model's choice (log 43), and else forms the rectangle for its task; MXRECT.FREE dissolves a rectangle its
task formed, once no operation of it is left; each traps on reserved bits. -/
def Obligations.Rectangles : Prop :=
  ∀ (s : State) (f t : BitVec 6),
    let v := s.getG f.toNat
    let p := panelOf s.cur
    let cl := p / 32
    let id := bits v 0 8
    let r0 := bits v 8 2
    let c0 := bits v 12 3
    let a := bits v 16 2 + 1
    let b := bits v 20 3 + 1
    let within := fun (r0 c0 a b q : Nat) => q / 32 = cl ∧ r0 ≤ q % 32 / 8 ∧ q % 32 / 8 < r0 + a ∧ c0 ≤ q % 8 ∧ q % 8 < c0 + b
    let fits := r0 + a ≤ 4 ∧ c0 + b ≤ 8
    let rects := (s.cluster cl).rects
    (ready (.mxrectForm f t) s = true →
      let wrong := bits v 23 41 ≠ 0 ∨ bits v 18 2 ≠ 0 ∨ bits v 15 1 ≠ 0 ∨ bits v 10 2 ≠ 0
      let answers := fun (u : State) (n : Nat) => exec (.mxrectForm f t) s = .next ((u.putG t.toNat (r64 n)).commit (.mxrectForm f t))
      let taken := id = 0 ∨ Tab.get? rects id ≠ none
      let clash := ∃ r ∈ rects, r.2.2.1 + r.2.2.2.2.1 ≤ 4 ∧ r.2.2.2.1 + r.2.2.2.2.2 ≤ 8 ∧ ∃ q, within r0 c0 a b q ∧ within r.2.2.1 r.2.2.2.1 r.2.2.2.2.1 r.2.2.2.2.2 q
      let lost := ∃ q ∈ s.panelsOut, within r0 c0 a b q
      (∀ r ∈ rects, r.2.2.1 + r.2.2.2.2.1 ≤ 4 ∧ r.2.2.2.1 + r.2.2.2.2.2 ≤ 8) →
      (wrong → exec (.mxrectForm f t) s = .next (s.trapMe (.mxrectForm f t) 0x01 ((Instr.mxrectForm f t).word.zeroExtend 64)))
      ∧ (¬ wrong → taken → answers s 1)
      ∧ (¬ wrong → ¬ taken → fits → within r0 c0 a b p → clash → answers s 2)
      ∧ (¬ wrong → ¬ taken → fits → within r0 c0 a b p → ¬ clash → lost → answers s 3)
      ∧ (¬ wrong → ¬ taken → ¬ (fits ∧ within r0 c0 a b p) → answers s 4)
      ∧ (¬ wrong → ¬ taken → fits → within r0 c0 a b p → ¬ clash → ¬ lost → answers (s.modCluster cl (fun c => { c with rects := Tab.set c.rects id (s.me.uid, r0, c0, a, b) })) 0))
    ∧ (ready (.mxrectFree f t) s = true → cl = clusterOf s.cur →
      let answers := fun (u : State) (n : Nat) => exec (.mxrectFree f t) s = .next ((u.putG t.toNat (r64 n)).commit (.mxrectFree f t))
      (2 ^ 8 ≤ v.toNat → exec (.mxrectFree f t) s = .next (s.trapMe (.mxrectFree f t) 0x01 ((Instr.mxrectFree f t).word.zeroExtend 64)))
      ∧ (v.toNat < 2 ^ 8 → (∀ r, Tab.get? rects id = some r → r.1 ≠ s.me.uid) → answers s 1)
      ∧ (∀ r, v.toNat < 2 ^ 8 → Tab.get? rects id = some r → r.1 = s.me.uid →
          (s.rectBusy cl id = true → exec (.mxrectFree f t) s = .next (s.mark .tile))
          ∧ (s.rectBusy cl id = false → answers (s.modCluster cl (fun c => { c with rects := Tab.erase c.rects id })) 0)))

/-- R365, R368: QNT checks its block's place and sends one command; the engine takes a slot's commands in order into a queue of 32 with
the block read then, ends one at once with code 12 while it is halted, and goes on with a .RESTART; the engine takes the oldest
command and, where no operation is on its tile, takes that tile at once, marking it invalid if the command is in error, both then by the
model's choice (log 47); a command with a
reserved bit ends with code 8, halts the queue, writes nothing, and ends every command behind it with code 12. -/
def Sys2Proof.Claims.QuantisationQueue : Prop :=
  ∀ (s : State),
    (∀ (f t : BitVec 6) (r : BitVec 1), let i := Instr.qnt f t r
      let a := s.getG f.toNat
      ready i s = true →
      (a.toNat % 64 ≠ 0 → exec i s = .next (s.trapMe i 0x02 a))
      ∧ (a.toNat % 64 = 0 → s.inScratchpads a 64 = false → exec i s = .next (s.trapMe i 0x03 a))
      ∧ (a.toNat % 64 = 0 → s.inScratchpads a 64 = true → Claims.buffered s → ∃ u : State, ∃ o : Op, exec i s = .next (u.commit i) ∧ u.ops = s.ops ++ [o] ∧ o.id = s.nextId ∧ o.owner = s.cur ∧ o.stage = 0 ∧ o.buf = true
          ∧ o.kind = .qnt (a.toNat % 2 ^ 48) (r == 1) [] [] ∧ o.off = (if t = 0 then none else some (s.me.gBase + 8 * t.toNat)) ∧ u.me.win = s.me.win ∧ u.spm = s.spm))
    ∧ (∀ (id : Nat) (o : Op) (a : Nat) (r : Bool), s.op? id = some o → o.id = id → o.kind = .qnt a r [] [] → o.stage = 0 → s.ops = [o] → s.softErrors = [] →
        let c := s.cluster o.cluster
        let read : Op := { o with stage := 1, buf := false, kind := .qnt a r ((List.range 8).map (fun j => r64 (Mem.read s.spm (a + 8 * j) 8))) [] }
        (c.qntQ.length < 32 → (c.qntHalt = false ∨ r = true) → exec (.qntAcceptance id) s = .next ((s.setOp read).modCluster o.cluster (fun c => { c with qntQ := c.qntQ ++ [id], qntHalt := false })))
        ∧ (c.qntQ.length < 32 → c.qntHalt = true → r = false → ∀ off, o.off = some off → (s.slot o.owner).live = true → (s.slot o.owner).uid = o.task → (s.slot o.owner).win.wf = true →
            ∃ t : State, exec (.qntAcceptance id) s = .next t ∧ t.ops = [] ∧ Claims.holdsAt (t.slot o.owner).win (s.slot o.owner).win off 8 0xC10 ∧ t.spm = s.spm))
    ∧ (∀ (cl id : Nat) (o : Op) (a : Nat) (r : Bool) (w : List Reg64) (l : List Nat), s.op? id = some o → o.id = id → o.kind = .qnt a r w [] → o.status ≠ 7 →
        let tile := fun (t : State) => (t.panel (cl * 32 + bits (w.getD 0 0) 16 5)).tile (bits (w.getD 0 0) 24 3)
        ((s.cluster cl).qntRun = none → (s.cluster cl).qntQ = id :: l → ∃ t : State, exec (.qntCommandStart cl) s = .next t ∧ (t.cluster cl).qntRun = some id ∧ (t.cluster cl).qntQ = l ∧ t.harts = s.harts ∧ t.accMem = s.accMem
          ∧ (bits (w.getD 0 0) 0 1 = 0 → s.panelsOut = [] → (∀ e ∈ s.ops, ∀ p v v1 m q, e.kind ≠ .mx p v v1 m q) →
              (bits (w.getD 0 0) 48 16 ≠ 0 → tile t = { tile s with invalid := true })
              ∧ ∃ e, t.op? id = some e ∧ e.reply.tail = (List.range 4096).map (fun k => r64 (Mem.read s.accMem (((cl * 32 + bits (w.getD 0 0) 16 5) * 8 + bits (w.getD 0 0) 24 3) * 16384 + 4 * k) 4))))
        ∧ (∀ behind : List Op, (s.cluster cl).qntRun = some id → s.ops = o :: behind → (s.cluster cl).qntQ = behind.map (fun b => b.id) → (s.ops.map (fun b => b.id)).Nodup →
            (∀ b ∈ s.ops, ∀ e ∈ s.ops, ∀ m n, b.off = some m → e.off = some n → b.owner = e.owner → b.id ≠ e.id → m + 8 ≤ n ∨ n + 8 ≤ m) →
            s.softErrors = [] → bits (w.getD 0 0) 48 16 ≠ 0 → bits (w.getD 0 0) 0 1 = 0 → s.panelsOut = [] →
            ∃ t : State, exec (.qntCommandCompletion cl) s = .next t ∧ t.ops = [] ∧ (t.cluster cl).qntHalt = true ∧ (t.cluster cl).qntRun = none ∧ (t.cluster cl).qntQ = [] ∧ t.spm = s.spm ∧ t.ext = s.ext ∧ tile t = tile s
              ∧ ∀ b ∈ s.ops, ∀ off, b.off = some off → (s.slot b.owner).live = true → (s.slot b.owner).uid = b.task → (s.slot b.owner).win.wf = true →
                Mem.read (t.slot b.owner).win off 8 = (if b.id = id then 0x810 else 0xC10)
                ∧ ((∀ e ∈ s.ops, e.owner = b.owner → e.id = b.id) → Claims.holdsAt (t.slot b.owner).win (s.slot b.owner).win off 8 (if b.id = id then 0x810 else 0xC10))))

/-- R366, R367, R39, R41, R44: a command with a scratchpad source, or with the tile it took, writes each BS8 block's scale and elements to
their places in the runs from dst, or each row's granule of PEF8 at dst + 64i: the scale is 0xFF where an element is not finite, 127 where
all are zero, else the greatest floor of log2 plus 119, kept within 0 and 254, and each element is rounded to FP8E4 with SAT under it, and
for PEF8 fitted; the granule of a scale 0xFF is that scale alone; no byte outside its range changes; the command ends with 0. -/
def Sys2Proof.Claims.QuantisationResults : Prop :=
  ∀ (s : State) (cl id : Nat) (o : Op) (a : Nat) (r : Bool) (w : List Reg64) (src dst : Nat), s.op? id = some o → o.id = id → s.ops = [o] → o.cluster = cl → o.kind = .qnt a r w [] → (s.cluster cl).qntRun = some id →
    s.softErrors = [] → s.coresOut = [] → (∀ d < 4, s.joined (dieOf o.owner) d = true) → s.panelsOut = [] → Claims.unwritten s → s.spm.wf = true → o.status ≠ 7 →
    let c := w.getD 0 0
    let cols := bits c 40 8
    let rows := bits c 32 8
    let rnd := bits c 12 3
    let pads := bits c 0 1 = 1
    let z := if bits c 4 4 = 5 then 2 else 4
    let stride := (w.getD 2 0).toNat
    let n := rows * cols / 32
    let run := fun (q : Nat) => (dst / 2 ^ 16 + (dst % 2 ^ 16 / 2112 + q) / 31) * 2 ^ 16 + (dst % 2 ^ 16 / 2112 + q) % 31 * 2112
    let last := (n + 63) / 64
    w.length = 8 → (∀ k, 4 ≤ k → w.getD k 0 = 0) → bits c 48 16 = 0 → bits c 27 5 = 0 → bits c 21 3 = 0 → bits c 15 1 = 0 → bits c 1 3 = 0 → rnd < 5 →
    0 < rows → rows ≤ 64 → s.address (w.getD 3 0) = some (dst, none) → s.holds o.pid cl = true → dst / 2 ^ 24 = cl → onChip dst = true →
    (pads → (bits c 4 4 = 7 ∨ bits c 4 4 = 5) ∧ s.address (w.getD 1 0) = some (src, none) ∧ (w.getD 1 0).toNat % z = 0 ∧ stride % z = 0 ∧ src / 2 ^ 24 = cl ∧ src + (rows - 1) * stride + cols * z ≤ (cl + 1) * 2 ^ 24 ∧ onChip src = true) →
    (¬ pads → bits c 4 4 = 0 ∧ w.getD 1 0 = 0 ∧ w.getD 2 0 = 0 ∧ o.reply.getD 0 0 = 0) →
    let x := fun (i k : Nat) => if pads then (if z = 2 then bf16 else fp32).decode (Mem.read s.spm (src + i * stride + k * z) z) else fp32.decode (o.reply.getD (1 + 64 * i + k) 0).toNat
    let bad := fun (y : XNum) => match y with | .nan _ | .inf _ => true | _ => false
    let tops := fun (l : List XNum) => l.filterMap (fun y => match y with | .fin _ m e => some ((Nat.log2 m : Int) + e) | _ => none)
    let scale := fun (l : List XNum) => if l.any bad = true then 255 else if tops l = [] then 127 else (min 254 (max 0 ((tops l).foldl max (-10000) + 119))).toNat
    let elem := fun (l : List XNum) (y : XNum) => if l.any bad = true then 0 else (fp8e4.round ((Rnd.ofCode rnd).getD .rne) true 0 (y.scale (127 - (scale l : Int)))).bits
    let block := fun (b : Nat) => (List.range 32).map (fun j => x ((32 * b + j) / cols) ((32 * b + j) % cols))
    let row := fun (i : Nat) => (List.range 64).map (x i)
    ∀ off, o.off = some off → (s.slot o.owner).live = true → (s.slot o.owner).uid = o.task → (s.slot o.owner).win.wf = true →
      let ends := fun (t : State) => exec (.qntCommandCompletion cl) s = .next t ∧ t.ops = [] ∧ (t.cluster cl).qntRun = none ∧ t.ext = s.ext ∧ t.accMem = s.accMem ∧ Claims.holdsAt (t.slot o.owner).win (s.slot o.owner).win off 8 0
      (bits c 8 4 = 3 → (cols = 32 ∨ cols = 64) → dst % 2 ^ 16 % 2112 = 0 → dst % 2 ^ 16 < 65472 → run last ≤ (cl + 1) * 2 ^ 24 →
        ∃ t : State, ends t
          ∧ (∀ b < n, (t.spm.get (run (b / 64) + b % 64)).toNat = scale (block b) ∧ ∀ j < 32, (t.spm.get (run (b / 64) + 64 + 32 * (b % 64) + j)).toNat = elem (block b) ((block b).getD j (.zero false)))
          ∧ (∀ y, (y < dst ∨ run last ≤ y) → t.spm.get y = s.spm.get y))
      ∧ (bits c 8 4 = 4 → cols = 64 → dst % 64 = 0 → dst + 64 * rows ≤ (cl + 1) * 2 ^ 24 →
        ∃ t : State, ends t
          ∧ (∀ i < rows, Mem.read t.spm (dst + 64 * i) 64 = if (row i).any bad = true then 0xFF else encodePef8 (scale (row i)) ((row i).map (elem (row i))))
          ∧ (∀ y, (y < dst ∨ dst + 64 * rows ≤ y) → t.spm.get y = s.spm.get y))

/-- The quantisation queue and the bytes its commands write: `Claims.QuantisationQueue` and `Claims.QuantisationResults`. -/
def Obligations.Quantisation : Prop := Claims.QuantisationQueue ∧ Claims.QuantisationResults

/-- R62, R68, R184, R289: elements written to a storage register change the bytes of these elements and nothing else, and leave as bad the
words of the window they do not touch; elements written to an
outbound vector port enter the neighbour's queue as one value that is 0 elsewhere. -/
def Obligations.VectorElementWrites : Prop :=
  ∀ (s : State) (d e : Nat) (l : List (Nat × Nat)), let w := 8 * 2 ^ e
    e < 4 → (∀ p ∈ l, p.1 < 2048 / w ∧ p.2 < 2 ^ w) → (l.map (fun p => p.1)).Nodup →
    (d < 28 → s.me.win.wf = true → ∃ m : Mem, s.putElems d w l = s.modMe (fun x => { x with win := m, bad := x.bad.filter (fun b => l.all (fun p => decide (b + 4 ≤ x.vBase + 256 * d + p.1 * (w / 8)) || decide (x.vBase + 256 * d + (p.1 + 1) * (w / 8) ≤ b))) })
      ∧ (∀ i < 2048 / w, Mem.read m (s.me.vBase + 256 * d + i * (w / 8)) (w / 8) = (match l.find? (fun p => p.1 == i) with | some p => p.2 | none => Mem.read s.me.win (s.me.vBase + 256 * d + i * (w / 8)) (w / 8)))
      ∧ ∀ o, (o < s.me.vBase + 256 * d ∨ s.me.vBase + 256 * d + 256 ≤ o) → m.get o = s.me.win.get o)
    ∧ (∀ c sl cl, c < 256 → sl < 4 → cl < 64 → s.cur = (cl * 256 + c) * 5 + sl →
        (∃ v, s.putElems 30 w l = s.modSlot ((cl * 256 + (c + 1) % 256) * 5 + sl) (fun x => { x with vq0 := x.vq0 ++ [v] }) ∧ ∀ i < 2048 / w, v / 2 ^ (w * i) % 2 ^ w = (match l.find? (fun p => p.1 == i) with | some p => p.2 | none => 0))
        ∧ (∃ v, s.putElems 31 w l = s.modSlot ((cl * 256 + (c + 255) % 256) * 5 + sl) (fun x => { x with vq1 := x.vq1 ++ [v] }) ∧ ∀ i < 2048 / w, v / 2 ^ (w * i) % 2 ^ w = (match l.find? (fun p => p.1 == i) with | some p => p.2 | none => 0)))

/-- R188: the results of the vector integer operations on the active elements, wrapped, or clamped with SAT. -/
def Obligations.VectorIntegerResults : Prop :=
  ∀ (s : State) (d a b : BitVec 5) (k t : BitVec 3) (q : BitVec 1),
    let w := Claims.intWidth t
    let x := fun (i : Nat) => Claims.lane w (s.getV a.toNat) i
    let y := fun (i : Nat) => Claims.lane w (s.getV b.toNat) i
    let writes := fun (i : Instr) (f : Nat → BitVec w) => ready i s = true →
      exec i s = .next ((s.putElems d.toNat w ((Claims.active s k.toNat w).map (fun e => (e, (f e).toNat)))).commit i)
    writes (.vadd d a b k t q) (fun e => Claims.narrowed w q ((x e).toInt + (y e).toInt))
    ∧ writes (.vsub d a b k t q) (fun e => Claims.narrowed w q ((x e).toInt - (y e).toInt))
    ∧ writes (.vmul d a b k t q) (fun e => Claims.narrowed w q ((x e).toInt * (y e).toInt))
    ∧ writes (.vabs d a k t q) (fun e => Claims.narrowed w q ((x e).toInt.natAbs : Int))
    ∧ writes (.vmulh d a b k t) (fun e => BitVec.ofInt w ((x e).toInt * (y e).toInt / 2 ^ w))
    ∧ writes (.vmin d a b k t) (fun e => if (x e).sle (y e) then x e else y e)
    ∧ writes (.vmax d a b k t) (fun e => if (x e).sle (y e) then y e else x e)
    ∧ writes (.vminn d a b k t) (fun e => if (x e).ule (y e) then x e else y e)
    ∧ writes (.vmaxn d a b k t) (fun e => if (x e).ule (y e) then y e else x e)
    ∧ writes (.vand d a b k t) (fun e => x e &&& y e) ∧ writes (.vor d a b k t) (fun e => x e ||| y e) ∧ writes (.vxor d a b k t) (fun e => x e ^^^ y e)
    ∧ writes (.vshl d a b k t) (fun e => x e <<< ((y e).toNat % w))
    ∧ writes (.vshr d a b k t) (fun e => x e >>> ((y e).toNat % w))
    ∧ writes (.vsar d a b k t) (fun e => (x e).sshiftRight ((y e).toNat % w))

/-- R190, R191, R192, R186, R50: the results of the vector floating-point operations: one rounding of the exact value an element, in
ascending order, under the mode of fcr; minimumNumber and maximumNumber and the sign operations do not round; flags are ORed into fcr,
and a watched launch traps at the lowest element whose result is not finite; VFCLASS writes one class bit an element. -/
def Obligations.VectorFloatResults : Prop :=
  ∀ (s : State) (d a b : BitVec 5) (k t : BitVec 3) (q : BitVec 1), 4 ≤ t.toNat →
    let f := Claims.fpFmt t
    let w := f.width
    let x := fun (i : Nat) => s.getV a.toNat / 2 ^ (w * i) % 2 ^ w
    let y := fun (i : Nat) => s.getV b.toNat / 2 ^ (w * i) % 2 ^ w
    let z := fun (i : Nat) => s.getV d.toNat / 2 ^ (w * i) % 2 ^ w
    let down := s.me.mode == .rdn
    let rounds := fun (i : Instr) (e : Nat → Exact) => ready i s = true →
      Claims.delivers s i d.toNat w f (Claims.inOrder (fun n u => let r := f.round s.me.mode (q == 1) u (e n).1; ⟨r.bits, (e n).2.or r.flags, r.srs⟩) (Claims.active s k.toNat w) s.me.srs)
    let keeps := fun (i : Instr) (e : Nat → Nat × Flags) => ready i s = true →
      Claims.delivers s i d.toNat w f (Claims.inOrder (fun n u => ⟨(e n).1, (e n).2, u⟩) (Claims.active s k.toNat w) s.me.srs)
    rounds (.vfadd d a b k t q) (fun n => exactSum down [f.decode (x n), f.decode (y n)])
    ∧ rounds (.vfsub d a b k t q) (fun n => exactSum down [f.decode (x n), (f.decode (y n)).neg])
    ∧ rounds (.vfmul d a b k t q) (fun n => exactMul (f.decode (x n)) (f.decode (y n)))
    ∧ rounds (.vfdiv d a b k t q) (fun n => exactDiv (f.decode (x n)) (f.decode (y n)))
    ∧ rounds (.vfsqrt d a k t q) (fun n => exactSqrt (f.decode (x n)))
    ∧ rounds (.vfma d a b k t q) (fun n => exactFma down (f.decode (x n)) (f.decode (y n)) (f.decode (z n)))
    ∧ rounds (.vfms d a b k t q) (fun n => exactFma down (f.decode (x n)) (f.decode (y n)) (f.decode (z n)).neg)
    ∧ rounds (.vfnma d a b k t q) (fun n => exactFma down (f.decode (x n)).neg (f.decode (y n)) (f.decode (z n)))
    ∧ keeps (.vfmin d a b k t) (fun n => let e := Claims.extreme f false (x n) (y n); (e.1, { nv := e.2 })) ∧ keeps (.vfmax d a b k t) (fun n => let e := Claims.extreme f true (x n) (y n); (e.1, { nv := e.2 }))
    ∧ keeps (.vfabs d a k t) (fun n => (x n % 2 ^ (w - 1), {})) ∧ keeps (.vfneg d a k t) (fun n => ((x n + 2 ^ (w - 1)) % 2 ^ w, {}))
    ∧ (ready (.vfclass d a k t) s = true → exec (.vfclass d a k t) s = .next ((s.putElems d.toNat w ((Claims.active s k.toNat w).map (fun n => (n, 2 ^ Claims.classOf f (x n))))).commit (.vfclass d a k t)))

/-- R46, R47, R54: a value a format holds is rounded to itself under every mode, with no flag. -/
def Obligations.RoundingOfRepresentable : Prop :=
  ∀ (f : Fmt), f ∈ [fp8e4, fp8e5, fp16, bf16, fp32, fp64] → ∀ (m : Rnd) (q : Reg64) (x : Nat), x < 2 ^ f.width → (f.decode x).isNan = false →
    (f.round m false q (f.decode x)).bits = x ∧ (f.round m false q (f.decode x)).flags = {}

/-- R194: a compare writes one bit for each granule with an active element, 1 where every active element of the granule compares true,
and leaves the other bits; floating-point compares are false with a NaN; VFCEQ raises NV for a signalling NaN of an active element, VFCLT
and VFCLE for any NaN, and the integer compares raise nothing. R195: the mask operations. -/
def Obligations.ComparesAndMasks : Prop :=
  ∀ (s : State),
    (∀ (d a b : BitVec 5) (k t : BitVec 3),
      let w := if t.toNat < 4 then Claims.intWidth t else (Claims.fpFmt t).width
      let x := fun (i : Nat) => Claims.lane w (s.getV a.toNat) i
      let y := fun (i : Nat) => Claims.lane w (s.getV b.toNat) i
      let f := Claims.fpFmt t
      let on := Claims.active s k.toNat w
      let nan := fun (e : Nat) => (f.decode (x e).toNat).isNan = true ∨ (f.decode (y e).toNat).isNan = true
      let signals := fun (e : Nat) => f.decode (x e).toNat = .nan true ∨ f.decode (y e).toNat = .nan true
      let compares := fun (i : Instr) (p : Nat → Bool) (nv : Nat → Prop) => ready i s = true →
        ∃ m fl, exec i s = .next (((s.putK d.toNat m).withFlags fl s.me.srs).commit i) ∧ fl = { nv := fl.nv } ∧ (fl.nv = true ↔ ∃ e ∈ on, nv e)
          ∧ ∀ j < 64, m.testBit j = (if ∃ e ∈ on, Claims.granule e w = j then decide (∀ e ∈ on, Claims.granule e w = j → p e = true) else (s.getK d.toNat).testBit j)
      let fp := fun (p : XNum → XNum → Bool) (e : Nat) => !(f.decode (x e).toNat).isNan && !(f.decode (y e).toNat).isNan && p (f.decode (x e).toNat) (f.decode (y e).toNat)
      let none := fun (_ : Nat) => False
      compares (.vceq d a b k t) (fun e => x e == y e) none ∧ compares (.vcne d a b k t) (fun e => x e != y e) none
      ∧ compares (.vclt d a b k t) (fun e => (x e).slt (y e)) none ∧ compares (.vcle d a b k t) (fun e => (x e).sle (y e)) none
      ∧ compares (.vfceq d a b k t) (fp numEq) signals ∧ compares (.vfclt d a b k t) (fp numLt) nan ∧ compares (.vfcle d a b k t) (fp numLe) nan)
    ∧ (∀ (d a b : BitVec 5),
      let x : BitVec 64 := BitVec.ofNat 64 (s.getK a.toNat)
      let y : BitVec 64 := BitVec.ofNat 64 (s.getK b.toNat)
      let mask := fun (i : Instr) (v : BitVec 64) => ready i s = true → exec i s = .next ((s.putK d.toNat v.toNat).commit i)
      let reg := fun (i : Instr) (v : BitVec 64) => ready i s = true → exec i s = .next ((s.putG d.toNat v).commit i)
      mask (.kand d a b) (x &&& y) ∧ mask (.kor d a b) (x ||| y) ∧ mask (.kxor d a b) (x ^^^ y) ∧ mask (.knot d a) (~~~x) ∧ mask (.kmovK d a) x ∧ mask (.kmovKg d a) (s.getG a.toNat)
      ∧ reg (.kmovG d a) x ∧ reg (.kpop d a) (r64 ((List.range 64).filter (fun i => x.getLsbD i)).length) ∧ reg (.kfirst d a) (Claims.zerosBefore 64 (fun i => x.getLsbD i)))

/-- R197, R198, R199, R200, R201, R202, R219: what the instructions that move elements write: broadcasts, slides, selection by index,
packing and unpacking, merges and copies, one element read or written, and the position of each element in another vector. -/
def Obligations.VectorMoves : Prop :=
  ∀ (s : State) (d a b : BitVec 5) (k t : BitVec 3) (c : BitVec 6) (k2 : BitVec 2),
    let w := Claims.elemBits t
    let x := Claims.at0 w (s.getV a.toNat)
    let y := Claims.at0 w (s.getV b.toNat)
    let vl := 32 * s.me.grant / w
    let on := Claims.active s k.toNat w
    let n := (s.getG b.toNat).toNat
    let writes := fun (i : Instr) (l : List (Nat × Nat)) => ready i s = true → exec i s = .next ((s.putElems d.toNat w l).commit i)
    writes (.vbcast d a k t) (on.map (fun i => (i, (s.getG a.toNat).toNat % 2 ^ w)))
    ∧ (c.toNat < 32 → t.toNat < 4 → writes (.vbcastConstant d c k2 t) ((Claims.active s k2.toNat w).map (fun i => (i, (BitVec.ofInt w (Claims.constants.getD c.toNat 0)).toNat))))
    ∧ (c.toNat < 32 → 4 ≤ t.toNat → writes (.vbcastConstant d c k2 t) ((Claims.active s k2.toNat w).map (fun i => (i, ((Claims.fpFmt t).round .rne false 0 (XNum.ofInt false (Claims.constants.getD c.toNat 0) 0)).bits % 2 ^ w))))
    ∧ (32 ≤ c.toNat → writes (.vbcastConstant d c k2 t) ((Claims.active s k2.toNat w).map (fun i => (i, constFp t.toNat c.toNat % 2 ^ w))))
    ∧ writes (.vslideup d a b k t) ((on.filter (fun i => n ≤ i)).map (fun i => (i, x (i - n))))
    ∧ writes (.vslidedn d a b k t) (on.map (fun i => (i, if i + n < vl then x (i + n) else 0)))
    ∧ writes (.vperm d a b k t) (on.map (fun i => (i, if y i < vl then x (y i) else 0)))
    ∧ writes (.vcomp d a k t) ((List.range vl).map (fun i => (i, (on.map x).getD i 0)))
    ∧ writes (.vexpd d a k t) ((List.range vl).map (fun i => (i, if i ∈ on then x (on.filter (fun j => j < i)).length else 0)))
    ∧ writes (.vmerge d a b k t) ((List.range vl).map (fun i => (i, if i ∈ on then x i else y i)))
    ∧ writes (.vmov d a k t) (on.map (fun i => (i, x i)))
    ∧ writes (.vins d a b k t) (if n ∈ on then [(n, (s.getG a.toNat).toNat % 2 ^ w)] else [])
    ∧ writes (.visect d a b k t) (on.map (fun i => (i, ((List.range vl).find? (fun j => y j == x i)).getD (2 ^ w - 1))))
    ∧ (ready (.vextr d a b t) s = true → exec (.vextr d a b t) s =
        .next ((s.putG d.toNat (if n < vl then (if t.toNat < 4 then (BitVec.ofNat w (x n)).signExtend 64 else (BitVec.ofNat w (x n)).zeroExtend 64) else 0)).commit (.vextr d a b t)))

/-- R59, R60, R203, R204: the sums and extremes of the active elements go to element 0 of the destination: integers wrapped, and
floating-point elements added in ascending order with one rounding each, or over the fixed tree; with none active the sums are 0 and
the extremes the least or greatest value; a signalling NaN among them raises NV in an extreme, the only element too, which stays as it is by
the model's choice (log 28). -/
def Obligations.VectorReductions : Prop :=
  ∀ (s : State) (d a : BitVec 5) (k t : BitVec 3),
    let w := Claims.elemBits t
    let f := Claims.fpFmt t
    let on := Claims.active s k.toNat w
    let l := on.map (Claims.at0 w (s.getV a.toNat))
    let least := 2 ^ (w - 1)
    let writes := fun (i : Instr) (v : Nat) => ready i s = true → exec i s = .next (((s.putElems d.toNat w [(0, v)]).withFlags {} s.me.srs).commit i)
    let rounds := fun (i : Instr) (r : Rounded) => ready i s = true → Claims.delivers s i d.toNat w f ([(0, r.bits)], r.flags, r.srs)
    let add := fun (q : Reg64) (x y : Nat) => let e := exactSum (s.me.mode == .rdn) [f.decode x, f.decode y]; let r := f.round s.me.mode false q e.1; (⟨r.bits, e.2.or r.flags, r.srs⟩ : Rounded)
    let pick := fun (m : Bool) (q : Reg64) (x y : Nat) => (⟨(Claims.extreme f m x y).1, { nv := (Claims.extreme f m x y).2 }, q⟩ : Rounded)
    (t.toNat < 4 →
      writes (.vrsum d a k t) (l.sum % 2 ^ w) ∧ writes (.vrtsum d a k t) (l.sum % 2 ^ w)
      ∧ writes (.vrmax d a k t) (l.foldl (fun x y => if (BitVec.ofNat w x).sle (BitVec.ofNat w y) then y else x) least)
      ∧ writes (.vrmin d a k t) (l.foldl (fun x y => if (BitVec.ofNat w x).sle (BitVec.ofNat w y) then x else y) (least - 1)))
    ∧ (4 ≤ t.toNat → on = [] →
      writes (.vrsum d a k t) 0 ∧ writes (.vrtsum d a k t) 0 ∧ writes (.vrmax d a k t) (f.inf true) ∧ writes (.vrmin d a k t) (f.inf false))
    ∧ (4 ≤ t.toNat → ∀ x m, l = x :: m →
      let extreme := fun (g : Bool) => let r := Claims.sequence (pick g) x s.me.srs m; ({ r with flags := r.flags.or { nv := l.any (fun v => Claims.snan (f.decode v)) } } : Rounded)
      rounds (.vrsum d a k t) (Claims.sequence add x s.me.srs m) ∧ rounds (.vrmax d a k t) (extreme true) ∧ rounds (.vrmin d a k t) (extreme false)
      ∧ (s.me.mode ≠ .rsto → let root := Claims.node (fun x y => ((add s.me.srs x y).bits, (add s.me.srs x y).flags)) (fun i => if i ∈ on then some (Claims.at0 w (s.getV a.toNat) i) else none) (11 - Nat.log2 w) 0
          rounds (.vrtsum d a k t) ⟨root.1.getD 0, root.2, s.me.srs⟩)
      ∧ rounds (.vrtsum d a k t) (redTree add (Nat.log2 (2048 / w)) ((List.range (2048 / w)).map (fun i => if i ∈ on then some (Claims.at0 w (s.getV a.toNat) i) else none)) s.me.srs))

/-- R55, R205, R206, R207, R208, R209, R414: VCVT converts each element between the integer and floating-point formats, narrowing with or without
saturation; that a value is out of an integer format's range before it is rounded or after, in every mode, is the model's choice (log 26); VPACK narrows the elements of two registers into one; VUNPK widens one half of a register exactly. -/
def Obligations.VectorConversions : Prop :=
  ∀ (s : State) (d a b : BitVec 5) (k t r : BitVec 3) (q z h : BitVec 1) (e : BitVec 4) (x : BitVec 2),
    let ws := Claims.elemBits t
    let sw := fun (n : Nat) => Claims.at0 ws (s.getV a.toNat) n
    let signed := fun (w v : Nat) => (BitVec.ofNat w v).toInt
    let plain := fun (i : Instr) (w : Nat) (l : List (Nat × Nat)) => ready i s = true → exec i s = .next ((s.putElems d.toNat w l).commit i)
    let mode := s.me.modeOf r.toNat
    (let wd := cvtWidth e.toNat
     let on := Claims.active s k.toNat (max ws wd)
     let i := Instr.vcvt d a q e k t r
     (t.toNat < 4 → (e.toNat < 4 ∨ 8 ≤ e.toNat ∧ e.toNat < 12) → ready i s = true → exec i s =
        .next (((s.putElems d.toNat wd (on.map (fun n => let v := signed ws (sw n); (n, (BitVec.ofInt wd (if q = 0 then v else if e.toNat < 4 then Claims.clamp wd v else max 0 (min (2 ^ wd - 1) v))).toNat)))).withFlags {} s.me.srs).commit i))
     ∧ (t.toNat < 4 → ∀ f, cvtFmt e.toNat = some f → ready i s = true → Claims.delivers s i d.toNat wd f (Claims.inOrder (fun n u => f.round (if ws < wd then .rne else mode) false u (XNum.ofInt false (signed ws (sw n)) 0)) on s.me.srs))
     ∧ (4 ≤ t.toNat → ∀ f, cvtFmt e.toNat = some f → ready i s = true → Claims.delivers s i d.toNat wd f (Claims.inOrder (fun n u => f.round mode (q == 1) u ((Claims.fpFmt t).decode (sw n))) on s.me.srs))
     ∧ (4 ≤ t.toNat → (e.toNat < 4 ∨ 8 ≤ e.toNat ∧ e.toNat < 12) → ready i s = true →
        let v := Claims.inOrder (fun n u => Claims.converted (decide (e.toNat < 4)) wd mode u ((Claims.fpFmt t).decode (sw n))) on s.me.srs
        exec i s = .next (((s.putElems d.toNat wd v.1).withFlags v.2.1 v.2.2).commit i)))
    ∧ (let n := 32 * s.me.grant / (2 * ws)
       let from2 := fun (j : Nat) => if j < n then Claims.at0 (2 * ws) (s.getV a.toNat) j else Claims.at0 (2 * ws) (s.getV b.toNat) (j - n)
       let on := (List.range (2 * n)).filter (fun j => (s.getK k.toNat).testBit (Claims.granule j ws))
       (t.toNat < 4 → plain (.vpack d a b k t r) ws (on.map (fun j => (j, from2 j % 2 ^ ws))))
       ∧ (4 ≤ t.toNat → ready (.vpack d a b k t r) s = true → Claims.delivers s (.vpack d a b k t r) d.toNat ws (Claims.fpFmt t)
          (Claims.inOrder (fun j u => (Claims.fpFmt t).round mode false u ((if t = 6 then fp64 else fp32).decode (from2 j))) on s.me.srs)))
    ∧ (let n := 32 * s.me.grant / (2 * ws)
       let half := fun (j : Nat) => sw (h.toNat * n + j)
       let on := Claims.active s k.toNat (2 * ws)
       let i := Instr.vunpk d a x z h k t
       (t.toNat < 4 → x = 0 → plain i (2 * ws) (on.map (fun j => (j, if z = 1 then half j else (BitVec.ofInt (2 * ws) (signed ws (half j))).toNat))))
       ∧ (∀ f g, ((x = 1 ∧ f = fp8e4 ∧ g = fp16) ∨ (x = 2 ∧ f = fp8e5 ∧ g = fp16) ∨ (x = 0 ∧ t = 4 ∧ f = fp16 ∧ g = fp32) ∨ (x = 0 ∧ t = 5 ∧ f = bf16 ∧ g = fp32) ∨ (x = 0 ∧ t = 6 ∧ f = fp32 ∧ g = fp64)) → ready i s = true →
          Claims.delivers s i d.toNat (2 * ws) g (Claims.inOrder (fun j u => ⟨(g.round .rne false u (f.decode (half j))).bits, (g.round .rne false u (f.decode (half j))).flags, u⟩) on s.me.srs)))

/-- R210, R211, R212, R213, R214: the vector loads read the little-endian bytes of each active element at its address, contiguous, strided
or indexed, or, where the agenda's next turn says so, leave element by element, with the words they fill pending (log 5); on a nib VLD and VST reach its local store, all elements that remain at one step or, before an event, one after the other in turns of their own that check nothing again and are not stopped, so that other accesses may come between two (R185, R336; log 5); the vector stores leave as one store of these elements (VSTXC of the first of each group of
equal addresses, marking the others in its mask), and by the model's choice (log 29) as nothing where no element is stored; a base or stride that is not aligned takes cause 0x02, and an element refused by the
checks of a scalar access takes its cause at the lowest such address. -/
def Obligations.VectorMemoryAccesses : Prop :=
  ∀ (s : State) (d a b : BitVec 5) (k t : BitVec 3),
    let w := Claims.elemBits t
    let n := w / 8
    let base := s.getG a.toNat
    let stride := s.getG b.toNat
    let refused := fun (st : Bool) (l : List (Nat × Reg64)) => ∃ p ∈ l, s.check p.2 n (!st) st ≠ none
    let store := fun (l : List (Nat × Reg64)) => if l = [] then s else (s.post (.store (l.map (fun p => (p.2.toNat % 2 ^ 48, n, Claims.at0 w (s.getV d.toNat) p.1)))) id).modMe (fun x => { x with acks := x.acks + 1 })
    Claims.unheld s → base.toNat % n = 0 → s.softErrors = [] →
    (∀ i l, ((i = Instr.vld d a b k t ∧ l = Claims.contiguous s b k.toNat w base) ∨ (i = Instr.vlds d a b k t ∧ stride.toNat % n = 0 ∧ l = Claims.stridden s b k.toNat w base) ∨ (i = Instr.vldx d a b k t ∧ l = Claims.scattered s b k.toNat w base)) → ready i s = true →
      (isNib s.cur = false → ¬ refused false l → (∀ p ∈ l, s.ownBusy (p.2.toNat % 2 ^ 48) n = false) → s.agenda.head? ≠ some (.event (.pendingValueArrival s.nextId)) →
        exec i s = .next ((s.putElems d.toNat w (l.map (fun p => (p.1, Mem.read (s.view s.cur) (p.2.toNat % 2 ^ 48) n)))).commit i))
      ∧ (isTask s.cur = true → ¬ refused false l → s.agenda.head? = some (.event (.pendingValueArrival s.nextId)) → d.toNat < 28 → s.me.grant ≤ 64 →
        ∃ u : State, exec i s = .next (u.commit i) ∧ u.me.win = s.me.win ∧ u.spm = s.spm ∧ (∀ o ∈ u.ops, o ∈ s.ops ∨ ∃ parts, o.kind = .load parts 0 0 ∧ o.owner = s.cur ∧ o.task = s.me.uid)
          ∧ ∀ p ∈ l, ∃ o ∈ u.ops, ∃ parts off, o.kind = .load parts 0 0 ∧ o.off = some off ∧ (off, o.id) ∈ u.me.pend ∧ ∃ r ∈ parts, r.1 = p.2.toNat % 2 ^ 48 ∧ r.2.1 = n ∧ off + r.2.2 / 8 = s.me.vBase + 256 * d.toNat + p.1 * n)
      ∧ (refused false l → ∃ p ∈ l, ∃ c, s.check p.2 n true false = some c ∧ (∀ r ∈ l, s.check r.2 n true false ≠ none → p.2.toNat ≤ r.2.toNat) ∧ exec i s = .next (s.trapMe i c p.2)))
    ∧ (∀ i l, ((i = Instr.vst d a b k t ∧ l = Claims.contiguous s b k.toNat w base) ∨ (i = Instr.vsts d a b k t ∧ stride.toNat % n = 0 ∧ l = Claims.stridden s b k.toNat w base) ∨ (i = Instr.vstx d a b k t ∧ l = Claims.scattered s b k.toNat w base)) → ready i s = true →
      (isTask s.cur = true → ¬ refused true l → exec i s = .next ((store l).commit i))
      ∧ (refused true l → ∃ p ∈ l, ∃ c, s.check p.2 n false true = some c ∧ (∀ r ∈ l, s.check r.2 n false true ≠ none → p.2.toNat ≤ r.2.toNat) ∧ exec i s = .next (s.trapMe i c p.2)))
    ∧ (let l := Claims.contiguous s b k.toNat w base
       let at' := fun (p : Nat × Reg64) => (s.cur - 81920) * 65536 + p.2.toNat
       let value := fun (p : Nat × Reg64) => (p.1, Mem.read s.nibMem (at' p) n)
       let before := ∃ e, s.agenda.head? = some (.event e)
       let inParts := fun (q : Parts) => (s.modMe (fun x => { x with parts := some q })).modMe Slot.resume
       isNib s.cur = true → (∀ p ∈ l, p.2.toNat < 0x10000 ∧ p.2.toNat % n = 0) →
        (ready (.vld d a b k t) s = true →
          ((¬ before ∨ l.length ≤ 1) → exec (.vld d a b k t) s = .next ((s.putElems d.toNat w (l.map value)).commit (.vld d a b k t)))
          ∧ (before → 1 < l.length → exec (.vld d a b k t) s = .next (inParts ⟨some (d.toNat, w), n, l.map (fun p => (p.1, at' p, 0))⟩)))
        ∧ (ready (.vst d a b k t) s = true → s.nibMem.wf = true →
          ((¬ before ∨ l.length ≤ 1) → ∃ u : State, exec (.vst d a b k t) s = .next (u.commit (.vst d a b k t)) ∧ u.harts = s.harts ∧ u.spm = s.spm ∧ u.ext = s.ext ∧ u.ops = s.ops
              ∧ (∀ p ∈ l, Mem.read u.nibMem (at' p) n = Claims.at0 w (s.getV d.toNat) p.1) ∧ ∀ x, (∀ p ∈ l, x < at' p ∨ at' p + n ≤ x) → u.nibMem.get x = s.nibMem.get x)
          ∧ (before → 1 < l.length → exec (.vst d a b k t) s = .next (inParts ⟨none, n, l.map (fun p => (p.1, at' p, Claims.at0 w (s.getV d.toNat) p.1))⟩))))
    ∧ (∀ (q : Parts) (p : Nat × Nat × Nat) (rest : List (Nat × Nat × Nat)), isNib s.cur = true → s.me.parts = some q → q.left = p :: rest → (∀ r ∈ q.left, r.2.1 < 2 ^ 60) → s.nibMem.wf = true →
        -- the element of a load or a store, made in u's local stores
        let load := fun (u : State) (e : Nat × Nat) => u.putElems e.1 e.2 [(p.1, Mem.read s.nibMem p.2.1 q.size)]
        let goesOn := fun (u : State) => u.modMe (fun x => { x with parts := some { q with left := rest } })
        let ends := fun (u : State) => (u.modMe (fun x => { x with parts := none })).advance s.cur 4
        (s.eventNext = true → rest ≠ [] →
          (∀ e, q.dst = some e → s.nextParts = goesOn (load s e))
          ∧ (q.dst = none → ∃ u : State, s.nextParts = goesOn u ∧ u.harts = s.harts ∧ u.spm = s.spm ∧ u.ext = s.ext ∧ Claims.holdsAt u.nibMem s.nibMem p.2.1 q.size p.2.2))
        ∧ (rest = [] → (∀ e, q.dst = some e → s.nextParts = ends (load s e))
          ∧ (q.dst = none → ∃ u : State, s.nextParts = ends u ∧ u.harts = s.harts ∧ u.spm = s.spm ∧ u.ext = s.ext ∧ Claims.holdsAt u.nibMem s.nibMem p.2.1 q.size p.2.2)))
    ∧ (let l := Claims.scattered s b k.toNat w base
       let late := fun (p : Nat × Reg64) => l.any (fun r => decide (r.1 < p.1) && r.2 == p.2)
       let first := l.filter (fun p => !late p)
       ready (.vstxc d a b k t) s = true → isTask s.cur = true → ¬ refused true first →
        ∃ m, exec (.vstxc d a b k t) s = .next (((store first).putK k.toNat m).commit (.vstxc d a b k t))
          ∧ ∀ j < 64, m.testBit j = (match l.find? (fun p => p.1 == j) with | some p => late p | none => (s.getK k.toNat).testBit j))
    ∧ (stride.toNat % n ≠ 0 → ∀ i ∈ [Instr.vlds d a b k t, .vsts d a b k t], ready i s = true → exec i s = .next (s.trapMe i 0x02 stride))

/-- R212: a base register that is no multiple of the element size takes cause 0x02 in every vector memory instruction. R216: VTILD
copies a whole table image of L bytes into the inkwell's table memory, seen from the next clk on; held back by an acquire it does so later, and a
VTI of the slot waits for the bytes it reads, while another slot's sees the table as it stands (R243; log 12). R217, R218: VTI with a legal header evaluates the segment of each active
element. -/
def Obligations.VectorBasesAndTables : Prop :=
  ∀ (s : State) (d a b : BitVec 5) (k t : BitVec 3),
    let base := s.getG a.toNat
    (base.toNat % (Claims.elemBits t / 8) ≠ 0 → ∀ i ∈ [Instr.vld d a b k t, .vst d a b k t, .vlds d a b k t, .vsts d a b k t, .vldx d a b k t, .vstx d a b k t, .vstxc d a b k t], ready i s = true → exec i s = .next (s.trapMe i 0x02 base))
    ∧ (let l := (s.getG d.toNat).toNat
       let o := (s.getG b.toNat).toNat
       ready (.vtild d a b) s = true → Claims.unheld s → s.softErrors = [] → l % 16 = 0 → base.toNat % 16 = 0 → o % 16 = 0 → l ≠ 0 → o + l ≤ 4096 →
       (∀ j < l / 8, s.check (base + r64 (8 * j)) 8 true false = none) → s.ownBusy (base.toNat % 2 ^ 48) l = false → s.tblWrites = [] →
        ∃ u : State, exec (.vtild d a b) s = .next (u.commit (.vtild d a b)) ∧ u.tables = s.tables ∧ u.spm = s.spm ∧ u.me = s.me
          ∧ ({ u with clk := u.clk + 1 } : State).tables = Mem.store s.tables (panelOf s.cur * 4096 + o) (Mem.bytes (s.view s.cur) (base.toNat % 2 ^ 48) l))
    ∧ (let l := (s.getG d.toNat).toNat
       let o := (s.getG b.toNat).toNat
       ready (.vtild d a b) s = true → s.softErrors = [] → l % 16 = 0 → base.toNat % 16 = 0 → o % 16 = 0 → l ≠ 0 → o + l ≤ 4096 → (∀ j < l / 8, s.check (base + r64 (8 * j)) 8 true false = none) →
       (s.accessesHeld = true ∨ s.ownBusy (base.toNat % 2 ^ 48) l = true) →
        ∃ u : State, ∃ q : Op, exec (.vtild d a b) s = .next (u.commit (.vtild d a b)) ∧ u.ops = s.ops ++ [q] ∧ q.kind = .table (panelOf s.cur * 4096 + o) l (base.toNat % 2 ^ 48) ∧ u.tables = s.tables ∧ u.me = s.me)
    ∧ (let o := (s.getG b.toNat).toNat
       ready (.vti d a b k t) s = true → o % 16 = 0 → o < 4096 → (∃ q ∈ s.ops, q.owner = s.cur ∧ q.task = s.me.uid ∧ ∃ x y z, q.kind = .table x y z ∧ x < panelOf s.cur * 4096 + o + 16 ∧ panelOf s.cur * 4096 + o < x + y) →
        exec (.vti d a b k t) s = .next (s.mark .pending))
    ∧ (let o := (s.getG b.toNat).toNat
       let m := s.tables
       let p := panelOf s.cur * 4096 + o
       let h := r64 (Mem.read m (p + 8) 8)
       let f := Claims.fpFmt t
       let c := fun (o : Nat) => fp32.decode (Mem.read m (p + o) 4)
       ready (.vti d a b k t) s = true → (∀ q ∈ s.ops, q.owner = s.cur → q.task = s.me.uid → ∀ x y z, q.kind ≠ .table x y z) → o % 16 = 0 → o < 4096 → bits h 20 44 = 0 → bits h 16 2 ≠ 3 → bits h 18 2 ≠ 3 → 1 ≤ bits h 0 16 → bits h 0 16 ≤ 510 → o + 16 + 8 * bits h 0 16 ≤ 4096 →
        Claims.delivers s (.vti d a b k t) d.toNat f.width f (Claims.inOrder (fun n u =>
          Claims.tabled (c 0) (c 4) (bits h 0 16) (bits h 16 2) (bits h 18 2) (fun i => c (16 + 8 * i)) (fun i => c (20 + 8 * i)) f s.me.mode (Claims.at0 f.width (s.getV a.toNat) n) u) (Claims.active s k.toNat f.width) s.me.srs))

/-- R375, R377, R378, R380, R382, R373: DQDECL makes a queue of the block's fields under the lowest free number, or gives the code of what is wrong;
DQPUSH appends a record of an open round to the storage, which it consolidates when it is full, giving chunks back, and for which it
borrows a chunk of 64 records, answers 3 for a closed round and 0x10 for a halted queue, and waits when there is no room. -/
def Sys2Proof.Claims.DeltaQueueDeclarationAndPush : Prop :=
  ∀ (s : State) (f t h : BitVec 6), let cl := clusterOf s.cur
    (let a := s.getG f.toNat
     let w := r64 (Mem.read (s.view s.cur) (a.toNat % 2 ^ 48) 8)
     let cap := bits w 0 16 + 1
     let i := Instr.dqdecl f t
     let answers := fun (u : State) (v : Reg64) => exec i s = .next ((u.putG t.toNat v).commit i)
     ready i s = true → Claims.unheld s → s.softErrors = [] → a.toNat % 64 = 0 → s.inScratchpads a 64 = true → s.ownBusy (a.toNat % 2 ^ 48) 64 = false → t ≠ 0 → Mem.read (s.view s.cur) (a.toNat % 2 ^ 48 + 8) 56 = 0 →
      ((bits w 29 3 ≠ 0 ∨ 65536 < bits w 32 32) → answers s (r64 (2 ^ 63 + 1)))
      ∧ (bits w 29 3 = 0 → bits w 32 32 ≤ 65536 → (s.cluster cl).pool < 32 * cap + 64 * bits w 32 32 → answers s (r64 (2 ^ 63 + 2)))
      ∧ (bits w 29 3 = 0 → bits w 32 32 ≤ 65536 → 32 * cap + 64 * bits w 32 32 ≤ (s.cluster cl).pool → ∀ n < 64, Tab.get? (s.cluster cl).dqs n = none → (∀ m < n, Tab.get? (s.cluster cl).dqs m ≠ none) →
          answers (s.setDq cl n { lid := s.me.lid, pid := s.pidOf s.cur, cap := cap, consumers := bits w 22 6 + 1, blot := bits w 28 1 == 1, arrCap := bits w 32 32, closes := List.replicate (bits w 16 6 + 1) 0 }) (r64 n)))
    ∧ (∀ n q, s.dqHandle h true false = .ok n → s.dq? cl n = some q → Claims.quiet s cl → s.softErrors = [] → ready (.dqpush f t h) s = true →
      let r := Claims.record s f.toNat
      let answers := fun (u : State) (st : Nat) => exec (.dqpush f t h) s = .next ((u.dqStatus t 1 st).commit (.dqpush f t h))
      let room := q.cap + 64 * q.chunks
      (q.halted = true → answers (s.setDq cl n q) 0x1010)
      ∧ (q.halted = false → r.round.toNat < q.front → answers (s.setDq cl n q) 3)
      ∧ (q.halted = false → q.front ≤ r.round.toNat → q.recs.length < room → answers (s.setDq cl n { q with recs := q.recs ++ [r] }) 0)
      ∧ (q.halted = false → q.front ≤ r.round.toNat → q.recs.length = room → q.blot = false → q.chunks < 3 * q.cap / 64 → 2048 ≤ (s.cluster cl).pool →
          answers (s.setDq cl n { q with recs := q.recs ++ [r], chunks := q.chunks + 1 }) 0)
      ∧ (q.halted = false → q.front ≤ r.round.toNat → q.recs.length = room → q.blot = false → 3 * q.cap / 64 ≤ q.chunks →
          ∃ u : State, ∃ p : Op, exec (.dqpush f t h) s = .next u ∧ u.ops = s.ops ++ [p] ∧ p.kind = .dqpush n r ∧ p.off = (if t = 0 then none else some (s.me.gBase + 8 * t.toNat)) ∧ u.me.blocked = some p.id ∧ u.me.pc = s.me.pc ∧ u.clusters = (s.setDq cl n q).clusters)
      ∧ (q.halted = false → q.front ≤ r.round.toNat → q.recs.length = room → q.blot = true →
          let left := q.recs.filter (fun x => x.round.toNat < q.front) ++ (consolidate (q.recs.filter (fun x => q.front ≤ x.round.toNat))).1
          let kept := min q.chunks ((left.length + 63 - q.cap) / 64)
          (consolidate (q.recs.filter (fun x => q.front ≤ x.round.toNat))).2 = false → left.length < q.cap + 64 * kept → answers (s.setDq cl n { q with recs := left ++ [r], chunks := kept }) 0))
    ∧ (∀ u : State, (t ≠ 0 → ∀ v, u.dqStatus t 1 v = u.putG t.toNat (r64 v)) ∧ (t = 0 → ∀ v, v % 256 = 0 → u.dqStatus t 1 v = u))

/-- R378, R379, R381, R386: a DQPOP takes the first record of the oldest released round, which its task then holds, and the queue gives back the
chunks it no longer needs; with none left and no
holder it delivers the end of the round once for each consumer; with nothing released it waits. DQCLOSE raises its producer's closed
round when it names that round, answers 4 for another round and 5 for a producer out of range; one that releases a round of a queue declared
for consolidation leaves that round's records consolidated and in ascending order of key and value (R382, R383, R384), or halts the queue
with 0x10, and a new push of the round is from then on answered 3. A waiting DQ instruction is served once it can go on; that a waiting
DQPUSH is then held whatever has become of its round is the model's choice in what follows from it (log 83). -/
def Sys2Proof.Claims.DeltaQueuePopAndClose : Prop :=
  ∀ (s : State) (f t h : BitVec 6) (n : Nat) (q : DQueue), let cl := clusterOf s.cur
    s.dq? cl n = some q → q.halted = false →
    (Claims.quiet s cl → s.dqHandle h true false = .ok n →
      (let free := q.holders.filter (fun x => x.1 != s.me.uid)
       let i := Instr.dqpop f t h
       let group := fun (u : State) (w : List Reg64) => (((u.putG f.toNat (w.getD 0 0)).putG (f.toNat + 1) (w.getD 1 0)).putG (f.toNat + 2) (w.getD 2 0)).putG (f.toNat + 3) (w.getD 3 0)
       ready i s = true → s.softErrors = [] → s.me.stage = none →
        (∀ r, q.drained < q.front → q.recs.find? (fun r => r.round.toNat == q.drained) = some r →
          exec i s = .next (((group (s.setDq cl n { q with recs := q.recs.erase r, holders := free ++ [(s.me.uid, q.drained)], chunks := min q.chunks (((q.recs.erase r).length + 63 - q.cap) / 64) }) [r.key, r.vlo, r.vhi, r.round ++ r.mult]).dqStatus t 2 0).commit i))
        ∧ (q.drained < q.front → (∀ r ∈ q.recs, r.round.toNat ≠ q.drained) → (∀ x ∈ free, x.2 ≠ q.drained) →
          exec i s = .next (((group (s.setDq cl n (if q.consumers ≤ q.ends + 1 then { q with drained := q.drained + 1, ends := 0, holders := free } else { q with ends := q.ends + 1, holders := free }))
            [0, 0, 0, r64 (q.drained * 2 ^ 32)]).dqStatus t 2 1).commit i))
        ∧ (q.front ≤ q.drained → ∃ u : State, ∃ p : Op, exec i s = .next u ∧ u.ops = s.ops ++ [p] ∧ p.kind = .dqpop n f.toNat ∧ u.me.blocked = some p.id ∧ u.me.pc = s.me.pc ∧ u.me.win = s.me.win))
      ∧ (let p := (s.getG f.toNat).toNat
         let r := (s.getG (f.toNat + 1)).toNat % 2 ^ 32
         let i := Instr.dqclose f t h
         let answers := fun (u : State) (st : Nat) => exec i s = .next ((u.dqStatus t 7 st).commit i)
         ready i s = true → s.me.acks = 0 → s.softErrors = [] →
          (q.closes.length ≤ p → answers s 5)
          ∧ (∀ c, q.closes[p]? = some c → (r ≠ c → answers s 4) ∧ (r = c →
            let p' : DQueue := { q with closes := q.closes.set p ((c + 1) % 2 ^ 32) }
            let sums := consolidate (q.recs.filter (fun x => x.round.toNat = q.front))
            (q.blot = false ∨ p'.front ≤ q.front → answers (s.setDq cl n p') 0)
            ∧ (q.blot = true → q.front < p'.front → ∃ l : List Rec, l.Perm sums.1 ∧ l.Pairwise (fun a b => a.key.toNat < b.key.toNat ∨ a.key = b.key ∧ (a.vhi ++ a.vlo).toNat ≤ (b.vhi ++ b.vlo).toNat) ∧
                let left := q.recs.filter (fun x => x.round.toNat ≠ q.front) ++ l
                let out : DQueue := { p' with recs := left, chunks := min q.chunks ((left.length + 63 - q.cap) / 64) }
                (sums.2 = false → answers (s.setDq cl n out) 0)
                ∧ (sums.2 = true → ∃ u : State, exec i s = .next ((u.dqStatus t 7 0x1010).commit i) ∧ u.dq? cl n = some { out with halted := true })
                -- a new push of the round just released is then too late
                ∧ (∀ pool lend rec, rec.round.toNat = q.front → out.push pool lend false rec = (out, some (3, false))))))))
    ∧ (∀ id o r, s.op? id = some o → o.id = id → o.cluster = cl → o.kind = .dqpush n r → (s.cluster cl).pipes = [] → s.ops.find? (fun p => match p.kind with | .dqpush _ _ => true | _ => false) = some o →
        (s.slot o.owner).loops = [] → q.halted = false → q.recs.length < q.cap + 64 * q.chunks → exec (.waitingDqpushService id) s = .next ((s.setDq cl n { q with recs := q.recs ++ [r] }).finish o 0))
    ∧ (∀ id o g r, s.op? id = some o → o.id = id → o.cluster = cl → o.kind = .dqpop n g → (s.cluster cl).pipes = [] → s.ops.find? (fun p => match p.kind with | .dqpop _ _ => true | _ => false) = some o → (s.slot o.owner).stage = none → (s.slot o.owner).loops = [] →
        q.drained < q.front → q.recs.find? (fun r => r.round.toNat == q.drained) = some r →
        ∃ u : State, exec (.waitingDqpopService id) s = .next (u.finish o 0)
          ∧ u.slot o.owner = (((((s.slot o.owner).putG g r.key).putG (g + 1) r.vlo).putG (g + 2) r.vhi).putG (g + 3) (r.round ++ r.mult)) ∧ u.ops = s.ops
          ∧ ∃ p, u.dq? cl n = some p ∧ p.recs = q.recs.erase r ∧ p.chunks = min q.chunks (((q.recs.erase r).length + 63 - q.cap) / 64) ∧ p.holders = q.holders ++ [((s.slot o.owner).uid, q.drained)])

/-- Delta queues: declaration, push, pop and close: `Claims.DeltaQueueDeclarationAndPush` and `Claims.DeltaQueuePopAndClose`. -/
def Obligations.DeltaQueues : Prop := Claims.DeltaQueueDeclarationAndPush ∧ Claims.DeltaQueuePopAndClose

/-- R382, R383, R384, R385: consolidation makes of every group of equal round, key and value at most one record, of the exact sum of
the group's multiplicities and not 0, as long as every sum fits an i32; DQCONS consolidates the unreleased records of a queue declared
for it and answers how many remain, or halts it with status 0x10 where a sum does not fit, and gives the chunks it no longer needs back
either way (R378); on a queue not declared for it DQCONS merges nothing, and on a halted one it answers 0x10. -/
def Sys2Proof.Claims.Consolidation : Prop :=
  (∀ l : List Rec, (∀ g ∈ l, -(2 ^ 31) ≤ Claims.total l g ∧ Claims.total l g < 2 ^ 31) →
      let c := (consolidate l).1
      (consolidate l).2 = false ∧ (∀ g, Claims.total c g = Claims.total l g) ∧ (∀ r ∈ c, r.mult ≠ 0)
      ∧ c.Pairwise (fun a b => ¬ (a.round = b.round ∧ a.key = b.key ∧ a.vlo = b.vlo ∧ a.vhi = b.vhi)))
  ∧ (∀ (s : State) (t h : BitVec 6) (n : Nat) (q : DQueue), let cl := clusterOf s.cur
      let open_ := q.recs.filter (fun r => q.front ≤ r.round.toNat)
      let left := q.recs.filter (fun r => r.round.toNat < q.front) ++ (consolidate open_).1
      s.dqHandle h false false = .ok n → s.dq? cl n = some q → Claims.quiet s cl → s.softErrors = [] → ready (.dqcons t h) s = true →
        let kept : DQueue := { q with recs := left, chunks := min q.chunks ((left.length + 63 - q.cap) / 64) }
        (q.halted = true → exec (.dqcons t h) s = .next ((s.dqStatus t 3 0x1010).commit (.dqcons t h)))
        ∧ (q.halted = false → q.blot = false → exec (.dqcons t h) s = .next (((s.setDq cl n { q with chunks := min q.chunks ((q.recs.length + 63 - q.cap) / 64) }).dqStatus t 3 (q.recs.length * 256)).commit (.dqcons t h)))
        ∧ (q.halted = false → q.blot = true → (consolidate open_).2 = false → exec (.dqcons t h) s = .next (((s.setDq cl n kept).dqStatus t 3 (left.length * 256)).commit (.dqcons t h)))
        ∧ (q.halted = false → q.blot = true → (consolidate open_).2 = true → ∃ u : State, exec (.dqcons t h) s = .next ((u.dqStatus t 3 0x1010).commit (.dqcons t h)) ∧ u.dq? cl n = some { kept with halted := true }))

/-- R388, R389, R390, R391, R393: DQARR adds a multiplicity into the entry of a key and value, answering the old and the new one, and
takes cause 0x0E when a new entry has no room; DQLOOK lists a key's entries by cursor; DQJOIN pairs a sorted batch with the entries of
its keys, writing those of a record before it reads the next, and ends there with status 2 at a key below the one before it and with status 1
at a record whose pairs do not fit, which it does not consume; DQFRONT reads the rounds drained and the frontier. -/
def Sys2Proof.Claims.Arrangements : Prop :=
  ∀ (s : State) (f t h : BitVec 6) (n : Nat) (q : DQueue), let cl := clusterOf s.cur
    s.dqHandle h false true = .ok n → s.dq? cl n = some q → s.softErrors = [] →
    (let r := Claims.record s f.toNat
     let v : BitVec 128 := r.vhi ++ r.vlo
     let old := ((q.arr.find? (fun e => e.key == r.key && e.val == v)).map (fun e => e.mult)).getD 0
     let new := old + r.mult.signExtend 64
     let i := Instr.dqarr f t h
     ready i s = true →
      (old = 0 → new ≠ 0 → q.arrCap ≤ q.arr.length → exec i s = .next (s.trapMe i 0x0E (r64 n)))
      ∧ (¬ (old = 0 ∧ new ≠ 0 ∧ q.arrCap ≤ q.arr.length) → ∃ p : DQueue,
          exec i s = .next (((if t = 0 then s.setDq cl n p else (s.setDq cl n p).putG t.toNat old).putG (f.toNat + 3) new).commit i)
          ∧ p = { q with arr := p.arr }
          ∧ ∀ e : ArrEntry, e ∈ p.arr ↔ (e ∈ q.arr ∧ ¬ (e.key = r.key ∧ e.val = v)) ∨ (new ≠ 0 ∧ e = ⟨r.key, v, new⟩)))
    ∧ (let c := (s.getG (f.toNat + 1)).toNat
       let found := q.arr.filter (fun e => e.key == s.getG f.toNat)
       let i := Instr.dqlook f h
       let puts := fun (w : List Reg64) => exec i s = .next (((((s.putG (f.toNat + 1) (w.getD 0 0)).putG (f.toNat + 2) (w.getD 1 0)).putG (f.toNat + 3) (w.getD 2 0)).putG (f.toNat + 4) (w.getD 3 0)).commit i)
       ready i s = true →
        (∀ e, found[c]? = some e → puts [r64 (c + 1), e.val.setWidth 64, (e.val >>> 64).setWidth 64, e.mult])
        ∧ (found.length ≤ c → puts [r64 (2 ^ 64 - 1), 0, 0, 0]))
    ∧ (let ba := s.getG f.toNat
       let k := (s.getG (f.toNat + 1)).toNat
       let oa := s.getG (f.toNat + 2)
       let cap := (s.getG (f.toNat + 3)).toNat
       let i := Instr.dqjoin f t h
       let batch := fun (m : Mem) (j : Nat) => recIn m (ba.toNat % 2 ^ 48 + 32 * j)
       ready i s = true → k ≤ 65536 → cap ≤ 65536 → ba.toNat % 32 = 0 → oa.toNat % 64 = 0 → s.inScratchpads ba (32 * k) = true → s.inScratchpads oa (64 * cap) = true → Claims.unheld s → s.softErrors = [] → s.ownBusy (ba.toNat % 2 ^ 48) (32 * k) = false →
        -- at' j and e j: what the slot sees and how many entries there are before record j
        -- and d the record it ends at, k where it ends with status 0
        ∀ (at' : Nat → Mem) (e : Nat → Nat) (out : Nat → List (Nat × Nat × Nat)) (d : Nat), at' 0 = s.view s.cur → e 0 = 0 → d ≤ k →
        let pairs := fun (j : Nat) => let r := batch (at' j) j
          if r.mult = 0 then [] else (q.arr.filter (fun x => x.key == r.key)).map (fun (x : ArrEntry) =>
            ([r.key, r.vlo, r.vhi, x.val.setWidth 64, (x.val >>> 64).setWidth 64, r.mult.signExtend 64 * x.mult, r.round.zeroExtend 64, 0] : List Reg64))
        let descends := fun (j : Nat) => 0 < j ∧ (batch (at' j) j).key.ult (batch (at' (j - 1)) (j - 1)).key = true
        (∀ j < d, out j = wordEls (oa.toNat % 2 ^ 48 + 64 * e j) (pairs j).flatten ∧ e (j + 1) = e j + (pairs j).length ∧ at' (j + 1) = (out j).foldl (fun m w => Mem.write m w.1 w.2.1 w.2.2) (at' j)) →
        (∀ j < d, ¬ descends j) → e d ≤ cap →
        let stored := (List.range d).flatMap out
        let ends := fun (st : Nat) => exec i s = .next (((if stored = [] then s else s.storeEls stored).putG t.toNat (r64 (st * 2 ^ 62 + d * 2 ^ 32 + e d))).commit i)
        (d = k → ends 0) ∧ (d < k → descends d → ends 2) ∧ (d < k → ¬ descends d → cap < e d + (pairs d).length → ends 1))
    ∧ (ready (.dqfront t h) s = true → exec (.dqfront t h) s = .next ((s.putG t.toNat (r64 (q.drained % 2 ^ 32 * 2 ^ 32 + q.front % 2 ^ 32))).commit (.dqfront t h)))

/-- Consolidation, DQARR, DQLOOK, DQJOIN and DQFRONT: `Claims.Consolidation` and `Claims.Arrangements`. -/
def Obligations.ConsolidationAndArrangements : Prop := Claims.Consolidation ∧ Claims.Arrangements

/-- R160, R163, R164, R165, R162: PIPEDECL reads its block, at once, or as a declare operation once no acquire and no access of its slot holds
it back (log 12, the model's choice), and allocates a pipeline under a free number, or answers the first code of R163 that applies: 1 and 2 for a
block with a reserved bit or not well formed (which bits are reserved, and that a plain queue of capacity 0 is not well formed, is log 76, the
model's choice), 3 for its core set, 4 for plain queues the buffer cannot hold, 5 with all 16 handles in use. PIPEGO joins the done phaser (R392), answers 1 for no pipeline and 2 for a started one, and starts a declared one with R114's share of slots for each stage, for
its launch and under its token; PIPEWAIT answers 1 for no pipeline, and at once when the pipeline is idle. -/
def Sys2Proof.Claims.PipelineInstructions : Prop :=
  ∀ (s : State) (f t : BitVec 6) (x : BitVec 1),
    let cl := clusterOf s.cur
    let v := s.getG f.toNat
    (let b := pipeBlock (s.view s.cur) (v.toNat % 2 ^ 48)
     let size := blockBytes (Mem.read (s.view s.cur) (v.toNat % 2 ^ 48) 1 % 16)
     let i := Instr.pipedecl f t
     ready i s = true → s.softErrors = [] →
      (v.toNat % 64 ≠ 0 → exec i s = .next (s.trapMe i 0x02 v))
      ∧ (v.toNat % 64 = 0 → s.inScratchpads v 256 = false → exec i s = .next (s.trapMe i 0x03 v))
      ∧ (v.toNat % 64 = 0 → s.inScratchpads v 256 = true → s.inScratchpads v size = false → exec i s = .next (s.trapMe i 0x03 v))
      ∧ (v.toNat % 64 = 0 → s.inScratchpads v 256 = true → s.inScratchpads v size = true → (s.accessesHeld || s.ownBusy (v.toNat % 2 ^ 48) size) = true →
          ∃ u : State, ∃ o : Op, exec i s = .next (u.commit i) ∧ u.ops = s.ops ++ [o] ∧ o.id = s.nextId ∧ o.owner = s.cur ∧ o.kind = .declare v ∧ u.clusters = s.clusters ∧ u.me.win = s.me.win
            ∧ o.off = (if t = 0 then none else some (s.me.gBase + 8 * t.toNat)) ∧ u.me.pend = (if t = 0 then s.me.pend else s.me.pend ++ [(s.me.gBase + 8 * t.toNat, o.id)]))
      ∧ (v.toNat % 64 = 0 → s.inScratchpads v 256 = true → s.inScratchpads v size = true → Claims.unheld s → s.ownBusy (v.toNat % 2 ^ 48) size = false →
          let answers := fun (u : State) (a m : Reg64) => exec i s = .next ((u.pipeResult t 0 a m).commit i)
          (b.reserved = true → answers s (r64 (2 ^ 63 + 1)) 0x101)
          ∧ (b.reserved = false → s.blockOk b = false → answers s (r64 (2 ^ 63 + 2)) 0x202)
          ∧ (b.reserved = false → s.blockOk b = true → (b.cores = [] ∨ (∃ c ∈ b.cores, s.coreIn (cl * 256 + c) = false) ∨ 4 * b.cores.length < b.k) → answers s (r64 (2 ^ 63 + 3)) 0x303)
          ∧ (b.reserved = false → s.blockOk b = true → b.cores ≠ [] → b.cores.any (fun c => !s.coreIn (cl * 256 + c)) = false → b.k ≤ 4 * b.cores.length →
              ((s.cluster cl).pool < 32 * (((b.descs.take b.nq).filter (fun d => bits d 0 2 == 1)).map (fun d => bits d 16 16)).sum → answers s (r64 (2 ^ 63 + 4)) 0x404)
              ∧ (freeNumber (s.cluster cl).pipes 16 = none → ∀ r, s.allocPlain cl 16 (b.descs.take b.nq) = some r → answers s (r64 (2 ^ 63 + 5)) 0x505))
          ∧ (b.reserved = false → s.blockOk b = true → b.cores ≠ [] → b.cores.any (fun c => !s.coreIn (cl * 256 + c)) = false → b.k ≤ 4 * b.cores.length → ∀ n u q, freeNumber (s.cluster cl).pipes 16 = some n → s.allocPlain cl n (b.descs.take b.nq) = some (u, q) →
              ∃ w : State, answers w (r64 n) (r64 (n * 256)) ∧ Tab.get? (w.cluster cl).pipes n = some { lid := s.me.lid, token := s.me.ctok, pid := s.pidOf s.cur, owner := s.me.lid, cores := b.cores, done := b.done, queues := q, stages := b.templates.map stageTemplate } ∧ (w.cluster cl).pqs = (u.cluster cl).pqs)))
    ∧ (ready (.pipego f t) s = true →
        (s.pipe? v = none → exec (.pipego f t) s = .next ((s.pipeResult t 1 1 1).commit (.pipego f t)))
        ∧ (∀ p, s.pipe? v = some p → p.started = true → exec (.pipego f t) s = .next ((s.pipeResult t 1 2 2).commit (.pipego f t)))
        ∧ (∀ p, s.pipe? v = some p → p.started = false → p.done = 0xFFFF → (∀ o ∈ s.ops, ∀ n w, o.kind ≠ .pipewait n w) →
            ∃ u : State, exec (.pipego f t) s = .next ((u.pipeResult t 1 0 0).commit (.pipego f t)) ∧ ∃ q, Tab.get? (u.cluster cl).pipes v.toNat = some q
              ∧ q = { p with started := true, shares := q.shares, lid := s.me.lid, token := s.me.ctok, nextCheck := s.clk + 4096, joined := false, rounds := q.rounds }
              ∧ q.shares.length = p.stages.length ∧ (p.stages ≠ [] → q.shares.sum = 4 * p.cores.length) ∧ ∀ i ∈ q.shares, ∀ j ∈ q.shares, i ≤ j + 1)
        ∧ (∀ p q, s.pipe? v = some p → p.done < 2 ^ 15 → s.holds p.pid (p.done / 512) = true → s.phaser? p.done = some q → q.members.length < 1024 →
            (s.joinDone cl v.toNat p).2 = true ∧ (s.joinDone cl v.toNat p).1.phaser? p.done = some { q with members := q.members ++ [⟨ctlUid cl v.toNat, true, false, false, q.phase, s.nextId⟩] }))
    ∧ (ready (.pipewait f t x) s = true →
        (s.pipe? v = none → exec (.pipewait f t x) s = .next ((s.pipeResult t 2 1 1).commit (.pipewait f t x)))
        ∧ (∀ p, s.pipe? v = some p → exec (.pipewait f t x) s = .next (((s.postTo t.toNat (.pipewait v.toNat (x == 1)) (fun q => { q with major := 0x1B, sel := 2 })).pokePipe cl v.toNat).commit (.pipewait f t x)))
        ∧ (∀ p, s.pipe? v = some p → x = 0 → p.queues = [] → p.joined = false → s.ops = [] → s.stageTasks cl v.toNat none = 0 →
            ∃ u : State, ∃ o : Op, exec (.pipewait f t x) s = .next (u.commit (.pipewait f t x)) ∧ u.ops = [o] ∧ o.kind = .value 0 [] ∧ o.id = s.nextId))

/-- R115, R164: the controller starts a stage task, when its stage holds fewer slots than its share, its input has something to deliver
and its output is not full, on the lowest core of the core set that it fits, with the template's argument, the input handle, the stage and
the pipeline in g1 to g4, and its stack pointer. R116: every 4,096 clk it picks the stage of least occupancy among those of two slots and more, and the one of
greatest occupancy among those that are not blocked, the lowest of equal ones, and moves a slot where both exist, differ and differ in
occupancy; a move that is pending stays. -/
def Sys2Proof.Claims.PipelineController : Prop :=
  ∀ (s : State) (cl pipe : Nat) (p : Pipe), Tab.get? (s.cluster cl).pipes pipe = some p → p.started = true →
    (∀ stage t q u cid w, (∀ e ∈ s.ops, ∀ a b c, e.kind ≠ .fullEmpty a b c) → p.stages[stage]? = some t → p.queues.find? (fun q => q.cons == stage) = some q → s.stageTasks cl pipe (some stage) < p.shares.getD stage 0 → s.queueReady cl q.handle = true →
      s.stageBlocked cl p stage = false → s.stageImage cl p = some u → p.cores.findSome? (fun c => (u.placeFor p.lid (cl * 256 + c) t.window t.scratch t.phasers).map (fun w => (cl * 256 + c, w))) = some (cid, w) →
      ∃ v : State, ∃ x : Slot, exec (.stageTaskPlacement cl pipe stage) s = .next v ∧ v.slot (hartOf cid w.sl) = x ∧ x.live = true ∧ x.pc = t.entry ∧ x.tid = 0 ∧ x.lid = p.lid ∧ x.ctok = p.token ∧ x.watch = t.watch ∧ x.sc = t.sc
        ∧ x.stage = some ⟨pipe, stage, 0⟩ ∧ x.winSize = t.window ∧ x.winOff = w.win ∧ x.scratch = t.scratch ∧ x.phLeft = t.phasers ∧ x.fcr = 0 ∧ x.xvec = 0 ∧ x.grant = 0
        ∧ ((256 ≤ t.window → x.getG 1 = t.args ∧ x.getG 2 = r64 q.handle ∧ x.getG 3 = r64 stage ∧ x.getG 4 = r64 pipe) ∧ (448 ≤ t.window → x.getG 55 = r64 (cid * 65536 + w.scratch + t.scratch))))
    ∧ (s.clk < p.nextCheck → exec (.pipelineOccupancyCheck cl pipe) s = .next s)
    ∧ (p.nextCheck ≤ s.clk → ∃ m, exec (.pipelineOccupancyCheck cl pipe) s = .next (s.modCluster cl (fun c => { c with pipes := Tab.set c.pipes pipe { p with nextCheck := p.nextCheck + 4096, move := m } }))
        ∧ (p.move ≠ none → m = p.move)
        ∧ (p.move = none → (∀ j < p.stages.length, 0 < (s.stageOccupancy cl p j).2) →
            let occ := s.stageOccupancy cl p
            -- occupancy of stage a is below, or not above, that of stage b
            let below := fun (a b : Nat) => (occ a).1 * (occ b).2 < (occ b).1 * (occ a).2
            let upTo := fun (a b : Nat) => (occ a).1 * (occ b).2 ≤ (occ b).1 * (occ a).2
            let gives := fun (j : Nat) => j < p.stages.length ∧ 2 ≤ p.shares.getD j 0
            let takes := fun (j : Nat) => j < p.stages.length ∧ s.stageBlocked cl p j = false
            let donor := fun (d : Nat) => gives d ∧ ∀ j, gives j → upTo d j ∧ (j < d → below d j)
            let recipient := fun (r : Nat) => takes r ∧ ∀ j, takes j → upTo j r ∧ (j < r → below j r)
            let differ := fun (d r : Nat) => d ≠ r ∧ (occ d).1 * (occ r).2 ≠ (occ r).1 * (occ d).2
            (∀ d r, donor d → recipient r → differ d r → m = some (d, r))
            ∧ (∀ d r, m = some (d, r) → donor d ∧ recipient r ∧ differ d r)))

/-- PIPEDECL, PIPEGO, PIPEWAIT and the pipeline controller: `Claims.PipelineInstructions` and `Claims.PipelineController`. -/
def Obligations.Pipelines : Prop := Claims.PipelineInstructions ∧ Claims.PipelineController

/-- R270, R271, R273 to R278: CPY, CPYS, CPYD, CPYT and CPYT.SET check their sizes, alignments and ranges and leave one command with
their operands for the copy engine, their result register pending; a copy of no bytes completes at once with token 0. That CPYS names
its row bytes, or else its rows, in xval (log 19), that a copy of no bytes still traps on a bad address and that the alignment of CPYD's source
is tested at issue (log 35), what CPYT asks of a BS8 base (log 36), and that it counts one byte an element where the
entry is not the process's (log 72) is the model's choice. -/
def Obligations.CopyInstructions : Prop :=
  ∀ (s : State) (f t p : BitVec 6) (o : BitVec 4),
    let g := fun (j : Nat) => s.getG (f.toNat + j)
    let w := if o = 6 then 4 else if o = 7 then 8 else 2
    let sends := fun (i : Instr) (c : CopyCmd) => ∃ u : State, ∃ q : Op, exec i s = .next (u.commit i) ∧ u.ops = s.ops ++ [q] ∧ q.id = s.nextId ∧ q.owner = s.cur ∧ q.stage = 0 ∧ q.kind = .copy c
      ∧ q.off = (if t = 0 then none else some (s.me.gBase + 8 * t.toNat)) ∧ u.me.pend = (if t = 0 then s.me.pend else s.me.pend ++ [(s.me.gBase + 8 * t.toNat, q.id)]) ∧ u.me.win = s.me.win ∧ u.spm = s.spm ∧ u.ext = s.ext ∧ u.me.acks = s.me.acks
    let nothing := fun (i : Instr) => t ≠ 0 → exec i s = .next ((s.putG t.toNat 0).commit i)
    let traps := fun (i : Instr) (c : Nat) (v : Reg64) => exec i s = .next (s.trapMe i c v)
    let bad := fun (a : Reg64) (n : Nat) => s.regionBase a n = none
    Claims.buffered s →
    (let i := Instr.cpy f t
     ready i s = true →
      (262144 < (g 2).toNat → traps i 0x01 (g 2))
      ∧ ((g 2).toNat ≤ 262144 → bad (g 0) (g 2).toNat → traps i 0x03 (g 0))
      ∧ ((g 2).toNat ≤ 262144 → ¬ bad (g 0) (g 2).toNat → bad (g 1) (g 2).toNat → traps i 0x03 (g 1))
      ∧ (g 2 = 0 → ¬ bad (g 0) 0 → ¬ bad (g 1) 0 → nothing i)
      ∧ (g 2 ≠ 0 → (g 2).toNat ≤ 262144 → ¬ bad (g 0) (g 2).toNat → ¬ bad (g 1) (g 2).toNat → sends i (.cpy (g 0) (g 1) (g 2).toNat)))
    ∧ (let i := Instr.cpys f t
       ready i s = true →
        (262144 < (g 2).toNat * (g 3).toNat → traps i 0x01 (if 262144 < (g 2).toNat then g 2 else g 3))
        ∧ ((g 2 = 0 ∨ g 3 = 0) → ¬ bad (g 0) 0 → ¬ bad (g 1) 0 → nothing i)
        ∧ (g 2 ≠ 0 → g 3 ≠ 0 → (g 2).toNat * (g 3).toNat ≤ 262144 → (∀ r < (g 3).toNat, ¬ bad (g 0 + r64 r * g 4) (g 2).toNat ∧ ¬ bad (g 1 + r64 r * g 5) (g 2).toNat) →
            sends i (.cpys (g 0) (g 1) (g 2).toNat (g 3).toNat (g 4) (g 5))))
    ∧ (let i := Instr.cpyd f t o
       let c := (g 1).toNat % 2 ^ 48
       let word := (g 3).toNat
       ready i s = true → s.address (g 1) = some (c, none) → onChip c = true → word % 64 ∈ [1, 2, 5, 6, 7, 8, 9] →
        let e := 2 ^ (codeLog (word % 16)).getD 0
        (262144 < (g 2).toNat * w → traps i 0x01 (g 2))
        ∧ ((g 2).toNat * w ≤ 262144 → (g 0).toNat % w ≠ 0 → traps i 0x02 (g 0))
        ∧ ((g 2).toNat * w ≤ 262144 → (g 0).toNat % w = 0 → c % e ≠ 0 → traps i 0x02 (g 1))
        ∧ (g 2 ≠ 0 → (g 2).toNat * w ≤ 262144 → (g 0).toNat % w = 0 → c % e = 0 → ¬ bad (g 0) ((g 2).toNat * w) → ¬ bad (g 1) ((g 2).toNat * e) → sends i (.cpyd (g 0) (g 1) (g 2).toNat (word % 64) o.toNat)))
    ∧ (let i := Instr.cpyt f t p
       let h := bits (g 3) 0 32
       let wd := bits (g 3) 32 32
       let pattern := match Tab.get? s.patterns p.toNat with | some q => if q.pid = s.pidOf s.cur then some (Stride.ofDesc q.desc) else none | none => none
       let size := match pattern with | some q => if q.fmt = 3 then wd / 32 * (33 * h) else wd * h * 2 ^ q.esz | none => h * wd
       let start := (g 1).toNat % 2 ^ 16
       let crooked := ∃ q, pattern = some q ∧ q.fmt = 3 ∧ (bits (g 2) 32 32 % 32 ≠ 0 ∨ wd % 32 ≠ 0 ∨ start % 2112 ≠ 0 ∨ 65472 ≤ start)
       let into := ¬ bad (g 0) size ∧ onChip ((g 0).toNat % 2 ^ 48) = true
       let outside := s.address (g 1) ≠ none ∧ onChip ((g 1).toNat % 2 ^ 48) = false
       ready i s = true →
        (262144 < size → traps i 0x01 (g 3))
        ∧ (size ≤ 262144 → crooked → traps i 0x02 (g 1))
        ∧ (size ≤ 262144 → ¬ crooked → ¬ into → traps i 0x03 (g 0))
        ∧ (size ≤ 262144 → ¬ crooked → into → ¬ outside → traps i 0x03 (g 1))
        ∧ (size ≤ 262144 → ¬ crooked → into → outside → h * wd = 0 → nothing i)
        ∧ (size ≤ 262144 → ¬ crooked → into → outside → h * wd ≠ 0 → sends i (.cpyt (g 0) (g 1) (g 2) (g 3) p.toNat)))
    ∧ (let i := Instr.cpytSet f t p
       ready i s = true →
        ((g 0).toNat % 32 ≠ 0 → traps i 0x02 (g 0))
        ∧ (∀ a, (g 0).toNat % 32 = 0 → ¬ bad (g 0) 32 → s.address (g 0) = some (a, none) → onChip a = true → sends i (.cpytSet a p.toNat)))

/-- R39, R41, R56, R271 to R277: the engine takes the oldest command of a slot while it holds fewer than 16; a command whose bytes it can
all read and write, its destination apart from its source, gives every destination byte its value, in the scratchpads or in the external
page it translates to, changes no other byte, and completes with the count of its bytes and status 0: the source byte for CPY and, row by
row, CPYS; the bytes of the decoded elements, of every format, rounded to the destination format for CPYD; for CPYT the byte of its row
and column, or of its BS8 block's scale and elements, 0 (0x7F for a scale) outside the array. CPYT.SET enters its descriptor. That a BS8 scale of a
column past the array's is 0x7F too, where R277 says it of rows alone (log 36), and that all bytes are read and written at the completion
(log 5) is the model's choice. -/
def Obligations.CopyEngine : Prop :=
  ∀ (s : State) (id : Nat) (o : Op), s.op? id = some o → o.id = id →
    (∀ c, o.kind = .copy c → o.stage = 0 → s.heldBack o = false → (∀ p ∈ s.ops, p = o ∨ ∀ d, p.kind ≠ .copy d) → exec (.copyEngineAcceptance id) s = .next (s.setOp { o with stage := 1, buf := false }))
    ∧ (o.stage = 1 → s.ops = [o] → s.softErrors = [] → s.coresOut = [] → s.stacksOut = [] → (∀ d < 4, s.joined (dieOf o.owner) d = true) → (∀ b ∈ s.nibs, b.2.sums = []) → Claims.unwritten s → s.spm.wf = true → s.ext.wf = true →
      let byte := Claims.byteOfPid s o.pid
      let run := fun (c r : Nat) => (c / 2 ^ 16 + (c % 2 ^ 16 / 2112 + r) / 31) * 2 ^ 16 + (c % 2 ^ 16 / 2112 + r) % 31 * 2112
      -- byte j of n goes to at' j, made of the bytes at src j, whose pages satisfy need
      let carries := fun (n : Nat) (at' : Nat → Nat) (src : Nat → List Nat) (need : Reg64 → Prop) (val : Nat → Byte) =>
        n ≤ 262144 → (∀ j < n, Claims.reaches s o.pid true (fun _ => True) (at' j)) → (∀ j < n, ∀ a ∈ src j, Claims.reaches s o.pid false need a) →
        (∀ i < n, ∀ j < n, at' i ∉ src j) → (∀ i < n, ∀ j < n, Claims.home s o.pid (at' i) = Claims.home s o.pid (at' j) → i = j) →
        ∀ off, o.off = some off → (s.slot o.owner).live = true → (s.slot o.owner).uid = o.task → (s.slot o.owner).win.wf = true →
        ∃ t : State, exec (.copyCompletion id) s = .next t ∧ t.nibMem = s.nibMem ∧ t.op? id = none ∧ t.full = s.full
          ∧ (∀ j < n, (at' j < 0x40000000 → t.spm.get (at' j) = val j) ∧ (0x40000000 ≤ at' j → t.ext.get (Claims.home s o.pid (at' j)).2 = val j))
          ∧ (∀ x, (∀ j < n, Claims.home s o.pid (at' j) ≠ (true, x)) → t.spm.get x = s.spm.get x)
          ∧ (∀ x, (∀ j < n, Claims.home s o.pid (at' j) ≠ (false, x)) → t.ext.get x = s.ext.get x)
          ∧ Claims.holdsAt (t.slot o.owner).win (s.slot o.owner).win off 8 (n * 2 ^ 8) ∧ (t.slot o.owner).pend = (s.slot o.owner).pend.filter (fun q => q.2 != id)
      (∀ dst src d c n, o.kind = .copy (.cpy dst src n) → s.address dst = some (d, none) → s.address src = some (c, none) →
        carries n (fun j => d + j) (fun j => [c + j]) (fun _ => True) (fun j => byte (c + j)))
      ∧ (∀ dst src n rows ds ss (d c : Nat → Nat), o.kind = .copy (.cpys dst src n rows ds ss) → 0 < n → (∀ r < rows, s.address (dst + r64 r * ds) = some (d r, none) ∧ s.address (src + r64 r * ss) = some (c r, none)) →
        carries (n * rows) (fun j => d (j / n) + j % n) (fun j => [c (j / n) + j % n]) (fun _ => True) (fun j => byte (c (j / n) + j % n)))
      ∧ (∀ dst src d c n word out fmt, o.kind = .copy (.cpyd dst src n word out) → s.address dst = some (d, none) → s.address src = some (c, none) →
        (c < 0x40000000 → fmt = word % 16 ∧ fmtGeomOk fmt (word / 16 % 4) = true) → (0x40000000 ≤ c → ∃ l e, s.leaf o.pid c = some (l, e) ∧ fmt = bits e 6 4 ∧ fmtGeomOk fmt (bits e 10 2) = true) → 1 ≤ fmt → fmt < 10 →
        let f := if out = 4 then fp16 else if out = 5 then bf16 else if out = 6 then fp32 else fp64
        let w := f.width / 8
        let z := if fmt = 8 then 8 else if fmt = 7 then 4 else if fmt = 5 ∨ fmt = 6 then 2 else 1
        let num := fun (a m : Nat) => ((List.range m).map (fun k => (byte (a + k)).toNat * 256 ^ k)).sum
        let scale := fun (k : Nat) => run c (k / 2048) + k / 32 % 64
        let elem := fun (k : Nat) => run c (k / 2048) + 64 + 32 * (k / 32 % 64) + k % 32
        let value := fun (k : Nat) => if fmt = 3 then bs8Value (byte (scale k)).toNat (byte (elem k)).toNat else if fmt = 4 then (decodePef8 (num (c + k / 64 * 64) 64)).getD (k % 64) (.nan false) else codeValue fmt (num (c + k * z) z)
        let from' := fun (k : Nat) => if fmt = 3 then [scale k, elem k] else if fmt = 4 then (List.range 64).map (fun j => c + k / 64 * 64 + j) else (List.range z).map (fun j => c + k * z + j)
        (if fmt = 3 then c % 2 ^ 16 % 2112 = 0 ∧ c % 2 ^ 16 < 65472 ∧ n % 32 = 0 else if fmt = 4 then c % 64 = 0 ∧ n % 64 = 0 else c % z = 0) →
        carries (n * w) (fun j => d + j) (fun j => from' (j / w)) (fun e => bits e 6 4 = fmt ∧ fmtGeomOk fmt (bits e 10 2) = true) (fun j => Claims.byteOf (f.round .rne false 0 (value (j / w))).bits (j % w)))
      ∧ (∀ dst base d c origin extent n q, o.kind = .copy (.cpyt dst base origin extent n) → s.address dst = some (d, none) → s.address base = some (c, none) → Tab.get? s.patterns n = some q → q.pid = o.pid →
        let p := Stride.ofDesc q.desc
        let row := bits origin 0 32
        let col := bits origin 32 32
        let h := bits extent 0 32
        let wd := bits extent 32 32
        let e := 2 ^ p.esz
        (p.fmt ≠ 3 →
          let i := fun (j : Nat) => row + j / e % h
          let k := fun (j : Nat) => col + j / e / h
          let inside := fun (j : Nat) => i j < p.rows ∧ k j < p.cols
          let a := fun (j : Nat) => c + i j * p.pitch + k j * e + j % e
          carries (wd * h * e) (fun j => d + j) (fun j => if inside j then [a j] else []) (fun x => bits x 6 4 = p.fmt) (fun j => if inside j then byte (a j) else 0))
        ∧ (p.fmt = 3 → col % 32 = 0 → wd % 32 = 0 → c % 2 ^ 16 % 2112 = 0 → c % 2 ^ 16 < 65472 →
          let g := fun (j : Nat) => col / 32 + j / (33 * h)
          let m := fun (j : Nat) => j % (33 * h)
          let i := fun (j : Nat) => row + m j % h
          let inside := fun (j : Nat) => i j < p.rows ∧ 32 * g j < p.cols
          let blk := fun (j : Nat) => i j * (p.cols / 32) + g j
          let a := fun (j : Nat) => run c (blk j / 64) + (if m j < h then blk j % 64 else 64 + 32 * (blk j % 64) + (m j - h) / h)
          carries (wd / 32 * 33 * h) (fun j => d + j) (fun j => if inside j then [a j] else []) (fun x => bits x 6 4 = 3) (fun j => if inside j then byte (a j) else if m j < h then 0x7F else 0)))
      ∧ (∀ a n, o.kind = .copy (.cpytSet a n) → a + 32 ≤ 0x40000000 → (∀ x, a ≤ x → x < a + 32 → s.holds o.pid (x / 2 ^ 24) = true) → strideOk (Mem.read s.spm a 32) = true →
          ∃ t : State, exec (.copyCompletion id) s = .next t ∧ Tab.get? t.patterns n = some ⟨Mem.read s.spm a 32, o.pid⟩ ∧ (∀ k, k ≠ n → Tab.get? t.patterns k = Tab.get? s.patterns k) ∧ t.spm = s.spm ∧ t.op? id = none))

/-- R302, R304: PLREG registers a range of one scratchpad of the process, or answers 3 for a set of another process, 2 for a range that
meets a region, 1 for a full table; PLDROP drops the region of its set at its base, after the pass on it, or answers 3 or 1; each traps
on a wrong count (0x01), base (0x02) or range (0x03). That both act at their issue is the model's choice (log 38). -/
def Sys2Proof.Claims.PlasticRegions : Prop :=
  ∀ (s : State) (f t : BitVec 6) (e : BitVec 4),
    let a := s.getG f.toNat
    let n := (s.getG (f.toNat + 1)).toNat
    let other := ∃ q, s.setPid e.toNat = some q ∧ q ≠ s.pidOf s.cur
    let off := if t = 0 then none else some (s.me.gBase + 8 * t.toNat)
    let answers := fun (i : Instr) (st : Nat) (l : List Region) => ∃ u : State, ∃ o : Op, exec i s = .next (u.commit i) ∧ u.regions = l ∧ u.ops.map (fun p => p.id) = s.ops.map (fun p => p.id) ++ [s.nextId] ∧ u.ops.getLast? = some o
      ∧ o.kind = .value (r64 st) [] ∧ o.off = off ∧ o.owner = s.cur ∧ u.me.win = s.me.win ∧ u.spm = s.spm
    let i := Instr.plreg f t e
    let j := Instr.pldrop f t e
    (ready i s = true →
      ((n = 0 ∨ 16384 < n) → exec i s = .next (s.trapMe i 0x01 (i.word.zeroExtend 64)))
      ∧ (0 < n → n ≤ 16384 → a.toNat % 4 ≠ 0 → exec i s = .next (s.trapMe i 0x02 a))
      ∧ (0 < n → n ≤ 16384 → a.toNat % 4 = 0 → s.inOneCore a (4 * n) = none → exec i s = .next (s.trapMe i 0x03 a))
      ∧ (∀ b, 0 < n → n ≤ 16384 → a.toNat % 4 = 0 → s.inOneCore a (4 * n) = some b →
        let meets := ∃ r ∈ s.regions, r.base < b + 4 * n ∧ b < r.base + 4 * r.count
        let full := 8 ≤ (s.regions.filter (fun r => decide (r.base / 2 ^ 16 = b / 2 ^ 16))).length
        (other → answers i 3 s.regions) ∧ (¬ other → meets → answers i 2 s.regions) ∧ (¬ other → ¬ meets → full → answers i 1 s.regions)
        ∧ (¬ other → ¬ meets → ¬ full → answers i 0 (s.regions ++ [{ base := b, count := n, set := e.toNat, pid := s.pidOf s.cur, lid := s.me.lid }]))))
    ∧ (ready j s = true →
      (a.toNat % 4 ≠ 0 → exec j s = .next (s.trapMe j 0x02 a))
      ∧ (a.toNat % 4 = 0 → s.inOneCore a 4 = none → exec j s = .next (s.trapMe j 0x03 a))
      ∧ (∀ b, a.toNat % 4 = 0 → s.inOneCore a 4 = some b →
        (other → answers j 3 s.regions)
        ∧ (¬ other → (∀ r ∈ s.regions, r.base = b → r.set ≠ e.toNat) → answers j 1 s.regions)
        ∧ (∀ r ∈ s.regions, r.base = b → (∀ q ∈ s.regions, q.base = b → q = r) → r.set = e.toNat → ¬ other →
            (r.running = none → answers j 0 (s.regions.filter (fun q => q.base != b)))
            ∧ (∀ k, r.running = some k → ∃ u : State, ∃ o : Op, exec j s = .next (u.commit j) ∧ u.ops = s.ops ++ [o] ∧ o.kind = .pldrop b ∧ o.off = off
                ∧ u.regions = s.regions.map (fun q => if q.base = b then { q with armed := [k] } else q) ∧ u.me.win = s.me.win))))

/-- R305 to R308, R311, R48: TRC traps on its shape, alignments, ranges and a block not wholly in or out of one region; outside regions
it updates the trace half of every pair at once, post × pre + λ × e rounded once and flushed, and leaves every other byte; in one it
waits for its admission, which does the same; the gate holds a TRC back behind an armed reward of a lower stamp or a running pass. That a
block meets a region by its rows, and which writes of its slot a TRC waits for, is the model's choice (log 38). -/
def Sys2Proof.Claims.Traces : Prop :=
  let lam := fun (c : Nat) => if c < 5 then XNum.fin false 1 (-(c : Int)) else if c < 12 then .fin false (2 ^ (c - 3) - 1) (-((c : Int) - 3)) else .zero false
  let y := fun (m : Mem) (b pre post i j st fade : Nat) (mode : Rnd) =>
    let e := fp16.decode (Mem.read m (b + 4 * (i * st + j)) 2)
    let r := (fp16.round mode false 0 (exactFma (mode == .rdn) (fp16.decode (Mem.read m (post + 2 * i) 2)) (fp16.decode (Mem.read m (pre + 2 * j) 2)) (exactMul (lam fade) e).1).1).bits
    if fp16.expField r = 0 then 0 else r
  let traced := fun (m' m : Mem) (b pre post rows cols st fade : Nat) (mode : Rnd) =>
    (∀ i < rows, ∀ j < cols, Mem.read m' (b + 4 * (i * st + j)) 2 = y m b pre post i j st fade mode)
    ∧ ∀ x, (∀ i < rows, ∀ j < cols, x ≠ b + 4 * (i * st + j) ∧ x ≠ b + 4 * (i * st + j) + 1) → m'.get x = m.get x
  ∀ (s : State), s.spm.wf = true →
    (∀ (f : BitVec 6) (l : BitVec 4) (r : BitVec 3), let i := Instr.trc f l r
      let a := s.getG f.toNat
      let pre := s.getG (f.toNat + 1)
      let post := s.getG (f.toNat + 2)
      let shp := s.getG (f.toNat + 3)
      let rows := bits shp 0 16
      let cols := bits shp 16 16
      let st := bits shp 32 16
      let mode := if r = 7 then s.me.mode else (Rnd.ofCode r.toNat).getD .rne
      let span := 4 * ((rows - 1) * st + cols)
      let wrong := rows = 0 ∨ 4096 < rows ∨ cols = 0 ∨ 4096 < cols ∨ st < cols ∨ bits shp 48 16 ≠ 0
      let even := a.toNat % 4 = 0 ∧ pre.toNat % 2 = 0 ∧ post.toNat % 2 = 0
      let misses := fun (b : Nat) (g : Region) => ∀ k < rows, b + 4 * (k * st) + 4 * cols ≤ g.base ∨ g.base + 4 * g.count ≤ b + 4 * (k * st)
      let holds := fun (b : Nat) (g : Region) => ∀ k < rows, g.base ≤ b + 4 * (k * st) ∧ b + 4 * (k * st) + 4 * cols ≤ g.base + 4 * g.count
      ready i s = true →
      (wrong → exec i s = .next (s.trapMe i 0x01 (i.word.zeroExtend 64)))
      ∧ (¬ wrong → a.toNat % 4 ≠ 0 → exec i s = .next (s.trapMe i 0x02 a))
      ∧ (¬ wrong → even → s.inOwnCore a span = none → exec i s = .next (s.trapMe i 0x03 a))
      ∧ (∀ b p q, ¬ wrong → even → s.inOwnCore a span = some b → s.inOwnCore pre (2 * cols) = some p → s.inOwnCore post (2 * rows) = some q → (∀ g ∈ s.regions, 0 < g.count) →
        ((∃ g ∈ s.regions, ¬ misses b g ∧ ¬ holds b g) → exec i s = .next (s.trapMe i 0x01 a))
        ∧ (Claims.unheld s → s.softErrors = [] → (∀ o ∈ s.ops, o.owner ≠ s.cur) →
          ((∀ g ∈ s.regions, misses b g) → mode ≠ .rsto →
            ((s.me.watch = false ∨ ∀ i < rows, ∀ j < cols, fp16.nonFinite (y s.spm b p q i j st l.toNat mode) = false) →
              ∃ u : State, exec i s = .next (u.commit i) ∧ traced u.spm s.spm b p q rows cols st l.toNat mode ∧ u.me.win = s.me.win ∧ u.me.srs = s.me.srs ∧ u.ext = s.ext)
            ∧ (s.me.watch = true → ∀ m < rows, ∀ n < cols, fp16.nonFinite (y s.spm b p q m n st l.toNat mode) = true → (∀ i < rows, ∀ j < cols, i * cols + j < m * cols + n → fp16.nonFinite (y s.spm b p q i j st l.toNat mode) = false) →
              exec i s = .next (s.trapMe i 0x09 (r64 (m * cols + n)))))
          ∧ (∀ g ∈ s.regions, s.regions.filter (fun r => !decide (∀ k < rows, b + 4 * (k * st) + 4 * cols ≤ r.base ∨ r.base + 4 * r.count ≤ b + 4 * (k * st))) = [g] → holds b g →
              ∃ u : State, ∃ o : Op, exec i s = .next u ∧ u.ops = s.ops ++ [o] ∧ o.id = s.nextId ∧ o.kind = .trc a pre post shp l.toNat mode (s.stepOf s.me.uid) g.base ∧ u.me.blocked = some o.id ∧ u.me.pc = s.me.pc ∧ u.spm = s.spm))))
    ∧ (∀ (id : Nat) (o : Op) (a pre post shp : Reg64) (fade x base : Nat) (mode : Rnd), s.op? id = some o → o.id = id → o.kind = .trc a pre post shp fade mode x base →
        let rows := bits shp 0 16
        let cols := bits shp 16 16
        let st := bits shp 32 16
        (s.admits base id = false → exec (.trcAdmission id) s = .next s)
        ∧ (s.admits base id = true → s.softErrors = [] → mode ≠ .rsto → cols ≤ st → (s.slot o.owner).watch = false → (s.slot o.owner).live = true → (s.slot o.owner).blocked = some id → (s.slot o.owner).loops = [] → (∀ p ∈ s.ops, ∀ b w e, p.kind ≠ .waitw b w e) →
            ∃ t : State, exec (.trcAdmission id) s = .next t ∧ traced t.spm s.spm (s.keyOf a) (s.keyOf pre) (s.keyOf post) rows cols st fade mode ∧ (t.slot o.owner).pc = (s.slot o.owner).pc + 4 ∧ (t.slot o.owner).blocked = none
              ∧ t.ops = s.ops.filter (fun p => p.id != id) ∧ t.ext = s.ext)
        ∧ (∀ g, s.region? base = some g → (g.running ≠ none ∨ ∃ w ∈ s.armedAt g, w.2 < x ∧ ∀ p ∈ s.ops, p.id = id → p = o) → s.admits base id = false))

/-- R233, R309 to R313: REWARD forms h once and leaves for the regions of its set, answering 3 for a set of another process; each gate arms
it, begins its pass once it is the oldest, no TRC of its stamp or below waits, its slot's earlier stores there are home and no acquire or load of the slot before it is held (R223, log 38), and the pass gives every weight h × e + w rounded once
and, with .CLR, a zero trace, leaving every other byte, regions that share an aligned 64-byte granule all at once (R234; log 91); it completes with the count of regions when every pass has ended. -/
def Sys2Proof.Claims.Rewards : Prop :=
  ∀ (s : State),
    (∀ (f t : BitVec 6) (e : BitVec 4) (c : BitVec 1), let i := Instr.reward f t e c
      ready i s = true →
      let other := ∃ q, s.setPid e.toNat = some q ∧ q ≠ s.pidOf s.cur
      ∃ u : State, ∃ o : Op, ∃ l : List Nat, exec i s = .next (u.commit i) ∧ u.ops = s.ops ++ [o] ∧ o.id = s.nextId ∧ o.owner = s.cur ∧ o.done = 0
        ∧ o.groups = s.phasersOf s.me.uid ∧ o.kind = .reward e.toNat (c == 1) (fp32.round .rne false 0 (exactMul (fp32.decode ((s.getG (f.toNat + 1)).toNat % 2 ^ 32)) (fp32.decode ((s.getG f.toNat).toNat % 2 ^ 32))).1).bits (s.getG (f.toNat + 2)) l
        ∧ (other → l = [] ∧ o.status = 3) ∧ (¬ other → o.status = 0 ∧ ∀ b, b ∈ l ↔ ∃ g ∈ s.regions, g.base = b ∧ g.set = e.toNat ∧ s.dropping b = false)
        ∧ o.off = (if t = 0 then none else some (s.me.gBase + 8 * t.toNat)) ∧ u.me.win = s.me.win ∧ u.me.srs = s.me.srs ∧ u.spm = s.spm)
    ∧ (∀ (id : Nat) (o : Op) (set : Nat) (clr : Bool) (h : Nat) (st : Reg64) (l : List Nat), s.op? id = some o → o.id = id → o.kind = .reward set clr h st l →
        (∀ b g, b ∈ l → (∀ p ∈ s.ops, p.owner = o.owner → p = o) → s.region? b = some g → (∀ k ∈ s.regions, k = g ∨ (k.base ≠ b ∧ ((b + 4 * g.count - 1) / 64 < k.base / 64 ∨ (k.base + 4 * k.count - 1) / 64 < b / 64))) → g.set = set → g.pid = o.pid → s.dropping b = false →
          exec (.rewardArming id b) s = .next ((((s.setOp { o with kind := .reward set clr h st (l.filter (fun x => x != b)) }).modRegion b (fun g => { g with armed := g.armed ++ [id] }))).pokeGroups))
        ∧ (∀ b g r, s.region? b = some g → g.running = none → g.armed = id :: r →
            ((∀ p ∈ s.ops, ∀ a1 a2 a3 a4 n m x, p.kind = .trc a1 a2 a3 a4 n m x b → st.toNat < x) → (∀ p ∈ s.ops, p.owner = o.owner → p.task = o.task → id ≤ p.id) → exec (.rewardPassStart b) s = .next (s.modRegion b (fun g => { g with running := some id })))
            ∧ ((∃ p ∈ s.ops, ∃ a1 a2 a3 a4 n m x, p.kind = .trc a1 a2 a3 a4 n m x b ∧ x ≤ st.toNat) → exec (.rewardPassStart b) s = .next s)
            ∧ ((∃ p ∈ s.ops, p.owner = o.owner ∧ p.task = o.task ∧ p.id < id ∧ ((∃ x, p.kind = .acquire x) ∨ (∃ l r x, p.kind = .load l r x) ∨ ∃ l r x, p.kind = .table l r x)) → exec (.rewardPassStart b) s = .next s)
            ∧ ((∃ p ∈ s.ops, p.owner = o.owner ∧ p.task = o.task ∧ p.id < id ∧ ∃ els, p.kind = .store els ∧ ∃ e ∈ els, e.1 < b + 4 * g.count ∧ b < e.1 + e.2.1) → exec (.rewardPassStart b) s = .next s))
        ∧ (∀ b g k, s.region? b = some g → g.running = some id → k ∈ s.regions → (k.base ∈ l ∨ id ∈ k.armed) → k.running ≠ some id →
            k.base / 64 ≤ (b + 4 * g.count - 1) / 64 → b / 64 ≤ (k.base + 4 * k.count - 1) / 64 → exec (.rewardPassEnd b) s = .next s)
        ∧ (∀ b g, s.region? b = some g → g.running = some id → (∀ k ∈ s.regions, k = g ∨ (k.base ≠ b ∧ ((b + 4 * g.count - 1) / 64 < k.base / 64 ∨ (k.base + 4 * k.count - 1) / 64 < b / 64))) → Claims.unwritten s → s.spm.wf = true → s.softErrors = [] → s.dropping b = false → (∀ p ∈ s.ops, ∀ b w e, p.kind ≠ .waitw b w e) →
            ∃ t : State, exec (.rewardPassEnd b) s = .next t ∧ t.region? b = some { g with running := none, armed := g.armed.filter (fun x => x != id) } ∧ t.op? id = some { o with done := o.done + 1 } ∧ t.ext = s.ext ∧ t.harts = s.harts
              ∧ (∀ k < g.count, let e := Mem.read s.spm (b + 4 * k) 2
                  Mem.read t.spm (b + 4 * k + 2) 2 = (fp16.round .rne false 0 (exactFma false (fp32.decode h) (fp16.decode e) (fp16.decode (Mem.read s.spm (b + 4 * k + 2) 2))).1).bits ∧ Mem.read t.spm (b + 4 * k) 2 = if clr then 0 else e)
              ∧ (∀ x, (x < b ∨ b + 4 * g.count ≤ x) → t.spm.get x = s.spm.get x))
        ∧ ((l ≠ [] ∨ ∃ g ∈ s.regions, id ∈ g.armed) → exec (.rewardCompletion id) s = .next s)
        ∧ (l = [] → (∀ g ∈ s.regions, id ∉ g.armed) → o.status = 0 → o.done < 2 ^ 32 → ∀ off, o.off = some off → (s.slot o.owner).live = true → (s.slot o.owner).uid = o.task → (s.slot o.owner).win.wf = true →
            (∀ c ∈ s.clusters, ∀ p ∈ c.2.phasers, p.2.group = none) → ∃ t : State, exec (.rewardCompletion id) s = .next t ∧ t.op? id = none ∧ Claims.holdsAt (t.slot o.owner).win (s.slot o.owner).win off 8 (o.done * 2 ^ 8) ∧ t.spm = s.spm))

/-- Plastic regions, TRC and REWARD: `Claims.PlasticRegions`, `Claims.Traces` and `Claims.Rewards`. -/
def Obligations.PlasticityAndRewards : Prop := Claims.PlasticRegions ∧ Claims.Traces ∧ Claims.Rewards

/-- R314 to R318: STEPADV of a strict group signals, and completes the step as its last signaller with no event or unarmed reward of the
group in flight, reading the word of the advance; else it waits, and reads the word once the step is over; a deadline group advances
each period. -/
def Sys2Proof.Claims.StepAdvance : Prop :=
  ∀ (s : State) (f t : BitVec 6) (id : Nat) (p : Phaser) (g : StepGroup), s.phaser? id = some p → p.group = some g →
    (∀ m, s.named (s.getG f.toNat) = .ok (id, p) → p.member? s.me.uid = some m → ready (.stepadv f t) s = true →
      ((m.sigMode = false ∨ m.waitMode = false) → exec (.stepadv f t) s = .next (s.trapMe (.stepadv f t) 0x01 (s.getG f.toNat)))
      ∧ (m.sigMode = true → m.waitMode = true →
        (∀ n, s.me.midway = some (s.me.pc, n) → (p.phase ≤ n → exec (.stepadv f t) s = .next (s.mark .step))
          ∧ (n < p.phase → ∀ w, g.words.find? (fun w => w.1 == n + 1) = some w →
              ∃ u : State, exec (.stepadv f t) s = .next ((u.putG t.toNat w.2).commit (.stepadv f t)) ∧ u.harts = s.harts ∧ u.phaser? id = some (p.modMember s.me.uid (fun r => { r with wp := n + 1 }))))
        ∧ (s.me.midway = none → s.me.acks ≠ 0 → exec (.stepadv f t) s = .next (s.mark .release))
        ∧ (s.me.midway = none → s.me.acks = 0 → (∀ r ∈ p.members, r.uid < 2 ^ 64) →
          let late := ∃ r ∈ p.members, r.sigMode = true ∧ r.sig = false ∧ r.uid ≠ s.me.uid
          let mine := p.modMember s.me.uid (fun r => { r with sig := true })
          (g.period ≠ 0 → ∃ u : State, exec (.stepadv f t) s = .next u ∧ u.me.midway = some (s.me.pc, p.phase) ∧ u.me.pc = s.me.pc ∧ u.phaser? id = some p)
          ∧ (g.period = 0 → late → ∃ u : State, exec (.stepadv f t) s = .next u ∧ u.me.midway = some (s.me.pc, p.phase) ∧ u.me.pc = s.me.pc ∧ u.phaser? id = some mine)
          ∧ (g.period = 0 → ¬ late → (∀ o ∈ s.ops, (∀ a b c d n x e l, o.kind ≠ .event a b c d n x e l) ∧ ∀ a b c d e, o.kind ≠ .reward a b c d e) →
              ∃ u : State, ∃ q : Phaser, ∃ w : Reg64, exec (.stepadv f t) s = .next ((u.putG t.toNat w).commit (.stepadv f t)) ∧ u.phaser? id = some q ∧ q.phase = p.phase + 1 ∧ (∀ r ∈ q.members, r.sig = false)
                ∧ bits w 0 32 = (p.phase + 1) % 2 ^ 32 ∧ bits w 32 16 = min g.late 0xFFFF ∧ bits w 48 16 = min g.discard 0xFFFF ∧ (q.group.map (fun h => (h.late, h.discard))) = some (0, 0)))))
    ∧ (g.period = 0 ∨ s.clk < g.nextTick → exec (.stepTick id) s = .next s)
    ∧ (g.period ≠ 0 → g.nextTick ≤ s.clk → ∃ u : State, ∃ q : Phaser, ∃ h : StepGroup, exec (.stepTick id) s = .next u ∧ u.phaser? id = some q ∧ q.phase = p.phase + 1 ∧ q.group = some h ∧ h.period = g.period ∧ h.nextTick = g.nextTick + g.period
        ∧ h.late = 0 ∧ h.discard = 0 ∧ u.harts = s.harts ∧ u.spm = s.spm)

/-- R317, R319, R320, R322: DRING checks its fields, base and place, answers 1 for no phaser of the process and 2 for another period, and
else zeroes the ring's potentials, mask bits and slots, and no other bit, and binds it to its step group; with N = 0 it removes the core's ring; NRN gives every neuron named its
new potential, or v_reset and a set mask bit where it reaches the threshold, and clears the slot of the step it has read. -/
def Sys2Proof.Claims.RingsAndNeurons : Prop :=
  ∀ (s : State),
    (∀ (f t : BitVec 6), t ≠ 0 → let i := Instr.dring f t
      let b := s.getG f.toNat
      let cfg := s.getG (f.toNat + 1)
      let gw := s.getG (f.toNat + 2)
      let n := bits cfg 0 16
      let d := bits cfg 16 8
      let id := bits gw 0 15
      let per := bits gw 32 32
      let size := 64 * ((2 * n + 63) / 64) + 64 * ((n + 511) / 512) + 2 * n * d
      let wrong := (n = 0 ∧ (cfg ≠ 0 ∨ gw ≠ 0)) ∨ (n ≠ 0 ∧ (bits cfg 28 4 ≠ 0 ∨ bits gw 15 17 ≠ 0 ∨ d = 0 ∨ 64 < d ∨ 4096 < n ∨ 16384 < n * d ∨ 13 ≤ bits cfg 24 4 ∨ (1 ≤ per ∧ per < 256)))
      let answers := fun (u : State) (st : Nat) => exec i s = .next ((u.putG t.toNat (r64 st)).commit i)
      let mine := s.holds (s.pidOf s.cur) (id / 512) = true
      ready i s = true →
      (wrong → exec i s = .next (s.trapMe i 0x01 (i.word.zeroExtend 64)))
      ∧ (¬ wrong → n = 0 → answers (s.modCore (cidOf s.cur) (fun c => { c with ring := none })) 0)
      ∧ (¬ wrong → n ≠ 0 → b.toNat % 64 ≠ 0 → exec i s = .next (s.trapMe i 0x02 b))
      ∧ (¬ wrong → n ≠ 0 → b.toNat % 64 = 0 → s.inOwnCore b size = none → exec i s = .next (s.trapMe i 0x03 b))
      ∧ (∀ o, ¬ wrong → n ≠ 0 → b.toNat % 64 = 0 → s.inOwnCore b size = some o → Claims.unheld s → s.spm.wf = true → (∀ p ∈ s.ops, p.owner ≠ s.cur) →
        ((¬ mine ∨ s.phaser? id = none) → answers s 1)
        ∧ (∀ p, mine → s.phaser? id = some p → (∃ g, p.group = some g ∧ g.period ≠ per) → answers s 2)
        ∧ (∀ p, mine → s.phaser? id = some p → (∀ g, p.group = some g → g.period = per) → (∀ q ∈ s.ops, ∀ b w e, q.kind ≠ .waitw b w e) →
            ∃ u : State, answers u 0 ∧ (let mask := o + 64 * ((2 * n + 63) / 64)
                let slots := mask + 64 * ((n + 511) / 512)
                ∀ x, u.spm.get x = if (o ≤ x ∧ x < o + 2 * n) ∨ (mask ≤ x ∧ x < mask + n / 8) ∨ (slots ≤ x ∧ x < slots + 2 * n * d) then 0
                  else if x = mask + n / 8 ∧ n % 8 ≠ 0 then BitVec.ofNat 8 ((s.spm.get x).toNat / 2 ^ (n % 8) * 2 ^ (n % 8)) else s.spm.get x) ∧ u.harts = s.harts
              ∧ (u.core (cidOf s.cur)).ring = some { base := o, n := n, d := d, fade := bits cfg 24 4, theta := bits cfg 32 16, vreset := bits cfg 48 16, ph := id, lid := s.me.lid }
              ∧ (∃ q, u.phaser? id = some q ∧ q.phase = p.phase ∧ (p.group = none → q.members = p.members.map (fun m => { m with sig := false })) ∧ (p.group ≠ none → q.members = p.members) ∧ (p.group = none → q.group = some { period := per, nextTick := s.clk + per }) ∧ (p.group ≠ none → q.group = p.group)))))
    ∧ (∀ (f : BitVec 6), let i := Instr.nrn f
      let a := (s.getG f.toNat).toNat
      let c := (s.getG (f.toNat + 1)).toNat
      ready i s = true →
      ((s.core (cidOf s.cur)).ring = none → exec i s = .next (s.trapMe i 0x01 (i.word.zeroExtend 64)))
      ∧ (∀ r, (s.core (cidOf s.cur)).ring = some r →
        let mask := r.base + 64 * ((2 * r.n + 63) / 64)
        let k := s.ringStep (s.pidOf s.cur) r % r.d
        let cell := fun (n : Nat) => mask + 64 * ((r.n + 511) / 512) + 2 * (k * r.n + n)
        let lam := if r.fade < 5 then XNum.fin false 1 (-(r.fade : Int)) else if r.fade < 12 then .fin false (2 ^ (r.fade - 3) - 1) (-((r.fade : Int) - 3)) else .zero false
        let v := fun (n : Nat) => (fp16.round s.me.mode false 0 (exactSum (s.me.mode == .rdn) [(exactMul lam (fp16.decode (Mem.read s.spm (r.base + 2 * n) 2))).1, fp16.decode (Mem.read s.spm (cell n) 2)]).1).bits
        let fires := fun (n : Nat) => (fp16.decode (v n)).isNan = false ∧ (fp16.decode r.theta).isNan = false ∧ numLe (fp16.decode r.theta) (fp16.decode (v n)) = true
        (r.n < a + c → exec i s = .next (s.trapMe i 0x01 (i.word.zeroExtend 64)))
        ∧ (a + c ≤ r.n → c = 0 → exec i s = .next (s.commit i))
        ∧ (a + c ≤ r.n → c ≠ 0 → 0 < r.d → r.vreset < 2 ^ 16 → Claims.unheld s → s.softErrors = [] → (∀ p ∈ s.ops, p.owner ≠ s.cur) → s.me.mode ≠ .rsto → s.spm.wf = true → (∀ q ∈ s.ops, ∀ b w e, q.kind ≠ .waitw b w e) →
          ((s.me.watch = false ∨ ∀ n, a ≤ n → n < a + c → fp16.nonFinite (v n) = false) →
            ∃ u : State, exec i s = .next (u.commit i) ∧ u.me.win = s.me.win ∧ u.me.srs = s.me.srs ∧ u.ext = s.ext
              ∧ (∀ n, a ≤ n → n < a + c → (fires n → Mem.read u.spm (r.base + 2 * n) 2 = r.vreset) ∧ (¬ fires n → Mem.read u.spm (r.base + 2 * n) 2 = v n) ∧ Mem.read u.spm (cell n) 2 = 0
                  ∧ ((u.spm.get (mask + n / 8)).getLsbD (n % 8) = true ↔ fires n))
              ∧ (∀ x, (∀ n, a ≤ n → n < a + c → x ≠ r.base + 2 * n ∧ x ≠ r.base + 2 * n + 1 ∧ x ≠ cell n ∧ x ≠ cell n + 1 ∧ x ≠ mask + n / 8) → u.spm.get x = s.spm.get x))
          ∧ (s.me.watch = true → ∀ n, a ≤ n → n < a + c → fp16.nonFinite (v n) = true → (∀ j, a ≤ j → j < n → fp16.nonFinite (v j) = false) → exec i s = .next (s.trapMe i 0x09 (r64 n))))))

/-- R18, R153, R317, R321, R323: EVSEND checks its fields and target and sends one event with its group and step; that a core of a cluster that has
left service is no target, cause 0x03, is the model's choice (log 73); at a ring of that group the
value is added once rounded to the slot of the step plus the delay, with a notice where asked, and elsewhere, and in a cluster its process
holds no longer or of a group in one, it is discarded; WAITEV takes a notice of its core's queue, the first that no waiting slot of a lower number has before it,
or waits for one, or for a later step, whose word it then reads only where no notice is left for it. -/
def Sys2Proof.Claims.Events : Prop :=
  -- how many task slots of the hart's core with a lower number wait for events
  let before := fun (s : State) (h : Nat) => ((List.range (h % 5)).filter (fun i => let x := s.slot (h / 5 * 5 + i); x.live && x.blocked.isSome && (x.waiting.map (fun w => w.1)) == some .event)).length
  ∀ (s : State),
    (∀ (f : BitVec 6) (n : BitVec 1), let i := Instr.evsend f n
      let a := s.getG f.toNat
      let b := s.getG (f.toNat + 1)
      let cid := bits a 0 14
      let d := bits b 16 6
      let wrong := bits a 14 2 ≠ 0 ∨ bits a 28 36 ≠ 0 ∨ bits b 22 42 ≠ 0 ∨ d = 0
      let there := s.holds (s.pidOf s.cur) (cid / 256) = true ∧ s.coresOut.contains cid = false ∧ s.clustersOut.contains (cid / 256) = false
      ready i s = true →
      (wrong → exec i s = .next (s.trapMe i 0x01 (i.word.zeroExtend 64)))
      ∧ (¬ wrong → ¬ there → exec i s = .next (s.trapMe i 0x03 a))
      ∧ (¬ wrong → there → ∃ u : State, ∃ o : Op, ∃ l, exec i s = .next (u.commit i) ∧ u.ops = s.ops ++ [o] ∧ o.id = s.nextId ∧ o.owner = s.cur
          ∧ o.kind = .event cid (bits a 16 12) (bits b 0 16) d (n == 1) (s.stepGroup s.me.uid) (s.stepOf s.me.uid) l ∧ u.harts = s.harts ∧ u.spm = s.spm))
    ∧ (∀ (id : Nat) (o : Op) (cid n v d : Nat) (ntf : Bool) (grp : Option Nat) (st : Nat) (l : List (Nat × Nat)), s.op? id = some o → o.id = id → o.kind = .event cid n v d ntf grp st l → (∀ p ∈ s.ops, p.owner = o.owner → p = o) → s.spm.wf = true →
        (∀ p ∈ s.ops, ∀ b w e, p.kind ≠ .waitw b w e) →
        (∀ r k q g, s.holds o.pid (cid / 256) = true → s.softErrors = [] → (s.core cid).ring = some r → grp = some k → r.ph = k → s.holds o.pid (k / 512) = true → s.phaser? k = some q → q.group = some g → n < r.n → d < r.d →
          let a := r.base + 64 * ((2 * r.n + 63) / 64) + 64 * ((r.n + 511) / 512) + 2 * ((q.phase + d) % r.d * r.n + n)
          ∃ t : State, exec (.eventDeposit id) s = .next t ∧ t.op? id = none ∧ t.harts = s.harts
            ∧ Claims.holdsAt t.spm s.spm a 2 (fp16.round .rne false 0 (exactSum false [fp16.decode (Mem.read s.spm a 2), fp16.decode v]).1).bits
            ∧ ((s.core cid).notices.length < 64 → v < 2 ^ 16 → n < 2 ^ 12 → r.d ≤ 64 → (t.core cid).notices = (s.core cid).notices ++ (if ntf then [r64 (2 ^ 62 + (q.phase + d) % r.d * 2 ^ 48 + n * 2 ^ 32 + v)] else []))
            ∧ ((s.core cid).notices.length = 64 → ntf = true → (t.core cid).notices = (s.core cid).notices ∧ (t.core cid).noticeDrops = (s.core cid).noticeDrops + 1))
        ∧ ((s.holds o.pid (cid / 256) = false ∨ (s.core cid).ring = none ∨ grp = none ∨ (∃ k, grp = some k ∧ s.holds o.pid (k / 512) = false) ∨ ∃ r, (s.core cid).ring = some r ∧ (grp ≠ some r.ph ∨ r.n ≤ n ∨ r.d ≤ d)) → ∃ t : State, exec (.eventDeposit id) s = .next t ∧ t.op? id = none ∧ t.spm = s.spm ∧ t.cores = s.cores ∧ t.harts = s.harts))
    ∧ (∀ (t : BitVec 6), let i := Instr.waitev t
      let c := cidOf s.cur
      let j := before s s.cur
      isTask s.cur = true → ready i s = true →
      (∀ w, (s.core c).notices[j]? = some w → exec i s = .next (((s.modCore c (fun x => { x with notices := x.notices.eraseIdx j })).putG t.toNat w).commit i))
      ∧ ((s.core c).notices.length ≤ j → ∃ u : State, ∃ o : Op, exec i s = .next u ∧ u.ops = s.ops ++ [o] ∧ o.kind = .waitev (s.stepGroup s.me.uid) (s.stepOf s.me.uid) ∧ u.me.blocked = some o.id ∧ u.me.pc = s.me.pc))
    ∧ (∀ (cid sl : Nat) (o : Op) (grp : Option Nat) (st : Nat), sl < 4 → let h := hartOf cid sl
      let x := s.slot h
      x.live = true → x.blocked = some o.id → s.op? o.id = some o → o.owner = h → o.kind = .waitev grp st → x.loops = [] → x.win.wf = true →
      let goes := fun (w : Reg64) => ∃ u : State, exec (.waitevWake cid sl) s = .next u ∧ (u.slot h).pc = x.pc + 4 ∧ (u.slot h).blocked = none ∧ (∀ off, o.off = some off → Claims.holdsAt (u.slot h).win x.win off 8 w.toNat)
      (∀ w, (s.core cid).notices[before s h]? = some w → goes w)
      ∧ ((s.core cid).notices.length ≤ before s h →
        (∀ k q, grp = some k → s.holds o.pid (k / 512) = true → s.phaser? k = some q → st < q.phase → goes (r64 (2 ^ 63 + q.phase % 2 ^ 32)))
        ∧ ((∀ k q, grp = some k → s.holds o.pid (k / 512) = true → s.phaser? k = some q → q.phase ≤ st) → exec (.waitevWake cid sl) s = .next s)))

/-- STEPADV, DRING, NRN, EVSEND and WAITEV: `Claims.StepAdvance`, `Claims.RingsAndNeurons` and `Claims.Events`. -/
def Obligations.StepsRingsAndEvents : Prop := Claims.StepAdvance ∧ Claims.RingsAndNeurons ∧ Claims.Events

/-- R293, R300, R301, R400, R401, R402, R403, R404: an accepted request frees its buffer slot, and an atomic is accepted where its unit is in
service and holds a reply-cache entry for the response from then on, or where its part can be reached; a packet that has waited the escape wait on its die
for an output is on the escape channel; a link between dies or at a port sends the next packet of its channel where its replay buffer has
room for the flits; a good packet with the next number is delivered once, its operation one place further, where it has left the escape
channel if it has got there, and one delivered already is
not; a bad CRC delivers nothing and counts for the link, and after 16 failed replays in a row, a first sending not counted, nothing is sent but by a retrain; an
acknowledged packet leaves the replay buffer; a retrain discards flits in flight, and its end replays from the oldest unacknowledged packet.
The wait counted by die (log 70) and the numbers of links and channels (log 60) are the model's choices. -/
def Sys2Proof.Claims.RequestsAndLinks : Prop :=
  ∀ (s : State) (id l vc : Nat),
    (∀ o, s.op? id = some o →
      (o.buf = true → (∃ a b c, o.kind = .fullEmpty a b c ∨ o.kind = .qsend a b (r64 c)) → s.heldBack o = false → s.arrived o = true → exec (.requestAcceptance id) s = .next (s.setOp { o with buf := false }))
      ∧ (∀ fn n a v e q nr m r, o.kind = .atomic fn n a v e q nr m r → o.buf = true → s.heldBack o = false → s.arrived o = true →
          let u := s.callUnit a
          (u < 2 ^ 20 → s.unitOut u = false → s.cacheFull u = false → exec (.requestAcceptance id) s = .next (({ s with replies := s.replies ++ [⟨u, o.id, none⟩] } : State).setOp { o with buf := false }))
          ∧ (u < 2 ^ 20 → (s.unitOut u = true ∨ s.cacheFull u = true) → exec (.requestAcceptance id) s = .next s)
          ∧ (2 ^ 20 ≤ u → exec (.requestAcceptance id) s = .next (if s.peerIn ((u - 2 ^ 20) % 32) = true then s.setOp { o with buf := false } else s)))
      ∧ (s.arrived o = false → exec (.requestAcceptance id) s = .next s)
      ∧ (s.arrived o = false → s.onLink id = false → o.since + s.escapeWait ≤ s.clk → ∃ t : State, exec (.escapeWaitExpiry id) s = .next t ∧ id ∈ t.escaped ∧ t.ops = s.ops ∧ t.harts = s.harts)
      ∧ ((s.arrived o = true ∨ s.onLink id = true ∨ s.clk < o.since + s.escapeWait) → exec (.escapeWaitExpiry id) s = .next s))
    ∧ (let x := s.link l
       let c := x.chan vc
       let up := l < 64 ∧ vc < 8 ∧ x.training = false ∧ x.down = false
       let size := Config.packetFlits c.nextSend
       let room := (c.unacked.map (fun p => p.flits)).sum + size ≤ Config.replayFlits
       (up → c.failed < 16 →
        (∀ p rest stored, ((c.flight = [] ∧ room ∧ p = ⟨c.nextSend, size, s.nextPacket l vc⟩ ∧ rest = [] ∧ stored = c.unacked ++ [p]) ∨ (c.flight = p :: rest ∧ stored = c.unacked)) →
          (∃ t : State, exec (.packetReceipt l vc true) s = .next t ∧ ((t.link l).chan vc).delivered = (if p.seq = c.expect then c.delivered ++ [p] else c.delivered) ∧ ((t.link l).chan vc).expect = (if p.seq = c.expect then p.seq + 1 else c.expect)
            ∧ ((t.link l).chan vc).failed = 0 ∧ ((t.link l).chan vc).replays = c.replays - 1 ∧ ((t.link l).chan vc).unacked = stored ∧ ((t.link l).chan vc).flight = rest ∧ (∀ k, k ≠ vc → (t.link l).chan k = x.chan k) ∧ t.harts = s.harts
            ∧ ((p.seq ≠ c.expect ∨ p.op = none) → t.ops = s.ops)
            ∧ (p.seq = c.expect → ∀ o d, p.op = some o.id → s.op? o.id = some o → s.hop o l vc = some d → t.op? o.id = some { o with die := d, since := s.clk } ∧ (d = s.packetTo o → o.id ∉ t.escaped)))
          ∧ (∃ u : State, exec (.packetReceipt l vc false) s = .next (u.noteUnit (18688 + l)) ∧ ((u.link l).chan vc).delivered = c.delivered ∧ ((u.link l).chan vc).failed = (if c.replays = 0 then c.failed else c.failed + 1) ∧ ((u.link l).chan vc).replays = max 1 c.replays ∧ ((u.link l).chan vc).expect = c.expect
            ∧ ((u.link l).chan vc).unacked = stored ∧ u.ops = s.ops ∧ u.mgmtErrs.length = s.mgmtErrs.length + 1 ∧ ∃ r ∈ u.mgmtErrs.head?, r.kind = 6 ∧ r.ukind = 8))
        ∧ (c.flight = [] → ¬ room → ∃ t : State, exec (.packetReceipt l vc true) s = .next t ∧ ((t.link l).chan vc).unacked = c.unacked ∧ ((t.link l).chan vc).nextSend = c.nextSend ∧ ((t.link l).chan vc).delivered = c.delivered ∧ t.ops = s.ops))
       ∧ (∀ ok, 16 ≤ c.failed → exec (.packetReceipt l vc ok) s = .next s)
       ∧ (up → ∀ q r, c.unacked = q :: r → q.seq < c.expect → exec (.packetAcknowledgement l vc) s = .next (s.setLink l (x.setChan vc { c with unacked := r })))
       ∧ (l < 64 → x.training = false → x.down = false → ∃ u : State, exec (.linkRetrain l) s = .next (u.noteUnit (18688 + l)) ∧ (u.link l).training = true ∧ (∀ k, ((u.link l).chan k).flight = [] ∧ ((u.link l).chan k).unacked = (x.chan k).unacked) ∧ u.ops = s.ops)
       ∧ (x.training = true → ∃ t : State, exec (.linkTrainingEnd l) s = .next t ∧ (t.link l).training = false ∧ (∀ k, ((t.link l).chan k).flight = (x.chan k).unacked ∧ ((t.link l).chan k).delivered = (x.chan k).delivered ∧ ((t.link l).chan k).failed = 0 ∧ ((t.link l).chan k).replays = (x.chan k).unacked.length) ∧ t.harts = s.harts))

/-- R336, R396, R397, R399: host reads and writes act on the bytes their addresses translate to, a range out of external memory or of over 4 KiB
or a byte that does not translate faulting, and wait where a nib that runs a routine has sums there (R336); a ring descriptor is registered; a head write out of range stops the ring with a notice,
and each record from the tail count on is read, accepted or rejected, and answered in the status array. That a record that cannot be read stops
the ring (log 49), which accesses wait for sums at a nib (log 71) and the form of the messages (log 50) are the model's choices. -/
def Sys2Proof.Claims.HostAccessesAndRings : Prop :=
  ∀ (s : State),
    (∀ (pid : BitVec 16) (va : Reg64) (n : Nat) (l : List Byte) (p : Nat → Nat),
      ((va.toNat < 0x40000000 ∨ 2 ^ 48 < va.toNat + n ∨ 4096 < n) → exec (.hostMemoryRead pid va n) s = .next { s with outbox := s.outbox ++ [.accessFault va] })
      ∧ ((va.toNat < 0x40000000 ∨ 2 ^ 48 < va.toNat + l.length ∨ 4096 < l.length) → exec (.hostMemoryWrite pid va l) s = .next { s with outbox := s.outbox ++ [.accessFault va] })
      ∧ (0x40000000 ≤ va.toNat → va.toNat + n ≤ 2 ^ 48 → n ≤ 4096 → l.length = n → s.hostBusy pid va.toNat n = true → exec (.hostMemoryRead pid va n) s = .next s ∧ exec (.hostMemoryWrite pid va l) s = .next s)
      ∧ (s.nibs = [] → 0x40000000 ≤ va.toNat → va.toNat + n ≤ 2 ^ 48 → n ≤ 4096 →
        ((∀ k < n, ∃ e, s.translate pid (va.toNat + k) true false false = some (p k, e)) → exec (.hostMemoryRead pid va n) s = .next { s with outbox := s.outbox ++ [.readData ((List.range n).map (fun k => s.ext.get (p k)))] })
        ∧ ((∃ k < n, s.translate pid (va.toNat + k) true false false = none) → exec (.hostMemoryRead pid va n) s = .next { s with outbox := s.outbox ++ [.accessFault va] })
        ∧ (l.length = n → s.ext.wf = true →
          ((∀ k < n, (∃ e, s.translate pid (va.toNat + k) false true false = some (p k, e)) ∧ s.cached pid (va.toNat + k) ≠ none) → (∀ i < n, ∀ j < n, i ≠ j → p i ≠ p j) → ∃ t : State, exec (.hostMemoryWrite pid va l) s = .next t ∧ t.outbox = s.outbox ++ [.writeDone]
            ∧ (∀ k < n, t.ext.get (p k) = l.getD k 0) ∧ (∀ x, (∀ k < n, x ≠ p k) → t.ext.get x = s.ext.get x) ∧ t.harts = s.harts ∧ t.spm = s.spm)
          ∧ (s.translate pid va.toNat false true false = none → 0 < n → exec (.hostMemoryWrite pid va l) s = .next { s with outbox := s.outbox ++ [.accessFault va] }))))
    ∧ (∀ (die n : Nat) (d : BitVec 256), die < 4 → n < 16 → s.ring? die n = none → (∀ k < n, s.ring? die k ≠ none) → d.toNat % 2 ^ 96 = 0 →
        let sz := d.toNat / 2 ^ 108 % 16
        let base := d.toNat / 2 ^ 128 % 2 ^ 64
        let stat := d.toNat / 2 ^ 192 % 2 ^ 64
        4 ≤ sz → sz ≤ 12 → base % 64 = 0 → stat % 8 = 0 →
        exec (.ringRegistration die d) s = .next { s with rings := s.rings ++ [{ die := die, n := n, base := r64 base, stat := r64 stat, pid := BitVec.ofNat 16 (d.toNat / 2 ^ 112), s := sz, vec := d.toNat / 2 ^ 96 % 2 ^ 12, tail := 0, stopped := false }] })
    ∧ (∀ (die n : Nat) (h : Reg64) (r : LaunchRing), s.ring? die n = some r →
        (r.stopped = true → exec (.ringHeadWrite die n h) s = .next s)
        ∧ (r.stopped = false → h.toNat = r.tail → exec (.ringHeadWrite die n h) s = .next s)
        ∧ (r.stopped = false → (h.toNat < r.tail ∨ r.tail + 2 ^ r.s < h.toNat) → ∃ t : State, ∃ w, exec (.ringHeadWrite die n h) s = .next t ∧ t.ring? die n = some { r with stopped := true } ∧ t.outbox = s.outbox ++ [.interrupt r.vec 0xFFFFFFFFFFFFFFFF w] ∧ t.harts = s.harts ∧ t.launches = s.launches)
        ∧ (r.stopped = false → h.toNat = r.tail + 1 → s.nibs = [] →
          let k := r.tail % 2 ^ r.s
          (∀ l, s.readVirt r.pid (r.base.toNat + 64 * k) 64 = (l, true) →
            let a := s.acceptRecord die r.pid (.ring die n) ((List.range 8).map (fun j => r64 (natOfBytes ((l.drop (8 * j)).take 8))))
            exec (.ringHeadWrite die n h) s = .next ((a.1.writeVirt r.pid (r.stat.toNat + 8 * k) ((List.range 8).map (fun j => Claims.byteOf (a.2.2.toNat + a.2.1 * 2 ^ 32) j))).1.setRing { r with tail := r.tail + 1 }))
          ∧ ((s.readVirt r.pid (r.base.toNat + 64 * k) 64).2 = false → ∃ t : State, exec (.ringHeadWrite die n h) s = .next t ∧ t.ring? die n = some { r with stopped := true } ∧ t.harts = s.harts)))

/-- Requests, die links, host accesses and launch rings: `Claims.RequestsAndLinks` and `Claims.HostAccessesAndRings`. -/
def Obligations.LinksAndHost : Prop := Claims.RequestsAndLinks ∧ Claims.HostAccessesAndRings

/-- R24, R26, R395, R400, R407 to R411: an image is loaded only with a good signature and no version below the rollback counter; telemetry and
the attestation report answer what the part holds, a lost UCIe module too; a setting in range is written, one out of range changes nothing; a
throttle level is taken at the next period, once per 100 µs; a shutdown removes power and keeps its cause; in reset no hart issues and only
bring-up and management go on, the other images not before that of the management controller, with which the units that failed their test leave
service; bring-up, once the images are verified, puts the links and modules that failed out of service, joins the domain
of a signed topology image, sets the capability registers, ports that have left service apart, and sends the ready message. The numbers of items, settings
and images (log 50), what bring-up needs and what a shutdown leaves (log 52), the self-test as an input and two lost modules (log 66) and the topology
image (log 67) are the model's choices. -/
def Obligations.Management : Prop :=
  ∀ (s : State),
    (∀ (u v : Nat) (ok : Bool) (d : BitVec 256), u < 261 →
      let inOrder := s.ready = true ∨ u = 0 ∨ ∃ m ∈ s.firmware, m.unit = 0
      -- a unit that step 2 of bring-up tests: no link, port or module
      let tests := fun (x : Nat) => (decide (x < 18688) || decide (18752 ≤ x)) && decide (x < 21096)
      let w : State := if s.ready = false ∧ u = 0 then (s.selfTest.filter tests).foldl State.unitLeaves { s with selfTest := s.selfTest.filter (fun x => !tests x) } else s
      (¬ inOrder → exec (.firmwareImage u v ok d) s = .next s)
      ∧ ((ok = true ∧ s.rollback ≤ v) → inOrder → ∃ t : State, exec (.firmwareImage u v ok d) s = .next t ∧ (∃ m ∈ t.firmware, m.unit = u ∧ m.version = v ∧ m.digest = d) ∧ (∀ m ∈ t.firmware, m.unit = u → m.digest = d) ∧ u ∉ t.refused ∧ t.outbox = w.outbox ++ [.firmware u true] ∧ t.rollback = w.rollback ∧ t.selfTest = w.selfTest ∧ t.stacksOut = w.stacksOut ∧ t.coresOut = w.coresOut)
      ∧ (inOrder → ¬ (ok = true ∧ s.rollback ≤ v) → ∃ t : State, exec (.firmwareImage u v ok d) s = .next t ∧ t.firmware = s.firmware ∧ (s.ready = false → u ∈ t.refused) ∧ t.outbox = s.outbox ++ [.firmware u false] ∧ t.harts = s.harts))
    ∧ (∀ nonce : BitVec 256, ∃ t : State, ∃ sig : List Reg64, exec (.attestationReport nonce) s = .next t ∧ t.harts = s.harts
        ∧ t.outbox = s.outbox ++ [.attestation ([0x504B0A0900010000] ++ s.firmware.flatMap (fun m => (List.range 4).map (fun i => r64 (m.digest.toNat / 2 ^ (64 * i)))) ++ [r64 s.rollback] ++ (List.range 4).map (fun i => r64 (nonce.toNat / 2 ^ (64 * i))) ++ sig)])
    ∧ (let tells := fun (item n v : Nat) => exec (.telemetryRead item n) s = .next { s with outbox := s.outbox ++ [.telemetry v] }
       (∀ n < 64, tells 0 n (s.cluster n).monFall ∧ tells 2 n (s.cluster n).errOver) ∧ (∀ n < 16384, tells 1 n (s.core n).noticeDrops) ∧ (∀ n < 4, tells 6 n (Tab.getD s.throttle n 0))
       ∧ (∀ n < 2, tells 7 n (if s.modulesOut.contains n = true then 1 else 0))
       ∧ (∀ n, ∃ t : State, exec (.telemetryRead 3 n) s = .next t ∧ t.outbox = s.outbox ++ (Tab.getD s.unitTimes n []).map HostMsg.telemetry ∧ t.harts = s.harts))
    ∧ (∀ v, let set := fun (item : Nat) (t : State) => exec (.managementSettingWrite item v) s = .next t
        ((1800000 ≤ v ∧ v ≤ 18000000000 → set 0 { s with watchdogPeriod := v }) ∧ (¬ (1800000 ≤ v ∧ v ≤ 18000000000) → set 0 s))
        ∧ ((v ≤ 3000 → set 1 { s with powerLimit := v }) ∧ (3000 < v → set 1 s)) ∧ ((16 ≤ v ∧ v ≤ 65535 → set 2 { s with escapeWait := v }) ∧ (¬ (16 ≤ v ∧ v ≤ 65535) → set 2 s))
        ∧ (v < 4096 → set 3 { s with faultVec := v } ∧ set 4 { s with watchdogVec := v }))
    ∧ (∀ die level, die < 4 → level < 8 →
        ((∀ c, Tab.get? s.throttleAt die = some c → c + 180000 ≤ s.clk) → ∃ t : State, exec (.throttleLevelChange die level) s = .next t ∧ t.throttle = s.throttle ∧ Tab.get? t.throttleNext die = some (level, s.clk / 8 + 1) ∧ Tab.get? t.throttleAt die = some s.clk ∧ t.harts = s.harts)
        ∧ (∀ c, Tab.get? s.throttleAt die = some c → s.clk < c + 180000 → exec (.throttleLevelChange die level) s = .next s))
    ∧ (∀ die < 4, ∃ t : State, exec (.thermalShutdown die) s = .next t ∧ t.powered = false ∧ t.ready = false ∧ t.shutdownCause = some die ∧ t.harts = [] ∧ t.ops = [] ∧ t.launches = [] ∧ t.spm = [] ∧ t.ext = [] ∧ t.rollback = s.rollback ∧ t.topology = s.topology)
    ∧ (∀ rest, s.powered = true → s.ready = false →
        (∀ i, s.agenda = .event i :: rest → step s = if isEvent i = true ∧ inReset i = true then exec i { s with agenda := rest } else .next { s with agenda := rest })
        ∧ (∀ n, s.agenda = .core n :: rest ∨ s.agenda = .nib n :: rest → step s = .next { s with agenda := rest })
        ∧ (∀ n i, s.agenda = .control n i :: rest → step s = .next { s with agenda := rest }))
    ∧ (∀ (ports : BitVec 16) (size : BitVec 8) (index : BitVec 5),
        let verified := (∀ u < 5, ∃ m ∈ s.firmware, m.unit = u) ∧ s.refused = []
        -- with the units that failed their test out of service
        let out : State := { s.selfTest.foldl State.unitLeaves s with selfTest := [], powered := true }
        let up : BitVec 16 := Claims.ofBits 16 (fun w => ports.getLsbD w && !(out.link (48 + w)).down)
        let u : State := { out with ports := up }
        let joins := u.topology.sigOk = true ∧ u.ports ≠ 0 ∧ index.toNat < size.toNat ∧ size.toNat ≤ 32
          ∧ ∀ r ∈ u.topology.routes, r.part < size.toNat ∧ r.part ≠ index.toNat ∧ u.ports.getLsbD r.port = true ∧ r.via.length ≤ 2
        let mute := 0 ∈ u.modulesOut ∧ 1 ∈ u.modulesOut
        ((s.ready = true ∨ ¬ verified) → exec (.bringUp ports size index) s = .next s)
        ∧ (s.ready = false → verified →
          (mute → exec (.bringUp ports size index) s = .next u)
          ∧ (¬ mute → joins → exec (.bringUp ports size index) s = .next { u with ready := true, domSize := size, domIndex := index, outbox := u.outbox ++ [.ready] })
          ∧ (¬ mute → ¬ joins → exec (.bringUp ports size index) s = .next { u with ready := true, domSize := 1, domIndex := 0, outbox := u.outbox ++ [.ready] }))
        ∧ (s.selfTest = [] → u = { s with ports := up, powered := true })
        ∧ (∀ k < 8, s.selfTest = [21088 + k] → k ∈ u.stacksOut))
end

