-- ==== Sys2Proof/Laws/Memory.lean ====
section
/-! SUPPORT. Laws of byte memories and tables: a read after a write, writes elsewhere, and that every memory operation keeps the
canonical form. -/

namespace Sys2Proof.Machine

/-! ## One byte -/

theorem Mem.get_set_self (m : Mem) (a : Nat) (b : Byte) (h : m.wf = true) : (m.set a b).get a = b := by
  unfold Mem.wf at h
  suffices ∀ lo, Mem.wfFrom lo m = true → (m.set a b).get a = b from this _ h
  clear h
  induction m with
  | nil => intro lo _; unfold Mem.set; split <;> simp_all [Mem.get]
  | cons c m ih =>
    obtain ⟨k, v⟩ := c
    intro lo h
    simp only [Mem.wfFrom, Bool.and_eq_true] at h
    have above : ∀ (m : Mem) (l : Nat), Mem.wfFrom (some l) m = true → ∀ x ≤ l, m.get x = 0 := by
      intro m
      induction m with
      | nil => intros; rfl
      | cons c m ih =>
        obtain ⟨k, v⟩ := c
        intro l h x hx
        simp only [Mem.wfFrom, Bool.and_eq_true, decide_eq_true_eq] at h
        have : k ≠ x := by omega
        simp only [Mem.get, this, if_false]
        exact ih k h.2 x (by omega)
    unfold Mem.set
    split
    · split
      · have : k ≠ a := by omega
        simp_all only [Mem.get, if_false]
        exact above m k h.2 a (by omega)
      · simp [Mem.get]
    · split
      · subst_vars
        split
        · subst_vars; exact above m _ h.2 _ (le_refl _)
        · simp [Mem.get]
      · have : k ≠ a := by omega
        simp only [Mem.get, this, if_false]
        exact ih _ h.2

theorem Mem.get_set_ne (m : Mem) (a x : Nat) (b : Byte) (h : x ≠ a) : (m.set a b).get x = m.get x := by
  induction m with
  | nil => unfold Mem.set; split <;> simp [Mem.get, h.symm]
  | cons c m ih =>
    obtain ⟨k, v⟩ := c
    unfold Mem.set
    split
    · split <;> simp [Mem.get, h.symm]
    · split
      · subst_vars
        split <;> simp [Mem.get, h.symm]
      · simp only [Mem.get, ih]

/-! ## The canonical form -/

theorem Mem.wfFrom_none {lo : Option Nat} {m : Mem} (h : Mem.wfFrom lo m = true) : Mem.wfFrom none m = true := by
  cases m with
  | nil => rfl
  | cons c m => obtain ⟨k, v⟩ := c; simp_all [Mem.wfFrom]

theorem Mem.wfFrom_lower {l l' : Nat} {m : Mem} (h : Mem.wfFrom (some l) m = true) (hl : l' ≤ l) : Mem.wfFrom (some l') m = true := by
  cases m with
  | nil => rfl
  | cons c m => obtain ⟨k, v⟩ := c; simp_all [Mem.wfFrom]; omega

theorem Mem.wfFrom_set (m : Mem) (a : Nat) (b : Byte) : ∀ lo : Option Nat, Mem.wfFrom lo m = true → (∀ l, lo = some l → l < a) → Mem.wfFrom lo (m.set a b) = true := by
  induction m with
  | nil => intro lo _ hl; unfold Mem.set; split <;> cases lo <;> simp_all [Mem.wfFrom]
  | cons c m ih =>
    obtain ⟨k, v⟩ := c
    intro lo h hl
    unfold Mem.set
    split
    · split
      · exact h
      · cases lo <;> simp_all [Mem.wfFrom]
    · split
      · subst_vars
        split
        · simp only [Mem.wfFrom, Bool.and_eq_true] at h
          cases lo with
          | none => exact Mem.wfFrom_none h.2
          | some l => exact Mem.wfFrom_lower h.2 (by have := hl l rfl; omega)
        · simp_all [Mem.wfFrom]
      · simp only [Mem.wfFrom, Bool.and_eq_true] at h ⊢
        exact ⟨h.1, ih _ h.2 (by intro l hl'; cases hl'; omega)⟩

/-- A byte written keeps the canonical form. -/
theorem Mem.wf_set (m : Mem) (a : Nat) (b : Byte) (h : m.wf = true) : (m.set a b).wf = true :=
  Mem.wfFrom_set m a b none h (by simp)

/-- A value written keeps the canonical form. -/
theorem Mem.wf_write (m : Mem) (a n v : Nat) (h : m.wf = true) : (m.write a n v).wf = true := by
  induction n generalizing m a v with
  | zero => exact h
  | succ n ih => exact ih _ _ _ (Mem.wf_set m a _ h)

/-- Bytes stored keep the canonical form. -/
theorem Mem.wf_store (m : Mem) (a : Nat) (l : List Byte) (h : m.wf = true) : (m.store a l).wf = true := by
  induction l generalizing m a with
  | nil => exact h
  | cons b l ih => exact ih _ _ (Mem.wf_set m a b h)

/-- Strictly rising addresses without zero bytes, as a statement about pairs. -/
theorem Mem.wfFrom_iff (m : Mem) : ∀ lo : Option Nat, Mem.wfFrom lo m = true ↔ (∀ c ∈ m, (∀ l, lo = some l → l < c.1) ∧ c.2 ≠ 0) ∧ m.Pairwise (fun c d => c.1 < d.1) := by
  induction m with
  | nil => intro lo; simp [Mem.wfFrom]
  | cons c m ih =>
    obtain ⟨k, v⟩ := c
    intro lo
    simp only [Mem.wfFrom, Bool.and_eq_true, ih, List.pairwise_cons, List.mem_cons, forall_eq_or_imp, bne_iff_ne]
    constructor
    · rintro ⟨⟨h1, h2⟩, h3, h4⟩
      refine ⟨⟨⟨?_, h2⟩, fun c hc => ⟨?_, (h3 c hc).2⟩⟩, fun c hc => (h3 c hc).1 k rfl, h4⟩
      · intro l hl; subst hl; simpa using h1
      · intro l hl; subst hl; have := (h3 c hc).1 k rfl; have h1 : l < k := by simpa using h1
        omega
    · rintro ⟨⟨⟨h1, h2⟩, h3⟩, h4, h5⟩
      refine ⟨⟨?_, h2⟩, fun c hc => ⟨?_, (h3 c hc).2⟩, h5⟩
      · cases lo with
        | none => rfl
        | some l => simpa using h1 l rfl
      · intro l hl; cases hl; exact h4 c hc

theorem Mem.wf_iff (m : Mem) : m.wf = true ↔ (∀ c ∈ m, c.2 ≠ 0) ∧ m.Pairwise (fun c d => c.1 < d.1) := by
  simp [Mem.wf, Mem.wfFrom_iff]

/-- Zeroing a range keeps the canonical form. -/
theorem Mem.wf_clear (m : Mem) (lo hi : Nat) (h : m.wf = true) : (Mem.clear lo hi m).wf = true := by
  rw [Mem.wf_iff] at h ⊢
  exact ⟨fun c hc => h.1 c (List.mem_of_mem_filter hc), h.2.filter _⟩

/-- Copying a range between canonical memories keeps the canonical form. -/
theorem Mem.wf_copyFrom (dst src : Mem) (dlo lo n : Nat) (hd : dst.wf = true) (hs : src.wf = true) : (Mem.copyFrom dst dlo src lo n).wf = true := by
  rw [Mem.wf_iff] at hd hs ⊢
  refine ⟨?_, ?_⟩
  · intro c hc
    simp only [Mem.copyFrom, List.mem_append, List.mem_map] at hc
    rcases hc with (hc | ⟨d, hd', rfl⟩) | hc
    · exact hd.1 c (List.mem_of_mem_filter hc)
    · exact hs.1 d (List.mem_of_mem_filter hd')
    · exact hd.1 c (List.mem_of_mem_filter hc)
  · simp only [Mem.copyFrom, List.pairwise_append]
    refine ⟨⟨hd.2.filter _, ?_, ?_⟩, hd.2.filter _, ?_⟩
    · rw [List.pairwise_map]
      refine List.Pairwise.imp_of_mem ?_ (hs.2.filter (fun c => decide (lo ≤ c.1 ∧ c.1 < lo + n)))
      intro a b ha hb hab
      have h1 := List.of_mem_filter ha
      have h2 := List.of_mem_filter hb
      simp only [decide_eq_true_eq] at h1 h2
      simp only
      omega
    · intro a ha b hb
      have h1 := List.of_mem_filter ha
      simp only [List.mem_map] at hb
      obtain ⟨c, hc, rfl⟩ := hb
      have h2 := List.of_mem_filter hc
      simp only [decide_eq_true_eq] at h1 h2
      simp only
      omega
    · intro a ha b hb
      have h2 := List.of_mem_filter hb
      simp only [decide_eq_true_eq] at h2
      simp only [List.mem_append, List.mem_map] at ha
      rcases ha with ha | ⟨c, hc, rfl⟩
      · have h1 := List.of_mem_filter ha
        simp only [decide_eq_true_eq] at h1
        omega
      · have h1 := List.of_mem_filter hc
        simp only [decide_eq_true_eq] at h1
        simp only
        omega

/-! ## Several bytes -/

/-- The bytes of a value stand where it was written; every other byte stays. -/
theorem Mem.get_write (m : Mem) (a n v x : Nat) (h : m.wf = true) :
    (m.write a n v).get x = if a ≤ x ∧ x < a + n then BitVec.ofNat 8 (v / 256 ^ (x - a)) else m.get x := by
  induction n generalizing m a v with
  | zero => simp only [Mem.write]; rw [if_neg (by omega)]
  | succ n ih =>
    simp only [Mem.write]
    rw [ih _ _ _ (Mem.wf_set m a _ h)]
    by_cases h1 : a + 1 ≤ x ∧ x < a + 1 + n
    · rw [if_pos h1, if_pos (by omega), show x - a = x - (a + 1) + 1 by omega, Nat.pow_succ, Nat.mul_comm, Nat.div_div_eq_div_mul]
    · rw [if_neg h1]
      by_cases h2 : x = a
      · subst h2; rw [Mem.get_set_self m x _ h, if_pos (by omega)]; simp
      · rw [Mem.get_set_ne m a x _ h2, if_neg (by omega)]

/-- A read depends on the bytes it reads only. -/
theorem Mem.read_congr (m m' : Mem) (a n : Nat) (h : ∀ x, a ≤ x → x < a + n → m.get x = m'.get x) : m.read a n = m'.read a n := by
  induction n generalizing a with
  | zero => rfl
  | succ n ih => simp only [Mem.read]; rw [h a (by omega) (by omega), ih (a + 1) (fun x h1 h2 => h x (by omega) (by omega))]

theorem Mem.read_lt (m : Mem) (a n : Nat) : m.read a n < 256 ^ n := by
  induction n generalizing a with
  | zero => simp [Mem.read]
  | succ n ih => have h1 := ih (a + 1); have h2 := (m.get a).isLt; simp only [Mem.read, Nat.pow_succ]; omega

/-- A read after a write to the same place gives the value written. -/
theorem Mem.read_write_self (m : Mem) (a n v : Nat) (h : m.wf = true) : (m.write a n v).read a n = v % 256 ^ n := by
  induction n generalizing m a v with
  | zero => simp [Mem.read, Nat.mod_one]
  | succ n ih =>
    simp only [Mem.read, Mem.write]
    rw [ih _ _ _ (Mem.wf_set m a _ h), Mem.get_write _ _ _ _ _ (Mem.wf_set m a _ h), if_neg (by omega), Mem.get_set_self m a _ h, BitVec.toNat_ofNat]
    have e : (256 : Nat) ^ (n + 1) = 256 * 256 ^ n := by rw [Nat.pow_succ, Nat.mul_comm]
    rw [e]
    exact (Nat.mod_mul (a := 256) (b := 256 ^ n) (x := v)).symm

/-- A write leaves the bytes of a range it does not meet. -/
theorem Mem.read_write_ne (m : Mem) (a n v b k : Nat) (h : m.wf = true) (hd : b + k ≤ a ∨ a + n ≤ b) : (m.write a n v).read b k = m.read b k :=
  Mem.read_congr _ _ _ _ (fun x h1 h2 => by rw [Mem.get_write m a n v x h, if_neg (by omega)])

/-! ## Tables -/

theorem Tab.get?_set_self {α : Type} (t : Tab α) (a : Nat) (b : α) : Tab.get? (Tab.set t a b) a = some b := by
  induction t with
  | nil => simp [Tab.set, Tab.get?]
  | cons c t ih =>
    obtain ⟨k, v⟩ := c
    unfold Tab.set
    split
    · simp [Tab.get?]
    · split
      · subst_vars; simp [Tab.get?]
      · have : k ≠ a := by omega
        simp [Tab.get?, this, ih]

theorem Tab.get?_set_ne {α : Type} (t : Tab α) (a x : Nat) (b : α) (h : x ≠ a) : Tab.get? (Tab.set t a b) x = Tab.get? t x := by
  induction t with
  | nil => simp [Tab.set, Tab.get?, h.symm]
  | cons c t ih =>
    obtain ⟨k, v⟩ := c
    unfold Tab.set
    split
    · simp [Tab.get?, h.symm]
    · split
      · subst_vars; simp [Tab.get?, h.symm]
      · simp only [Tab.get?, ih]

end Sys2Proof.Machine
end

