-- ==== Sys2Proof/Laws/Run.lean ====
section
/-! SUPPORT. What the shared operations of every meaning can do: slots read after an update, and `run` for an instruction that
nothing holds back. -/

namespace Sys2Proof.Machine

/-! ## Slots -/

@[simp] theorem State.slot_setSlot_self (s : State) (h : Nat) (x : Slot) : (s.setSlot h x).slot h = x := by
  simp [State.slot, State.setSlot, Tab.get?_set_self]

@[simp] theorem State.slot_modSlot_self (s : State) (h : Nat) (f : Slot → Slot) : (s.modSlot h f).slot h = f (s.slot h) := by
  simp [State.modSlot]

theorem State.slot_setSlot_ne (s : State) (h k : Nat) (x : Slot) (hk : k ≠ h) : (s.setSlot h x).slot k = s.slot k := by
  simp [State.slot, State.setSlot, Tab.get?_set_ne _ _ _ _ hk]

theorem State.slot_modSlot_ne (s : State) (h k : Nat) (f : Slot → Slot) (hk : k ≠ h) : (s.modSlot h f).slot k = s.slot k :=
  s.slot_setSlot_ne h k _ hk

@[simp] theorem State.me_modMe (s : State) (f : Slot → Slot) : (s.modMe f).me = f s.me := by
  simp [State.me, State.modMe, State.modSlot, State.setSlot, State.slot, Tab.get?_set_self]

/-! ## Running an instruction -/

/-- A ready instruction has the effect its meaning gives it. -/
theorem run_ready (i : Instr) (s : State) (body : State → Act) (h : ready i s = true) : run i s body = .next (s.take i (body s)) := by
  simp only [ready, Bool.and_eq_true, Option.isNone_iff_eq_none] at h
  simp [run, runState, h.1.1, h.1.2, h.2]

/-- An instruction that meets a trap condition at issue takes that trap (R83). -/
theorem run_trap (i : Instr) (s : State) (body : State → Act) (c : Nat) (v : Reg64) (hi : s.me.issues = true) (h : issueTrap i s = some (c, v)) :
    run i s body = .next (s.trapMe i c v) := by
  simp [run, runState, hi, h]

/-- A hart that does not issue leaves the state as it is. -/
theorem run_idle (i : Instr) (s : State) (body : State → Act) (hi : s.me.issues = false) : run i s body = .next s := by
  simp [run, runState, hi]

/-- `run` always answers a next state. -/
theorem run_next (i : Instr) (s : State) (body : State → Act) : run i s body = .next (runState i s body) := rfl

end Sys2Proof.Machine
end

