-- ==== Sys2Proof/Laws/State.lean ====
section
/-! SUPPORT. One lemma per field per update of the state, each true by definition: no proof unfolds a record update. -/

namespace Sys2Proof.Machine

/-! `State.setSlot` changes `harts` only. -/

@[simp] theorem State.setSlot_clk (s : State) (h : Nat) (x : Slot) : (s.setSlot h x).clk = s.clk := rfl
@[simp] theorem State.setSlot_cur (s : State) (h : Nat) (x : Slot) : (s.setSlot h x).cur = s.cur := rfl
@[simp] theorem State.setSlot_agenda (s : State) (h : Nat) (x : Slot) : (s.setSlot h x).agenda = s.agenda := rfl
@[simp] theorem State.setSlot_free (s : State) (h : Nat) (x : Slot) : (s.setSlot h x).free = s.free := rfl
@[simp] theorem State.setSlot_nextId (s : State) (h : Nat) (x : Slot) : (s.setSlot h x).nextId = s.nextId := rfl
@[simp] theorem State.setSlot_powered (s : State) (h : Nat) (x : Slot) : (s.setSlot h x).powered = s.powered := rfl
@[simp] theorem State.setSlot_ready (s : State) (h : Nat) (x : Slot) : (s.setSlot h x).ready = s.ready := rfl
@[simp] theorem State.setSlot_shutdownCause (s : State) (h : Nat) (x : Slot) : (s.setSlot h x).shutdownCause = s.shutdownCause := rfl
@[simp] theorem State.setSlot_saved (s : State) (h : Nat) (x : Slot) : (s.setSlot h x).saved = s.saved := rfl
@[simp] theorem State.setSlot_cores (s : State) (h : Nat) (x : Slot) : (s.setSlot h x).cores = s.cores := rfl
@[simp] theorem State.setSlot_panels (s : State) (h : Nat) (x : Slot) : (s.setSlot h x).panels = s.panels := rfl
@[simp] theorem State.setSlot_clusters (s : State) (h : Nat) (x : Slot) : (s.setSlot h x).clusters = s.clusters := rfl
@[simp] theorem State.setSlot_nibs (s : State) (h : Nat) (x : Slot) : (s.setSlot h x).nibs = s.nibs := rfl
@[simp] theorem State.setSlot_stations (s : State) (h : Nat) (x : Slot) : (s.setSlot h x).stations = s.stations := rfl
@[simp] theorem State.setSlot_procs (s : State) (h : Nat) (x : Slot) : (s.setSlot h x).procs = s.procs := rfl
@[simp] theorem State.setSlot_launches (s : State) (h : Nat) (x : Slot) : (s.setSlot h x).launches = s.launches := rfl
@[simp] theorem State.setSlot_lidSeq (s : State) (h : Nat) (x : Slot) : (s.setSlot h x).lidSeq = s.lidSeq := rfl
@[simp] theorem State.setSlot_tokens (s : State) (h : Nat) (x : Slot) : (s.setSlot h x).tokens = s.tokens := rfl
@[simp] theorem State.setSlot_ops (s : State) (h : Nat) (x : Slot) : (s.setSlot h x).ops = s.ops := rfl
@[simp] theorem State.setSlot_forwards (s : State) (h : Nat) (x : Slot) : (s.setSlot h x).forwards = s.forwards := rfl
@[simp] theorem State.setSlot_regions (s : State) (h : Nat) (x : Slot) : (s.setSlot h x).regions = s.regions := rfl
@[simp] theorem State.setSlot_patterns (s : State) (h : Nat) (x : Slot) : (s.setSlot h x).patterns = s.patterns := rfl
@[simp] theorem State.setSlot_replies (s : State) (h : Nat) (x : Slot) : (s.setSlot h x).replies = s.replies := rfl
@[simp] theorem State.setSlot_spm (s : State) (h : Nat) (x : Slot) : (s.setSlot h x).spm = s.spm := rfl
@[simp] theorem State.setSlot_full (s : State) (h : Nat) (x : Slot) : (s.setSlot h x).full = s.full := rfl
@[simp] theorem State.setSlot_ext (s : State) (h : Nat) (x : Slot) : (s.setSlot h x).ext = s.ext := rfl
@[simp] theorem State.setSlot_nibMem (s : State) (h : Nat) (x : Slot) : (s.setSlot h x).nibMem = s.nibMem := rfl
@[simp] theorem State.setSlot_tblMem (s : State) (h : Nat) (x : Slot) : (s.setSlot h x).tblMem = s.tblMem := rfl
@[simp] theorem State.setSlot_tblWrites (s : State) (h : Nat) (x : Slot) : (s.setSlot h x).tblWrites = s.tblWrites := rfl
@[simp] theorem State.setSlot_opMem (s : State) (h : Nat) (x : Slot) : (s.setSlot h x).opMem = s.opMem := rfl
@[simp] theorem State.setSlot_accMem (s : State) (h : Nat) (x : Slot) : (s.setSlot h x).accMem = s.accMem := rfl
@[simp] theorem State.setSlot_imem (s : State) (h : Nat) (x : Slot) : (s.setSlot h x).imem = s.imem := rfl
@[simp] theorem State.setSlot_coresOut (s : State) (h : Nat) (x : Slot) : (s.setSlot h x).coresOut = s.coresOut := rfl
@[simp] theorem State.setSlot_panelsOut (s : State) (h : Nat) (x : Slot) : (s.setSlot h x).panelsOut = s.panelsOut := rfl
@[simp] theorem State.setSlot_clustersOut (s : State) (h : Nat) (x : Slot) : (s.setSlot h x).clustersOut = s.clustersOut := rfl
@[simp] theorem State.setSlot_stacksOut (s : State) (h : Nat) (x : Slot) : (s.setSlot h x).stacksOut = s.stacksOut := rfl
@[simp] theorem State.setSlot_nibsOut (s : State) (h : Nat) (x : Slot) : (s.setSlot h x).nibsOut = s.nibsOut := rfl
@[simp] theorem State.setSlot_modulesOut (s : State) (h : Nat) (x : Slot) : (s.setSlot h x).modulesOut = s.modulesOut := rfl
@[simp] theorem State.setSlot_selfTest (s : State) (h : Nat) (x : Slot) : (s.setSlot h x).selfTest = s.selfTest := rfl
@[simp] theorem State.setSlot_ports (s : State) (h : Nat) (x : Slot) : (s.setSlot h x).ports = s.ports := rfl
@[simp] theorem State.setSlot_domSize (s : State) (h : Nat) (x : Slot) : (s.setSlot h x).domSize = s.domSize := rfl
@[simp] theorem State.setSlot_domIndex (s : State) (h : Nat) (x : Slot) : (s.setSlot h x).domIndex = s.domIndex := rfl
@[simp] theorem State.setSlot_topology (s : State) (h : Nat) (x : Slot) : (s.setSlot h x).topology = s.topology := rfl
@[simp] theorem State.setSlot_lostPeers (s : State) (h : Nat) (x : Slot) : (s.setSlot h x).lostPeers = s.lostPeers := rfl
@[simp] theorem State.setSlot_throttle (s : State) (h : Nat) (x : Slot) : (s.setSlot h x).throttle = s.throttle := rfl
@[simp] theorem State.setSlot_throttleNext (s : State) (h : Nat) (x : Slot) : (s.setSlot h x).throttleNext = s.throttleNext := rfl
@[simp] theorem State.setSlot_throttleAt (s : State) (h : Nat) (x : Slot) : (s.setSlot h x).throttleAt = s.throttleAt := rfl
@[simp] theorem State.setSlot_rings (s : State) (h : Nat) (x : Slot) : (s.setSlot h x).rings = s.rings := rfl
@[simp] theorem State.setSlot_outbox (s : State) (h : Nat) (x : Slot) : (s.setSlot h x).outbox = s.outbox := rfl
@[simp] theorem State.setSlot_links (s : State) (h : Nat) (x : Slot) : (s.setSlot h x).links = s.links := rfl
@[simp] theorem State.setSlot_escapeWait (s : State) (h : Nat) (x : Slot) : (s.setSlot h x).escapeWait = s.escapeWait := rfl
@[simp] theorem State.setSlot_escaped (s : State) (h : Nat) (x : Slot) : (s.setSlot h x).escaped = s.escaped := rfl
@[simp] theorem State.setSlot_mgmtErrs (s : State) (h : Nat) (x : Slot) : (s.setSlot h x).mgmtErrs = s.mgmtErrs := rfl
@[simp] theorem State.setSlot_mgmtSeq (s : State) (h : Nat) (x : Slot) : (s.setSlot h x).mgmtSeq = s.mgmtSeq := rfl
@[simp] theorem State.setSlot_unitTimes (s : State) (h : Nat) (x : Slot) : (s.setSlot h x).unitTimes = s.unitTimes := rfl
@[simp] theorem State.setSlot_watchdogPeriod (s : State) (h : Nat) (x : Slot) : (s.setSlot h x).watchdogPeriod = s.watchdogPeriod := rfl
@[simp] theorem State.setSlot_faultVec (s : State) (h : Nat) (x : Slot) : (s.setSlot h x).faultVec = s.faultVec := rfl
@[simp] theorem State.setSlot_watchdogVec (s : State) (h : Nat) (x : Slot) : (s.setSlot h x).watchdogVec = s.watchdogVec := rfl
@[simp] theorem State.setSlot_watchdog (s : State) (h : Nat) (x : Slot) : (s.setSlot h x).watchdog = s.watchdog := rfl
@[simp] theorem State.setSlot_powerLimit (s : State) (h : Nat) (x : Slot) : (s.setSlot h x).powerLimit = s.powerLimit := rfl
@[simp] theorem State.setSlot_rollback (s : State) (h : Nat) (x : Slot) : (s.setSlot h x).rollback = s.rollback := rfl
@[simp] theorem State.setSlot_refused (s : State) (h : Nat) (x : Slot) : (s.setSlot h x).refused = s.refused := rfl
@[simp] theorem State.setSlot_firmware (s : State) (h : Nat) (x : Slot) : (s.setSlot h x).firmware = s.firmware := rfl
@[simp] theorem State.setSlot_freePages (s : State) (h : Nat) (x : Slot) : (s.setSlot h x).freePages = s.freePages := rfl
@[simp] theorem State.setSlot_freeTables (s : State) (h : Nat) (x : Slot) : (s.setSlot h x).freeTables = s.freeTables := rfl
@[simp] theorem State.setSlot_softErrors (s : State) (h : Nat) (x : Slot) : (s.setSlot h x).softErrors = s.softErrors := rfl
@[simp] theorem State.setSlot_descheduled (s : State) (h : Nat) (x : Slot) : (s.setSlot h x).descheduled = s.descheduled := rfl

/-! `State.modSlot` changes `harts` only. -/

@[simp] theorem State.modSlot_clk (s : State) (h : Nat) (f : Slot → Slot) : (s.modSlot h f).clk = s.clk := rfl
@[simp] theorem State.modSlot_cur (s : State) (h : Nat) (f : Slot → Slot) : (s.modSlot h f).cur = s.cur := rfl
@[simp] theorem State.modSlot_agenda (s : State) (h : Nat) (f : Slot → Slot) : (s.modSlot h f).agenda = s.agenda := rfl
@[simp] theorem State.modSlot_free (s : State) (h : Nat) (f : Slot → Slot) : (s.modSlot h f).free = s.free := rfl
@[simp] theorem State.modSlot_nextId (s : State) (h : Nat) (f : Slot → Slot) : (s.modSlot h f).nextId = s.nextId := rfl
@[simp] theorem State.modSlot_powered (s : State) (h : Nat) (f : Slot → Slot) : (s.modSlot h f).powered = s.powered := rfl
@[simp] theorem State.modSlot_ready (s : State) (h : Nat) (f : Slot → Slot) : (s.modSlot h f).ready = s.ready := rfl
@[simp] theorem State.modSlot_shutdownCause (s : State) (h : Nat) (f : Slot → Slot) : (s.modSlot h f).shutdownCause = s.shutdownCause := rfl
@[simp] theorem State.modSlot_saved (s : State) (h : Nat) (f : Slot → Slot) : (s.modSlot h f).saved = s.saved := rfl
@[simp] theorem State.modSlot_cores (s : State) (h : Nat) (f : Slot → Slot) : (s.modSlot h f).cores = s.cores := rfl
@[simp] theorem State.modSlot_panels (s : State) (h : Nat) (f : Slot → Slot) : (s.modSlot h f).panels = s.panels := rfl
@[simp] theorem State.modSlot_clusters (s : State) (h : Nat) (f : Slot → Slot) : (s.modSlot h f).clusters = s.clusters := rfl
@[simp] theorem State.modSlot_nibs (s : State) (h : Nat) (f : Slot → Slot) : (s.modSlot h f).nibs = s.nibs := rfl
@[simp] theorem State.modSlot_stations (s : State) (h : Nat) (f : Slot → Slot) : (s.modSlot h f).stations = s.stations := rfl
@[simp] theorem State.modSlot_procs (s : State) (h : Nat) (f : Slot → Slot) : (s.modSlot h f).procs = s.procs := rfl
@[simp] theorem State.modSlot_launches (s : State) (h : Nat) (f : Slot → Slot) : (s.modSlot h f).launches = s.launches := rfl
@[simp] theorem State.modSlot_lidSeq (s : State) (h : Nat) (f : Slot → Slot) : (s.modSlot h f).lidSeq = s.lidSeq := rfl
@[simp] theorem State.modSlot_tokens (s : State) (h : Nat) (f : Slot → Slot) : (s.modSlot h f).tokens = s.tokens := rfl
@[simp] theorem State.modSlot_ops (s : State) (h : Nat) (f : Slot → Slot) : (s.modSlot h f).ops = s.ops := rfl
@[simp] theorem State.modSlot_forwards (s : State) (h : Nat) (f : Slot → Slot) : (s.modSlot h f).forwards = s.forwards := rfl
@[simp] theorem State.modSlot_regions (s : State) (h : Nat) (f : Slot → Slot) : (s.modSlot h f).regions = s.regions := rfl
@[simp] theorem State.modSlot_patterns (s : State) (h : Nat) (f : Slot → Slot) : (s.modSlot h f).patterns = s.patterns := rfl
@[simp] theorem State.modSlot_replies (s : State) (h : Nat) (f : Slot → Slot) : (s.modSlot h f).replies = s.replies := rfl
@[simp] theorem State.modSlot_spm (s : State) (h : Nat) (f : Slot → Slot) : (s.modSlot h f).spm = s.spm := rfl
@[simp] theorem State.modSlot_full (s : State) (h : Nat) (f : Slot → Slot) : (s.modSlot h f).full = s.full := rfl
@[simp] theorem State.modSlot_ext (s : State) (h : Nat) (f : Slot → Slot) : (s.modSlot h f).ext = s.ext := rfl
@[simp] theorem State.modSlot_nibMem (s : State) (h : Nat) (f : Slot → Slot) : (s.modSlot h f).nibMem = s.nibMem := rfl
@[simp] theorem State.modSlot_tblMem (s : State) (h : Nat) (f : Slot → Slot) : (s.modSlot h f).tblMem = s.tblMem := rfl
@[simp] theorem State.modSlot_tblWrites (s : State) (h : Nat) (f : Slot → Slot) : (s.modSlot h f).tblWrites = s.tblWrites := rfl
@[simp] theorem State.modSlot_opMem (s : State) (h : Nat) (f : Slot → Slot) : (s.modSlot h f).opMem = s.opMem := rfl
@[simp] theorem State.modSlot_accMem (s : State) (h : Nat) (f : Slot → Slot) : (s.modSlot h f).accMem = s.accMem := rfl
@[simp] theorem State.modSlot_imem (s : State) (h : Nat) (f : Slot → Slot) : (s.modSlot h f).imem = s.imem := rfl
@[simp] theorem State.modSlot_coresOut (s : State) (h : Nat) (f : Slot → Slot) : (s.modSlot h f).coresOut = s.coresOut := rfl
@[simp] theorem State.modSlot_panelsOut (s : State) (h : Nat) (f : Slot → Slot) : (s.modSlot h f).panelsOut = s.panelsOut := rfl
@[simp] theorem State.modSlot_clustersOut (s : State) (h : Nat) (f : Slot → Slot) : (s.modSlot h f).clustersOut = s.clustersOut := rfl
@[simp] theorem State.modSlot_stacksOut (s : State) (h : Nat) (f : Slot → Slot) : (s.modSlot h f).stacksOut = s.stacksOut := rfl
@[simp] theorem State.modSlot_nibsOut (s : State) (h : Nat) (f : Slot → Slot) : (s.modSlot h f).nibsOut = s.nibsOut := rfl
@[simp] theorem State.modSlot_modulesOut (s : State) (h : Nat) (f : Slot → Slot) : (s.modSlot h f).modulesOut = s.modulesOut := rfl
@[simp] theorem State.modSlot_selfTest (s : State) (h : Nat) (f : Slot → Slot) : (s.modSlot h f).selfTest = s.selfTest := rfl
@[simp] theorem State.modSlot_ports (s : State) (h : Nat) (f : Slot → Slot) : (s.modSlot h f).ports = s.ports := rfl
@[simp] theorem State.modSlot_domSize (s : State) (h : Nat) (f : Slot → Slot) : (s.modSlot h f).domSize = s.domSize := rfl
@[simp] theorem State.modSlot_domIndex (s : State) (h : Nat) (f : Slot → Slot) : (s.modSlot h f).domIndex = s.domIndex := rfl
@[simp] theorem State.modSlot_topology (s : State) (h : Nat) (f : Slot → Slot) : (s.modSlot h f).topology = s.topology := rfl
@[simp] theorem State.modSlot_lostPeers (s : State) (h : Nat) (f : Slot → Slot) : (s.modSlot h f).lostPeers = s.lostPeers := rfl
@[simp] theorem State.modSlot_throttle (s : State) (h : Nat) (f : Slot → Slot) : (s.modSlot h f).throttle = s.throttle := rfl
@[simp] theorem State.modSlot_throttleNext (s : State) (h : Nat) (f : Slot → Slot) : (s.modSlot h f).throttleNext = s.throttleNext := rfl
@[simp] theorem State.modSlot_throttleAt (s : State) (h : Nat) (f : Slot → Slot) : (s.modSlot h f).throttleAt = s.throttleAt := rfl
@[simp] theorem State.modSlot_rings (s : State) (h : Nat) (f : Slot → Slot) : (s.modSlot h f).rings = s.rings := rfl
@[simp] theorem State.modSlot_outbox (s : State) (h : Nat) (f : Slot → Slot) : (s.modSlot h f).outbox = s.outbox := rfl
@[simp] theorem State.modSlot_links (s : State) (h : Nat) (f : Slot → Slot) : (s.modSlot h f).links = s.links := rfl
@[simp] theorem State.modSlot_escapeWait (s : State) (h : Nat) (f : Slot → Slot) : (s.modSlot h f).escapeWait = s.escapeWait := rfl
@[simp] theorem State.modSlot_escaped (s : State) (h : Nat) (f : Slot → Slot) : (s.modSlot h f).escaped = s.escaped := rfl
@[simp] theorem State.modSlot_mgmtErrs (s : State) (h : Nat) (f : Slot → Slot) : (s.modSlot h f).mgmtErrs = s.mgmtErrs := rfl
@[simp] theorem State.modSlot_mgmtSeq (s : State) (h : Nat) (f : Slot → Slot) : (s.modSlot h f).mgmtSeq = s.mgmtSeq := rfl
@[simp] theorem State.modSlot_unitTimes (s : State) (h : Nat) (f : Slot → Slot) : (s.modSlot h f).unitTimes = s.unitTimes := rfl
@[simp] theorem State.modSlot_watchdogPeriod (s : State) (h : Nat) (f : Slot → Slot) : (s.modSlot h f).watchdogPeriod = s.watchdogPeriod := rfl
@[simp] theorem State.modSlot_faultVec (s : State) (h : Nat) (f : Slot → Slot) : (s.modSlot h f).faultVec = s.faultVec := rfl
@[simp] theorem State.modSlot_watchdogVec (s : State) (h : Nat) (f : Slot → Slot) : (s.modSlot h f).watchdogVec = s.watchdogVec := rfl
@[simp] theorem State.modSlot_watchdog (s : State) (h : Nat) (f : Slot → Slot) : (s.modSlot h f).watchdog = s.watchdog := rfl
@[simp] theorem State.modSlot_powerLimit (s : State) (h : Nat) (f : Slot → Slot) : (s.modSlot h f).powerLimit = s.powerLimit := rfl
@[simp] theorem State.modSlot_rollback (s : State) (h : Nat) (f : Slot → Slot) : (s.modSlot h f).rollback = s.rollback := rfl
@[simp] theorem State.modSlot_refused (s : State) (h : Nat) (f : Slot → Slot) : (s.modSlot h f).refused = s.refused := rfl
@[simp] theorem State.modSlot_firmware (s : State) (h : Nat) (f : Slot → Slot) : (s.modSlot h f).firmware = s.firmware := rfl
@[simp] theorem State.modSlot_freePages (s : State) (h : Nat) (f : Slot → Slot) : (s.modSlot h f).freePages = s.freePages := rfl
@[simp] theorem State.modSlot_freeTables (s : State) (h : Nat) (f : Slot → Slot) : (s.modSlot h f).freeTables = s.freeTables := rfl
@[simp] theorem State.modSlot_softErrors (s : State) (h : Nat) (f : Slot → Slot) : (s.modSlot h f).softErrors = s.softErrors := rfl
@[simp] theorem State.modSlot_descheduled (s : State) (h : Nat) (f : Slot → Slot) : (s.modSlot h f).descheduled = s.descheduled := rfl

/-! `State.modMe` changes `harts` only. -/

@[simp] theorem State.modMe_clk (s : State) (f : Slot → Slot) : (s.modMe f).clk = s.clk := rfl
@[simp] theorem State.modMe_cur (s : State) (f : Slot → Slot) : (s.modMe f).cur = s.cur := rfl
@[simp] theorem State.modMe_agenda (s : State) (f : Slot → Slot) : (s.modMe f).agenda = s.agenda := rfl
@[simp] theorem State.modMe_free (s : State) (f : Slot → Slot) : (s.modMe f).free = s.free := rfl
@[simp] theorem State.modMe_nextId (s : State) (f : Slot → Slot) : (s.modMe f).nextId = s.nextId := rfl
@[simp] theorem State.modMe_powered (s : State) (f : Slot → Slot) : (s.modMe f).powered = s.powered := rfl
@[simp] theorem State.modMe_ready (s : State) (f : Slot → Slot) : (s.modMe f).ready = s.ready := rfl
@[simp] theorem State.modMe_shutdownCause (s : State) (f : Slot → Slot) : (s.modMe f).shutdownCause = s.shutdownCause := rfl
@[simp] theorem State.modMe_saved (s : State) (f : Slot → Slot) : (s.modMe f).saved = s.saved := rfl
@[simp] theorem State.modMe_cores (s : State) (f : Slot → Slot) : (s.modMe f).cores = s.cores := rfl
@[simp] theorem State.modMe_panels (s : State) (f : Slot → Slot) : (s.modMe f).panels = s.panels := rfl
@[simp] theorem State.modMe_clusters (s : State) (f : Slot → Slot) : (s.modMe f).clusters = s.clusters := rfl
@[simp] theorem State.modMe_nibs (s : State) (f : Slot → Slot) : (s.modMe f).nibs = s.nibs := rfl
@[simp] theorem State.modMe_stations (s : State) (f : Slot → Slot) : (s.modMe f).stations = s.stations := rfl
@[simp] theorem State.modMe_procs (s : State) (f : Slot → Slot) : (s.modMe f).procs = s.procs := rfl
@[simp] theorem State.modMe_launches (s : State) (f : Slot → Slot) : (s.modMe f).launches = s.launches := rfl
@[simp] theorem State.modMe_lidSeq (s : State) (f : Slot → Slot) : (s.modMe f).lidSeq = s.lidSeq := rfl
@[simp] theorem State.modMe_tokens (s : State) (f : Slot → Slot) : (s.modMe f).tokens = s.tokens := rfl
@[simp] theorem State.modMe_ops (s : State) (f : Slot → Slot) : (s.modMe f).ops = s.ops := rfl
@[simp] theorem State.modMe_forwards (s : State) (f : Slot → Slot) : (s.modMe f).forwards = s.forwards := rfl
@[simp] theorem State.modMe_regions (s : State) (f : Slot → Slot) : (s.modMe f).regions = s.regions := rfl
@[simp] theorem State.modMe_patterns (s : State) (f : Slot → Slot) : (s.modMe f).patterns = s.patterns := rfl
@[simp] theorem State.modMe_replies (s : State) (f : Slot → Slot) : (s.modMe f).replies = s.replies := rfl
@[simp] theorem State.modMe_spm (s : State) (f : Slot → Slot) : (s.modMe f).spm = s.spm := rfl
@[simp] theorem State.modMe_full (s : State) (f : Slot → Slot) : (s.modMe f).full = s.full := rfl
@[simp] theorem State.modMe_ext (s : State) (f : Slot → Slot) : (s.modMe f).ext = s.ext := rfl
@[simp] theorem State.modMe_nibMem (s : State) (f : Slot → Slot) : (s.modMe f).nibMem = s.nibMem := rfl
@[simp] theorem State.modMe_tblMem (s : State) (f : Slot → Slot) : (s.modMe f).tblMem = s.tblMem := rfl
@[simp] theorem State.modMe_tblWrites (s : State) (f : Slot → Slot) : (s.modMe f).tblWrites = s.tblWrites := rfl
@[simp] theorem State.modMe_opMem (s : State) (f : Slot → Slot) : (s.modMe f).opMem = s.opMem := rfl
@[simp] theorem State.modMe_accMem (s : State) (f : Slot → Slot) : (s.modMe f).accMem = s.accMem := rfl
@[simp] theorem State.modMe_imem (s : State) (f : Slot → Slot) : (s.modMe f).imem = s.imem := rfl
@[simp] theorem State.modMe_coresOut (s : State) (f : Slot → Slot) : (s.modMe f).coresOut = s.coresOut := rfl
@[simp] theorem State.modMe_panelsOut (s : State) (f : Slot → Slot) : (s.modMe f).panelsOut = s.panelsOut := rfl
@[simp] theorem State.modMe_clustersOut (s : State) (f : Slot → Slot) : (s.modMe f).clustersOut = s.clustersOut := rfl
@[simp] theorem State.modMe_stacksOut (s : State) (f : Slot → Slot) : (s.modMe f).stacksOut = s.stacksOut := rfl
@[simp] theorem State.modMe_nibsOut (s : State) (f : Slot → Slot) : (s.modMe f).nibsOut = s.nibsOut := rfl
@[simp] theorem State.modMe_modulesOut (s : State) (f : Slot → Slot) : (s.modMe f).modulesOut = s.modulesOut := rfl
@[simp] theorem State.modMe_selfTest (s : State) (f : Slot → Slot) : (s.modMe f).selfTest = s.selfTest := rfl
@[simp] theorem State.modMe_ports (s : State) (f : Slot → Slot) : (s.modMe f).ports = s.ports := rfl
@[simp] theorem State.modMe_domSize (s : State) (f : Slot → Slot) : (s.modMe f).domSize = s.domSize := rfl
@[simp] theorem State.modMe_domIndex (s : State) (f : Slot → Slot) : (s.modMe f).domIndex = s.domIndex := rfl
@[simp] theorem State.modMe_topology (s : State) (f : Slot → Slot) : (s.modMe f).topology = s.topology := rfl
@[simp] theorem State.modMe_lostPeers (s : State) (f : Slot → Slot) : (s.modMe f).lostPeers = s.lostPeers := rfl
@[simp] theorem State.modMe_throttle (s : State) (f : Slot → Slot) : (s.modMe f).throttle = s.throttle := rfl
@[simp] theorem State.modMe_throttleNext (s : State) (f : Slot → Slot) : (s.modMe f).throttleNext = s.throttleNext := rfl
@[simp] theorem State.modMe_throttleAt (s : State) (f : Slot → Slot) : (s.modMe f).throttleAt = s.throttleAt := rfl
@[simp] theorem State.modMe_rings (s : State) (f : Slot → Slot) : (s.modMe f).rings = s.rings := rfl
@[simp] theorem State.modMe_outbox (s : State) (f : Slot → Slot) : (s.modMe f).outbox = s.outbox := rfl
@[simp] theorem State.modMe_links (s : State) (f : Slot → Slot) : (s.modMe f).links = s.links := rfl
@[simp] theorem State.modMe_escapeWait (s : State) (f : Slot → Slot) : (s.modMe f).escapeWait = s.escapeWait := rfl
@[simp] theorem State.modMe_escaped (s : State) (f : Slot → Slot) : (s.modMe f).escaped = s.escaped := rfl
@[simp] theorem State.modMe_mgmtErrs (s : State) (f : Slot → Slot) : (s.modMe f).mgmtErrs = s.mgmtErrs := rfl
@[simp] theorem State.modMe_mgmtSeq (s : State) (f : Slot → Slot) : (s.modMe f).mgmtSeq = s.mgmtSeq := rfl
@[simp] theorem State.modMe_unitTimes (s : State) (f : Slot → Slot) : (s.modMe f).unitTimes = s.unitTimes := rfl
@[simp] theorem State.modMe_watchdogPeriod (s : State) (f : Slot → Slot) : (s.modMe f).watchdogPeriod = s.watchdogPeriod := rfl
@[simp] theorem State.modMe_faultVec (s : State) (f : Slot → Slot) : (s.modMe f).faultVec = s.faultVec := rfl
@[simp] theorem State.modMe_watchdogVec (s : State) (f : Slot → Slot) : (s.modMe f).watchdogVec = s.watchdogVec := rfl
@[simp] theorem State.modMe_watchdog (s : State) (f : Slot → Slot) : (s.modMe f).watchdog = s.watchdog := rfl
@[simp] theorem State.modMe_powerLimit (s : State) (f : Slot → Slot) : (s.modMe f).powerLimit = s.powerLimit := rfl
@[simp] theorem State.modMe_rollback (s : State) (f : Slot → Slot) : (s.modMe f).rollback = s.rollback := rfl
@[simp] theorem State.modMe_refused (s : State) (f : Slot → Slot) : (s.modMe f).refused = s.refused := rfl
@[simp] theorem State.modMe_firmware (s : State) (f : Slot → Slot) : (s.modMe f).firmware = s.firmware := rfl
@[simp] theorem State.modMe_freePages (s : State) (f : Slot → Slot) : (s.modMe f).freePages = s.freePages := rfl
@[simp] theorem State.modMe_freeTables (s : State) (f : Slot → Slot) : (s.modMe f).freeTables = s.freeTables := rfl
@[simp] theorem State.modMe_softErrors (s : State) (f : Slot → Slot) : (s.modMe f).softErrors = s.softErrors := rfl
@[simp] theorem State.modMe_descheduled (s : State) (f : Slot → Slot) : (s.modMe f).descheduled = s.descheduled := rfl

/-! `State.modCore` changes `cores` only. -/

@[simp] theorem State.modCore_clk (s : State) (c : Nat) (f : CoreState → CoreState) : (s.modCore c f).clk = s.clk := rfl
@[simp] theorem State.modCore_cur (s : State) (c : Nat) (f : CoreState → CoreState) : (s.modCore c f).cur = s.cur := rfl
@[simp] theorem State.modCore_agenda (s : State) (c : Nat) (f : CoreState → CoreState) : (s.modCore c f).agenda = s.agenda := rfl
@[simp] theorem State.modCore_free (s : State) (c : Nat) (f : CoreState → CoreState) : (s.modCore c f).free = s.free := rfl
@[simp] theorem State.modCore_nextId (s : State) (c : Nat) (f : CoreState → CoreState) : (s.modCore c f).nextId = s.nextId := rfl
@[simp] theorem State.modCore_powered (s : State) (c : Nat) (f : CoreState → CoreState) : (s.modCore c f).powered = s.powered := rfl
@[simp] theorem State.modCore_ready (s : State) (c : Nat) (f : CoreState → CoreState) : (s.modCore c f).ready = s.ready := rfl
@[simp] theorem State.modCore_shutdownCause (s : State) (c : Nat) (f : CoreState → CoreState) : (s.modCore c f).shutdownCause = s.shutdownCause := rfl
@[simp] theorem State.modCore_harts (s : State) (c : Nat) (f : CoreState → CoreState) : (s.modCore c f).harts = s.harts := rfl
@[simp] theorem State.modCore_saved (s : State) (c : Nat) (f : CoreState → CoreState) : (s.modCore c f).saved = s.saved := rfl
@[simp] theorem State.modCore_panels (s : State) (c : Nat) (f : CoreState → CoreState) : (s.modCore c f).panels = s.panels := rfl
@[simp] theorem State.modCore_clusters (s : State) (c : Nat) (f : CoreState → CoreState) : (s.modCore c f).clusters = s.clusters := rfl
@[simp] theorem State.modCore_nibs (s : State) (c : Nat) (f : CoreState → CoreState) : (s.modCore c f).nibs = s.nibs := rfl
@[simp] theorem State.modCore_stations (s : State) (c : Nat) (f : CoreState → CoreState) : (s.modCore c f).stations = s.stations := rfl
@[simp] theorem State.modCore_procs (s : State) (c : Nat) (f : CoreState → CoreState) : (s.modCore c f).procs = s.procs := rfl
@[simp] theorem State.modCore_launches (s : State) (c : Nat) (f : CoreState → CoreState) : (s.modCore c f).launches = s.launches := rfl
@[simp] theorem State.modCore_lidSeq (s : State) (c : Nat) (f : CoreState → CoreState) : (s.modCore c f).lidSeq = s.lidSeq := rfl
@[simp] theorem State.modCore_tokens (s : State) (c : Nat) (f : CoreState → CoreState) : (s.modCore c f).tokens = s.tokens := rfl
@[simp] theorem State.modCore_ops (s : State) (c : Nat) (f : CoreState → CoreState) : (s.modCore c f).ops = s.ops := rfl
@[simp] theorem State.modCore_forwards (s : State) (c : Nat) (f : CoreState → CoreState) : (s.modCore c f).forwards = s.forwards := rfl
@[simp] theorem State.modCore_regions (s : State) (c : Nat) (f : CoreState → CoreState) : (s.modCore c f).regions = s.regions := rfl
@[simp] theorem State.modCore_patterns (s : State) (c : Nat) (f : CoreState → CoreState) : (s.modCore c f).patterns = s.patterns := rfl
@[simp] theorem State.modCore_replies (s : State) (c : Nat) (f : CoreState → CoreState) : (s.modCore c f).replies = s.replies := rfl
@[simp] theorem State.modCore_spm (s : State) (c : Nat) (f : CoreState → CoreState) : (s.modCore c f).spm = s.spm := rfl
@[simp] theorem State.modCore_full (s : State) (c : Nat) (f : CoreState → CoreState) : (s.modCore c f).full = s.full := rfl
@[simp] theorem State.modCore_ext (s : State) (c : Nat) (f : CoreState → CoreState) : (s.modCore c f).ext = s.ext := rfl
@[simp] theorem State.modCore_nibMem (s : State) (c : Nat) (f : CoreState → CoreState) : (s.modCore c f).nibMem = s.nibMem := rfl
@[simp] theorem State.modCore_tblMem (s : State) (c : Nat) (f : CoreState → CoreState) : (s.modCore c f).tblMem = s.tblMem := rfl
@[simp] theorem State.modCore_tblWrites (s : State) (c : Nat) (f : CoreState → CoreState) : (s.modCore c f).tblWrites = s.tblWrites := rfl
@[simp] theorem State.modCore_opMem (s : State) (c : Nat) (f : CoreState → CoreState) : (s.modCore c f).opMem = s.opMem := rfl
@[simp] theorem State.modCore_accMem (s : State) (c : Nat) (f : CoreState → CoreState) : (s.modCore c f).accMem = s.accMem := rfl
@[simp] theorem State.modCore_imem (s : State) (c : Nat) (f : CoreState → CoreState) : (s.modCore c f).imem = s.imem := rfl
@[simp] theorem State.modCore_coresOut (s : State) (c : Nat) (f : CoreState → CoreState) : (s.modCore c f).coresOut = s.coresOut := rfl
@[simp] theorem State.modCore_panelsOut (s : State) (c : Nat) (f : CoreState → CoreState) : (s.modCore c f).panelsOut = s.panelsOut := rfl
@[simp] theorem State.modCore_clustersOut (s : State) (c : Nat) (f : CoreState → CoreState) : (s.modCore c f).clustersOut = s.clustersOut := rfl
@[simp] theorem State.modCore_stacksOut (s : State) (c : Nat) (f : CoreState → CoreState) : (s.modCore c f).stacksOut = s.stacksOut := rfl
@[simp] theorem State.modCore_nibsOut (s : State) (c : Nat) (f : CoreState → CoreState) : (s.modCore c f).nibsOut = s.nibsOut := rfl
@[simp] theorem State.modCore_modulesOut (s : State) (c : Nat) (f : CoreState → CoreState) : (s.modCore c f).modulesOut = s.modulesOut := rfl
@[simp] theorem State.modCore_selfTest (s : State) (c : Nat) (f : CoreState → CoreState) : (s.modCore c f).selfTest = s.selfTest := rfl
@[simp] theorem State.modCore_ports (s : State) (c : Nat) (f : CoreState → CoreState) : (s.modCore c f).ports = s.ports := rfl
@[simp] theorem State.modCore_domSize (s : State) (c : Nat) (f : CoreState → CoreState) : (s.modCore c f).domSize = s.domSize := rfl
@[simp] theorem State.modCore_domIndex (s : State) (c : Nat) (f : CoreState → CoreState) : (s.modCore c f).domIndex = s.domIndex := rfl
@[simp] theorem State.modCore_topology (s : State) (c : Nat) (f : CoreState → CoreState) : (s.modCore c f).topology = s.topology := rfl
@[simp] theorem State.modCore_lostPeers (s : State) (c : Nat) (f : CoreState → CoreState) : (s.modCore c f).lostPeers = s.lostPeers := rfl
@[simp] theorem State.modCore_throttle (s : State) (c : Nat) (f : CoreState → CoreState) : (s.modCore c f).throttle = s.throttle := rfl
@[simp] theorem State.modCore_throttleNext (s : State) (c : Nat) (f : CoreState → CoreState) : (s.modCore c f).throttleNext = s.throttleNext := rfl
@[simp] theorem State.modCore_throttleAt (s : State) (c : Nat) (f : CoreState → CoreState) : (s.modCore c f).throttleAt = s.throttleAt := rfl
@[simp] theorem State.modCore_rings (s : State) (c : Nat) (f : CoreState → CoreState) : (s.modCore c f).rings = s.rings := rfl
@[simp] theorem State.modCore_outbox (s : State) (c : Nat) (f : CoreState → CoreState) : (s.modCore c f).outbox = s.outbox := rfl
@[simp] theorem State.modCore_links (s : State) (c : Nat) (f : CoreState → CoreState) : (s.modCore c f).links = s.links := rfl
@[simp] theorem State.modCore_escapeWait (s : State) (c : Nat) (f : CoreState → CoreState) : (s.modCore c f).escapeWait = s.escapeWait := rfl
@[simp] theorem State.modCore_escaped (s : State) (c : Nat) (f : CoreState → CoreState) : (s.modCore c f).escaped = s.escaped := rfl
@[simp] theorem State.modCore_mgmtErrs (s : State) (c : Nat) (f : CoreState → CoreState) : (s.modCore c f).mgmtErrs = s.mgmtErrs := rfl
@[simp] theorem State.modCore_mgmtSeq (s : State) (c : Nat) (f : CoreState → CoreState) : (s.modCore c f).mgmtSeq = s.mgmtSeq := rfl
@[simp] theorem State.modCore_unitTimes (s : State) (c : Nat) (f : CoreState → CoreState) : (s.modCore c f).unitTimes = s.unitTimes := rfl
@[simp] theorem State.modCore_watchdogPeriod (s : State) (c : Nat) (f : CoreState → CoreState) : (s.modCore c f).watchdogPeriod = s.watchdogPeriod := rfl
@[simp] theorem State.modCore_faultVec (s : State) (c : Nat) (f : CoreState → CoreState) : (s.modCore c f).faultVec = s.faultVec := rfl
@[simp] theorem State.modCore_watchdogVec (s : State) (c : Nat) (f : CoreState → CoreState) : (s.modCore c f).watchdogVec = s.watchdogVec := rfl
@[simp] theorem State.modCore_watchdog (s : State) (c : Nat) (f : CoreState → CoreState) : (s.modCore c f).watchdog = s.watchdog := rfl
@[simp] theorem State.modCore_powerLimit (s : State) (c : Nat) (f : CoreState → CoreState) : (s.modCore c f).powerLimit = s.powerLimit := rfl
@[simp] theorem State.modCore_rollback (s : State) (c : Nat) (f : CoreState → CoreState) : (s.modCore c f).rollback = s.rollback := rfl
@[simp] theorem State.modCore_refused (s : State) (c : Nat) (f : CoreState → CoreState) : (s.modCore c f).refused = s.refused := rfl
@[simp] theorem State.modCore_firmware (s : State) (c : Nat) (f : CoreState → CoreState) : (s.modCore c f).firmware = s.firmware := rfl
@[simp] theorem State.modCore_freePages (s : State) (c : Nat) (f : CoreState → CoreState) : (s.modCore c f).freePages = s.freePages := rfl
@[simp] theorem State.modCore_freeTables (s : State) (c : Nat) (f : CoreState → CoreState) : (s.modCore c f).freeTables = s.freeTables := rfl
@[simp] theorem State.modCore_softErrors (s : State) (c : Nat) (f : CoreState → CoreState) : (s.modCore c f).softErrors = s.softErrors := rfl
@[simp] theorem State.modCore_descheduled (s : State) (c : Nat) (f : CoreState → CoreState) : (s.modCore c f).descheduled = s.descheduled := rfl

/-! `State.modPanel` changes `panels` only. -/

@[simp] theorem State.modPanel_clk (s : State) (p : Nat) (f : Panel → Panel) : (s.modPanel p f).clk = s.clk := rfl
@[simp] theorem State.modPanel_cur (s : State) (p : Nat) (f : Panel → Panel) : (s.modPanel p f).cur = s.cur := rfl
@[simp] theorem State.modPanel_agenda (s : State) (p : Nat) (f : Panel → Panel) : (s.modPanel p f).agenda = s.agenda := rfl
@[simp] theorem State.modPanel_free (s : State) (p : Nat) (f : Panel → Panel) : (s.modPanel p f).free = s.free := rfl
@[simp] theorem State.modPanel_nextId (s : State) (p : Nat) (f : Panel → Panel) : (s.modPanel p f).nextId = s.nextId := rfl
@[simp] theorem State.modPanel_powered (s : State) (p : Nat) (f : Panel → Panel) : (s.modPanel p f).powered = s.powered := rfl
@[simp] theorem State.modPanel_ready (s : State) (p : Nat) (f : Panel → Panel) : (s.modPanel p f).ready = s.ready := rfl
@[simp] theorem State.modPanel_shutdownCause (s : State) (p : Nat) (f : Panel → Panel) : (s.modPanel p f).shutdownCause = s.shutdownCause := rfl
@[simp] theorem State.modPanel_harts (s : State) (p : Nat) (f : Panel → Panel) : (s.modPanel p f).harts = s.harts := rfl
@[simp] theorem State.modPanel_saved (s : State) (p : Nat) (f : Panel → Panel) : (s.modPanel p f).saved = s.saved := rfl
@[simp] theorem State.modPanel_cores (s : State) (p : Nat) (f : Panel → Panel) : (s.modPanel p f).cores = s.cores := rfl
@[simp] theorem State.modPanel_clusters (s : State) (p : Nat) (f : Panel → Panel) : (s.modPanel p f).clusters = s.clusters := rfl
@[simp] theorem State.modPanel_nibs (s : State) (p : Nat) (f : Panel → Panel) : (s.modPanel p f).nibs = s.nibs := rfl
@[simp] theorem State.modPanel_stations (s : State) (p : Nat) (f : Panel → Panel) : (s.modPanel p f).stations = s.stations := rfl
@[simp] theorem State.modPanel_procs (s : State) (p : Nat) (f : Panel → Panel) : (s.modPanel p f).procs = s.procs := rfl
@[simp] theorem State.modPanel_launches (s : State) (p : Nat) (f : Panel → Panel) : (s.modPanel p f).launches = s.launches := rfl
@[simp] theorem State.modPanel_lidSeq (s : State) (p : Nat) (f : Panel → Panel) : (s.modPanel p f).lidSeq = s.lidSeq := rfl
@[simp] theorem State.modPanel_tokens (s : State) (p : Nat) (f : Panel → Panel) : (s.modPanel p f).tokens = s.tokens := rfl
@[simp] theorem State.modPanel_ops (s : State) (p : Nat) (f : Panel → Panel) : (s.modPanel p f).ops = s.ops := rfl
@[simp] theorem State.modPanel_forwards (s : State) (p : Nat) (f : Panel → Panel) : (s.modPanel p f).forwards = s.forwards := rfl
@[simp] theorem State.modPanel_regions (s : State) (p : Nat) (f : Panel → Panel) : (s.modPanel p f).regions = s.regions := rfl
@[simp] theorem State.modPanel_patterns (s : State) (p : Nat) (f : Panel → Panel) : (s.modPanel p f).patterns = s.patterns := rfl
@[simp] theorem State.modPanel_replies (s : State) (p : Nat) (f : Panel → Panel) : (s.modPanel p f).replies = s.replies := rfl
@[simp] theorem State.modPanel_spm (s : State) (p : Nat) (f : Panel → Panel) : (s.modPanel p f).spm = s.spm := rfl
@[simp] theorem State.modPanel_full (s : State) (p : Nat) (f : Panel → Panel) : (s.modPanel p f).full = s.full := rfl
@[simp] theorem State.modPanel_ext (s : State) (p : Nat) (f : Panel → Panel) : (s.modPanel p f).ext = s.ext := rfl
@[simp] theorem State.modPanel_nibMem (s : State) (p : Nat) (f : Panel → Panel) : (s.modPanel p f).nibMem = s.nibMem := rfl
@[simp] theorem State.modPanel_tblMem (s : State) (p : Nat) (f : Panel → Panel) : (s.modPanel p f).tblMem = s.tblMem := rfl
@[simp] theorem State.modPanel_tblWrites (s : State) (p : Nat) (f : Panel → Panel) : (s.modPanel p f).tblWrites = s.tblWrites := rfl
@[simp] theorem State.modPanel_opMem (s : State) (p : Nat) (f : Panel → Panel) : (s.modPanel p f).opMem = s.opMem := rfl
@[simp] theorem State.modPanel_accMem (s : State) (p : Nat) (f : Panel → Panel) : (s.modPanel p f).accMem = s.accMem := rfl
@[simp] theorem State.modPanel_imem (s : State) (p : Nat) (f : Panel → Panel) : (s.modPanel p f).imem = s.imem := rfl
@[simp] theorem State.modPanel_coresOut (s : State) (p : Nat) (f : Panel → Panel) : (s.modPanel p f).coresOut = s.coresOut := rfl
@[simp] theorem State.modPanel_panelsOut (s : State) (p : Nat) (f : Panel → Panel) : (s.modPanel p f).panelsOut = s.panelsOut := rfl
@[simp] theorem State.modPanel_clustersOut (s : State) (p : Nat) (f : Panel → Panel) : (s.modPanel p f).clustersOut = s.clustersOut := rfl
@[simp] theorem State.modPanel_stacksOut (s : State) (p : Nat) (f : Panel → Panel) : (s.modPanel p f).stacksOut = s.stacksOut := rfl
@[simp] theorem State.modPanel_nibsOut (s : State) (p : Nat) (f : Panel → Panel) : (s.modPanel p f).nibsOut = s.nibsOut := rfl
@[simp] theorem State.modPanel_modulesOut (s : State) (p : Nat) (f : Panel → Panel) : (s.modPanel p f).modulesOut = s.modulesOut := rfl
@[simp] theorem State.modPanel_selfTest (s : State) (p : Nat) (f : Panel → Panel) : (s.modPanel p f).selfTest = s.selfTest := rfl
@[simp] theorem State.modPanel_ports (s : State) (p : Nat) (f : Panel → Panel) : (s.modPanel p f).ports = s.ports := rfl
@[simp] theorem State.modPanel_domSize (s : State) (p : Nat) (f : Panel → Panel) : (s.modPanel p f).domSize = s.domSize := rfl
@[simp] theorem State.modPanel_domIndex (s : State) (p : Nat) (f : Panel → Panel) : (s.modPanel p f).domIndex = s.domIndex := rfl
@[simp] theorem State.modPanel_topology (s : State) (p : Nat) (f : Panel → Panel) : (s.modPanel p f).topology = s.topology := rfl
@[simp] theorem State.modPanel_lostPeers (s : State) (p : Nat) (f : Panel → Panel) : (s.modPanel p f).lostPeers = s.lostPeers := rfl
@[simp] theorem State.modPanel_throttle (s : State) (p : Nat) (f : Panel → Panel) : (s.modPanel p f).throttle = s.throttle := rfl
@[simp] theorem State.modPanel_throttleNext (s : State) (p : Nat) (f : Panel → Panel) : (s.modPanel p f).throttleNext = s.throttleNext := rfl
@[simp] theorem State.modPanel_throttleAt (s : State) (p : Nat) (f : Panel → Panel) : (s.modPanel p f).throttleAt = s.throttleAt := rfl
@[simp] theorem State.modPanel_rings (s : State) (p : Nat) (f : Panel → Panel) : (s.modPanel p f).rings = s.rings := rfl
@[simp] theorem State.modPanel_outbox (s : State) (p : Nat) (f : Panel → Panel) : (s.modPanel p f).outbox = s.outbox := rfl
@[simp] theorem State.modPanel_links (s : State) (p : Nat) (f : Panel → Panel) : (s.modPanel p f).links = s.links := rfl
@[simp] theorem State.modPanel_escapeWait (s : State) (p : Nat) (f : Panel → Panel) : (s.modPanel p f).escapeWait = s.escapeWait := rfl
@[simp] theorem State.modPanel_escaped (s : State) (p : Nat) (f : Panel → Panel) : (s.modPanel p f).escaped = s.escaped := rfl
@[simp] theorem State.modPanel_mgmtErrs (s : State) (p : Nat) (f : Panel → Panel) : (s.modPanel p f).mgmtErrs = s.mgmtErrs := rfl
@[simp] theorem State.modPanel_mgmtSeq (s : State) (p : Nat) (f : Panel → Panel) : (s.modPanel p f).mgmtSeq = s.mgmtSeq := rfl
@[simp] theorem State.modPanel_unitTimes (s : State) (p : Nat) (f : Panel → Panel) : (s.modPanel p f).unitTimes = s.unitTimes := rfl
@[simp] theorem State.modPanel_watchdogPeriod (s : State) (p : Nat) (f : Panel → Panel) : (s.modPanel p f).watchdogPeriod = s.watchdogPeriod := rfl
@[simp] theorem State.modPanel_faultVec (s : State) (p : Nat) (f : Panel → Panel) : (s.modPanel p f).faultVec = s.faultVec := rfl
@[simp] theorem State.modPanel_watchdogVec (s : State) (p : Nat) (f : Panel → Panel) : (s.modPanel p f).watchdogVec = s.watchdogVec := rfl
@[simp] theorem State.modPanel_watchdog (s : State) (p : Nat) (f : Panel → Panel) : (s.modPanel p f).watchdog = s.watchdog := rfl
@[simp] theorem State.modPanel_powerLimit (s : State) (p : Nat) (f : Panel → Panel) : (s.modPanel p f).powerLimit = s.powerLimit := rfl
@[simp] theorem State.modPanel_rollback (s : State) (p : Nat) (f : Panel → Panel) : (s.modPanel p f).rollback = s.rollback := rfl
@[simp] theorem State.modPanel_refused (s : State) (p : Nat) (f : Panel → Panel) : (s.modPanel p f).refused = s.refused := rfl
@[simp] theorem State.modPanel_firmware (s : State) (p : Nat) (f : Panel → Panel) : (s.modPanel p f).firmware = s.firmware := rfl
@[simp] theorem State.modPanel_freePages (s : State) (p : Nat) (f : Panel → Panel) : (s.modPanel p f).freePages = s.freePages := rfl
@[simp] theorem State.modPanel_freeTables (s : State) (p : Nat) (f : Panel → Panel) : (s.modPanel p f).freeTables = s.freeTables := rfl
@[simp] theorem State.modPanel_softErrors (s : State) (p : Nat) (f : Panel → Panel) : (s.modPanel p f).softErrors = s.softErrors := rfl
@[simp] theorem State.modPanel_descheduled (s : State) (p : Nat) (f : Panel → Panel) : (s.modPanel p f).descheduled = s.descheduled := rfl

/-! `State.modCluster` changes `clusters` only. -/

@[simp] theorem State.modCluster_clk (s : State) (c : Nat) (f : Cluster → Cluster) : (s.modCluster c f).clk = s.clk := rfl
@[simp] theorem State.modCluster_cur (s : State) (c : Nat) (f : Cluster → Cluster) : (s.modCluster c f).cur = s.cur := rfl
@[simp] theorem State.modCluster_agenda (s : State) (c : Nat) (f : Cluster → Cluster) : (s.modCluster c f).agenda = s.agenda := rfl
@[simp] theorem State.modCluster_free (s : State) (c : Nat) (f : Cluster → Cluster) : (s.modCluster c f).free = s.free := rfl
@[simp] theorem State.modCluster_nextId (s : State) (c : Nat) (f : Cluster → Cluster) : (s.modCluster c f).nextId = s.nextId := rfl
@[simp] theorem State.modCluster_powered (s : State) (c : Nat) (f : Cluster → Cluster) : (s.modCluster c f).powered = s.powered := rfl
@[simp] theorem State.modCluster_ready (s : State) (c : Nat) (f : Cluster → Cluster) : (s.modCluster c f).ready = s.ready := rfl
@[simp] theorem State.modCluster_shutdownCause (s : State) (c : Nat) (f : Cluster → Cluster) : (s.modCluster c f).shutdownCause = s.shutdownCause := rfl
@[simp] theorem State.modCluster_harts (s : State) (c : Nat) (f : Cluster → Cluster) : (s.modCluster c f).harts = s.harts := rfl
@[simp] theorem State.modCluster_saved (s : State) (c : Nat) (f : Cluster → Cluster) : (s.modCluster c f).saved = s.saved := rfl
@[simp] theorem State.modCluster_cores (s : State) (c : Nat) (f : Cluster → Cluster) : (s.modCluster c f).cores = s.cores := rfl
@[simp] theorem State.modCluster_panels (s : State) (c : Nat) (f : Cluster → Cluster) : (s.modCluster c f).panels = s.panels := rfl
@[simp] theorem State.modCluster_nibs (s : State) (c : Nat) (f : Cluster → Cluster) : (s.modCluster c f).nibs = s.nibs := rfl
@[simp] theorem State.modCluster_stations (s : State) (c : Nat) (f : Cluster → Cluster) : (s.modCluster c f).stations = s.stations := rfl
@[simp] theorem State.modCluster_procs (s : State) (c : Nat) (f : Cluster → Cluster) : (s.modCluster c f).procs = s.procs := rfl
@[simp] theorem State.modCluster_launches (s : State) (c : Nat) (f : Cluster → Cluster) : (s.modCluster c f).launches = s.launches := rfl
@[simp] theorem State.modCluster_lidSeq (s : State) (c : Nat) (f : Cluster → Cluster) : (s.modCluster c f).lidSeq = s.lidSeq := rfl
@[simp] theorem State.modCluster_tokens (s : State) (c : Nat) (f : Cluster → Cluster) : (s.modCluster c f).tokens = s.tokens := rfl
@[simp] theorem State.modCluster_ops (s : State) (c : Nat) (f : Cluster → Cluster) : (s.modCluster c f).ops = s.ops := rfl
@[simp] theorem State.modCluster_forwards (s : State) (c : Nat) (f : Cluster → Cluster) : (s.modCluster c f).forwards = s.forwards := rfl
@[simp] theorem State.modCluster_regions (s : State) (c : Nat) (f : Cluster → Cluster) : (s.modCluster c f).regions = s.regions := rfl
@[simp] theorem State.modCluster_patterns (s : State) (c : Nat) (f : Cluster → Cluster) : (s.modCluster c f).patterns = s.patterns := rfl
@[simp] theorem State.modCluster_replies (s : State) (c : Nat) (f : Cluster → Cluster) : (s.modCluster c f).replies = s.replies := rfl
@[simp] theorem State.modCluster_spm (s : State) (c : Nat) (f : Cluster → Cluster) : (s.modCluster c f).spm = s.spm := rfl
@[simp] theorem State.modCluster_full (s : State) (c : Nat) (f : Cluster → Cluster) : (s.modCluster c f).full = s.full := rfl
@[simp] theorem State.modCluster_ext (s : State) (c : Nat) (f : Cluster → Cluster) : (s.modCluster c f).ext = s.ext := rfl
@[simp] theorem State.modCluster_nibMem (s : State) (c : Nat) (f : Cluster → Cluster) : (s.modCluster c f).nibMem = s.nibMem := rfl
@[simp] theorem State.modCluster_tblMem (s : State) (c : Nat) (f : Cluster → Cluster) : (s.modCluster c f).tblMem = s.tblMem := rfl
@[simp] theorem State.modCluster_tblWrites (s : State) (c : Nat) (f : Cluster → Cluster) : (s.modCluster c f).tblWrites = s.tblWrites := rfl
@[simp] theorem State.modCluster_opMem (s : State) (c : Nat) (f : Cluster → Cluster) : (s.modCluster c f).opMem = s.opMem := rfl
@[simp] theorem State.modCluster_accMem (s : State) (c : Nat) (f : Cluster → Cluster) : (s.modCluster c f).accMem = s.accMem := rfl
@[simp] theorem State.modCluster_imem (s : State) (c : Nat) (f : Cluster → Cluster) : (s.modCluster c f).imem = s.imem := rfl
@[simp] theorem State.modCluster_coresOut (s : State) (c : Nat) (f : Cluster → Cluster) : (s.modCluster c f).coresOut = s.coresOut := rfl
@[simp] theorem State.modCluster_panelsOut (s : State) (c : Nat) (f : Cluster → Cluster) : (s.modCluster c f).panelsOut = s.panelsOut := rfl
@[simp] theorem State.modCluster_clustersOut (s : State) (c : Nat) (f : Cluster → Cluster) : (s.modCluster c f).clustersOut = s.clustersOut := rfl
@[simp] theorem State.modCluster_stacksOut (s : State) (c : Nat) (f : Cluster → Cluster) : (s.modCluster c f).stacksOut = s.stacksOut := rfl
@[simp] theorem State.modCluster_nibsOut (s : State) (c : Nat) (f : Cluster → Cluster) : (s.modCluster c f).nibsOut = s.nibsOut := rfl
@[simp] theorem State.modCluster_modulesOut (s : State) (c : Nat) (f : Cluster → Cluster) : (s.modCluster c f).modulesOut = s.modulesOut := rfl
@[simp] theorem State.modCluster_selfTest (s : State) (c : Nat) (f : Cluster → Cluster) : (s.modCluster c f).selfTest = s.selfTest := rfl
@[simp] theorem State.modCluster_ports (s : State) (c : Nat) (f : Cluster → Cluster) : (s.modCluster c f).ports = s.ports := rfl
@[simp] theorem State.modCluster_domSize (s : State) (c : Nat) (f : Cluster → Cluster) : (s.modCluster c f).domSize = s.domSize := rfl
@[simp] theorem State.modCluster_domIndex (s : State) (c : Nat) (f : Cluster → Cluster) : (s.modCluster c f).domIndex = s.domIndex := rfl
@[simp] theorem State.modCluster_topology (s : State) (c : Nat) (f : Cluster → Cluster) : (s.modCluster c f).topology = s.topology := rfl
@[simp] theorem State.modCluster_lostPeers (s : State) (c : Nat) (f : Cluster → Cluster) : (s.modCluster c f).lostPeers = s.lostPeers := rfl
@[simp] theorem State.modCluster_throttle (s : State) (c : Nat) (f : Cluster → Cluster) : (s.modCluster c f).throttle = s.throttle := rfl
@[simp] theorem State.modCluster_throttleNext (s : State) (c : Nat) (f : Cluster → Cluster) : (s.modCluster c f).throttleNext = s.throttleNext := rfl
@[simp] theorem State.modCluster_throttleAt (s : State) (c : Nat) (f : Cluster → Cluster) : (s.modCluster c f).throttleAt = s.throttleAt := rfl
@[simp] theorem State.modCluster_rings (s : State) (c : Nat) (f : Cluster → Cluster) : (s.modCluster c f).rings = s.rings := rfl
@[simp] theorem State.modCluster_outbox (s : State) (c : Nat) (f : Cluster → Cluster) : (s.modCluster c f).outbox = s.outbox := rfl
@[simp] theorem State.modCluster_links (s : State) (c : Nat) (f : Cluster → Cluster) : (s.modCluster c f).links = s.links := rfl
@[simp] theorem State.modCluster_escapeWait (s : State) (c : Nat) (f : Cluster → Cluster) : (s.modCluster c f).escapeWait = s.escapeWait := rfl
@[simp] theorem State.modCluster_escaped (s : State) (c : Nat) (f : Cluster → Cluster) : (s.modCluster c f).escaped = s.escaped := rfl
@[simp] theorem State.modCluster_mgmtErrs (s : State) (c : Nat) (f : Cluster → Cluster) : (s.modCluster c f).mgmtErrs = s.mgmtErrs := rfl
@[simp] theorem State.modCluster_mgmtSeq (s : State) (c : Nat) (f : Cluster → Cluster) : (s.modCluster c f).mgmtSeq = s.mgmtSeq := rfl
@[simp] theorem State.modCluster_unitTimes (s : State) (c : Nat) (f : Cluster → Cluster) : (s.modCluster c f).unitTimes = s.unitTimes := rfl
@[simp] theorem State.modCluster_watchdogPeriod (s : State) (c : Nat) (f : Cluster → Cluster) : (s.modCluster c f).watchdogPeriod = s.watchdogPeriod := rfl
@[simp] theorem State.modCluster_faultVec (s : State) (c : Nat) (f : Cluster → Cluster) : (s.modCluster c f).faultVec = s.faultVec := rfl
@[simp] theorem State.modCluster_watchdogVec (s : State) (c : Nat) (f : Cluster → Cluster) : (s.modCluster c f).watchdogVec = s.watchdogVec := rfl
@[simp] theorem State.modCluster_watchdog (s : State) (c : Nat) (f : Cluster → Cluster) : (s.modCluster c f).watchdog = s.watchdog := rfl
@[simp] theorem State.modCluster_powerLimit (s : State) (c : Nat) (f : Cluster → Cluster) : (s.modCluster c f).powerLimit = s.powerLimit := rfl
@[simp] theorem State.modCluster_rollback (s : State) (c : Nat) (f : Cluster → Cluster) : (s.modCluster c f).rollback = s.rollback := rfl
@[simp] theorem State.modCluster_refused (s : State) (c : Nat) (f : Cluster → Cluster) : (s.modCluster c f).refused = s.refused := rfl
@[simp] theorem State.modCluster_firmware (s : State) (c : Nat) (f : Cluster → Cluster) : (s.modCluster c f).firmware = s.firmware := rfl
@[simp] theorem State.modCluster_freePages (s : State) (c : Nat) (f : Cluster → Cluster) : (s.modCluster c f).freePages = s.freePages := rfl
@[simp] theorem State.modCluster_freeTables (s : State) (c : Nat) (f : Cluster → Cluster) : (s.modCluster c f).freeTables = s.freeTables := rfl
@[simp] theorem State.modCluster_softErrors (s : State) (c : Nat) (f : Cluster → Cluster) : (s.modCluster c f).softErrors = s.softErrors := rfl
@[simp] theorem State.modCluster_descheduled (s : State) (c : Nat) (f : Cluster → Cluster) : (s.modCluster c f).descheduled = s.descheduled := rfl

/-! `State.modNib` changes `nibs` only. -/

@[simp] theorem State.modNib_clk (s : State) (n : Nat) (f : Nib → Nib) : (s.modNib n f).clk = s.clk := rfl
@[simp] theorem State.modNib_cur (s : State) (n : Nat) (f : Nib → Nib) : (s.modNib n f).cur = s.cur := rfl
@[simp] theorem State.modNib_agenda (s : State) (n : Nat) (f : Nib → Nib) : (s.modNib n f).agenda = s.agenda := rfl
@[simp] theorem State.modNib_free (s : State) (n : Nat) (f : Nib → Nib) : (s.modNib n f).free = s.free := rfl
@[simp] theorem State.modNib_nextId (s : State) (n : Nat) (f : Nib → Nib) : (s.modNib n f).nextId = s.nextId := rfl
@[simp] theorem State.modNib_powered (s : State) (n : Nat) (f : Nib → Nib) : (s.modNib n f).powered = s.powered := rfl
@[simp] theorem State.modNib_ready (s : State) (n : Nat) (f : Nib → Nib) : (s.modNib n f).ready = s.ready := rfl
@[simp] theorem State.modNib_shutdownCause (s : State) (n : Nat) (f : Nib → Nib) : (s.modNib n f).shutdownCause = s.shutdownCause := rfl
@[simp] theorem State.modNib_harts (s : State) (n : Nat) (f : Nib → Nib) : (s.modNib n f).harts = s.harts := rfl
@[simp] theorem State.modNib_saved (s : State) (n : Nat) (f : Nib → Nib) : (s.modNib n f).saved = s.saved := rfl
@[simp] theorem State.modNib_cores (s : State) (n : Nat) (f : Nib → Nib) : (s.modNib n f).cores = s.cores := rfl
@[simp] theorem State.modNib_panels (s : State) (n : Nat) (f : Nib → Nib) : (s.modNib n f).panels = s.panels := rfl
@[simp] theorem State.modNib_clusters (s : State) (n : Nat) (f : Nib → Nib) : (s.modNib n f).clusters = s.clusters := rfl
@[simp] theorem State.modNib_stations (s : State) (n : Nat) (f : Nib → Nib) : (s.modNib n f).stations = s.stations := rfl
@[simp] theorem State.modNib_procs (s : State) (n : Nat) (f : Nib → Nib) : (s.modNib n f).procs = s.procs := rfl
@[simp] theorem State.modNib_launches (s : State) (n : Nat) (f : Nib → Nib) : (s.modNib n f).launches = s.launches := rfl
@[simp] theorem State.modNib_lidSeq (s : State) (n : Nat) (f : Nib → Nib) : (s.modNib n f).lidSeq = s.lidSeq := rfl
@[simp] theorem State.modNib_tokens (s : State) (n : Nat) (f : Nib → Nib) : (s.modNib n f).tokens = s.tokens := rfl
@[simp] theorem State.modNib_ops (s : State) (n : Nat) (f : Nib → Nib) : (s.modNib n f).ops = s.ops := rfl
@[simp] theorem State.modNib_forwards (s : State) (n : Nat) (f : Nib → Nib) : (s.modNib n f).forwards = s.forwards := rfl
@[simp] theorem State.modNib_regions (s : State) (n : Nat) (f : Nib → Nib) : (s.modNib n f).regions = s.regions := rfl
@[simp] theorem State.modNib_patterns (s : State) (n : Nat) (f : Nib → Nib) : (s.modNib n f).patterns = s.patterns := rfl
@[simp] theorem State.modNib_replies (s : State) (n : Nat) (f : Nib → Nib) : (s.modNib n f).replies = s.replies := rfl
@[simp] theorem State.modNib_spm (s : State) (n : Nat) (f : Nib → Nib) : (s.modNib n f).spm = s.spm := rfl
@[simp] theorem State.modNib_full (s : State) (n : Nat) (f : Nib → Nib) : (s.modNib n f).full = s.full := rfl
@[simp] theorem State.modNib_ext (s : State) (n : Nat) (f : Nib → Nib) : (s.modNib n f).ext = s.ext := rfl
@[simp] theorem State.modNib_nibMem (s : State) (n : Nat) (f : Nib → Nib) : (s.modNib n f).nibMem = s.nibMem := rfl
@[simp] theorem State.modNib_tblMem (s : State) (n : Nat) (f : Nib → Nib) : (s.modNib n f).tblMem = s.tblMem := rfl
@[simp] theorem State.modNib_tblWrites (s : State) (n : Nat) (f : Nib → Nib) : (s.modNib n f).tblWrites = s.tblWrites := rfl
@[simp] theorem State.modNib_opMem (s : State) (n : Nat) (f : Nib → Nib) : (s.modNib n f).opMem = s.opMem := rfl
@[simp] theorem State.modNib_accMem (s : State) (n : Nat) (f : Nib → Nib) : (s.modNib n f).accMem = s.accMem := rfl
@[simp] theorem State.modNib_imem (s : State) (n : Nat) (f : Nib → Nib) : (s.modNib n f).imem = s.imem := rfl
@[simp] theorem State.modNib_coresOut (s : State) (n : Nat) (f : Nib → Nib) : (s.modNib n f).coresOut = s.coresOut := rfl
@[simp] theorem State.modNib_panelsOut (s : State) (n : Nat) (f : Nib → Nib) : (s.modNib n f).panelsOut = s.panelsOut := rfl
@[simp] theorem State.modNib_clustersOut (s : State) (n : Nat) (f : Nib → Nib) : (s.modNib n f).clustersOut = s.clustersOut := rfl
@[simp] theorem State.modNib_stacksOut (s : State) (n : Nat) (f : Nib → Nib) : (s.modNib n f).stacksOut = s.stacksOut := rfl
@[simp] theorem State.modNib_nibsOut (s : State) (n : Nat) (f : Nib → Nib) : (s.modNib n f).nibsOut = s.nibsOut := rfl
@[simp] theorem State.modNib_modulesOut (s : State) (n : Nat) (f : Nib → Nib) : (s.modNib n f).modulesOut = s.modulesOut := rfl
@[simp] theorem State.modNib_selfTest (s : State) (n : Nat) (f : Nib → Nib) : (s.modNib n f).selfTest = s.selfTest := rfl
@[simp] theorem State.modNib_ports (s : State) (n : Nat) (f : Nib → Nib) : (s.modNib n f).ports = s.ports := rfl
@[simp] theorem State.modNib_domSize (s : State) (n : Nat) (f : Nib → Nib) : (s.modNib n f).domSize = s.domSize := rfl
@[simp] theorem State.modNib_domIndex (s : State) (n : Nat) (f : Nib → Nib) : (s.modNib n f).domIndex = s.domIndex := rfl
@[simp] theorem State.modNib_topology (s : State) (n : Nat) (f : Nib → Nib) : (s.modNib n f).topology = s.topology := rfl
@[simp] theorem State.modNib_lostPeers (s : State) (n : Nat) (f : Nib → Nib) : (s.modNib n f).lostPeers = s.lostPeers := rfl
@[simp] theorem State.modNib_throttle (s : State) (n : Nat) (f : Nib → Nib) : (s.modNib n f).throttle = s.throttle := rfl
@[simp] theorem State.modNib_throttleNext (s : State) (n : Nat) (f : Nib → Nib) : (s.modNib n f).throttleNext = s.throttleNext := rfl
@[simp] theorem State.modNib_throttleAt (s : State) (n : Nat) (f : Nib → Nib) : (s.modNib n f).throttleAt = s.throttleAt := rfl
@[simp] theorem State.modNib_rings (s : State) (n : Nat) (f : Nib → Nib) : (s.modNib n f).rings = s.rings := rfl
@[simp] theorem State.modNib_outbox (s : State) (n : Nat) (f : Nib → Nib) : (s.modNib n f).outbox = s.outbox := rfl
@[simp] theorem State.modNib_links (s : State) (n : Nat) (f : Nib → Nib) : (s.modNib n f).links = s.links := rfl
@[simp] theorem State.modNib_escapeWait (s : State) (n : Nat) (f : Nib → Nib) : (s.modNib n f).escapeWait = s.escapeWait := rfl
@[simp] theorem State.modNib_escaped (s : State) (n : Nat) (f : Nib → Nib) : (s.modNib n f).escaped = s.escaped := rfl
@[simp] theorem State.modNib_mgmtErrs (s : State) (n : Nat) (f : Nib → Nib) : (s.modNib n f).mgmtErrs = s.mgmtErrs := rfl
@[simp] theorem State.modNib_mgmtSeq (s : State) (n : Nat) (f : Nib → Nib) : (s.modNib n f).mgmtSeq = s.mgmtSeq := rfl
@[simp] theorem State.modNib_unitTimes (s : State) (n : Nat) (f : Nib → Nib) : (s.modNib n f).unitTimes = s.unitTimes := rfl
@[simp] theorem State.modNib_watchdogPeriod (s : State) (n : Nat) (f : Nib → Nib) : (s.modNib n f).watchdogPeriod = s.watchdogPeriod := rfl
@[simp] theorem State.modNib_faultVec (s : State) (n : Nat) (f : Nib → Nib) : (s.modNib n f).faultVec = s.faultVec := rfl
@[simp] theorem State.modNib_watchdogVec (s : State) (n : Nat) (f : Nib → Nib) : (s.modNib n f).watchdogVec = s.watchdogVec := rfl
@[simp] theorem State.modNib_watchdog (s : State) (n : Nat) (f : Nib → Nib) : (s.modNib n f).watchdog = s.watchdog := rfl
@[simp] theorem State.modNib_powerLimit (s : State) (n : Nat) (f : Nib → Nib) : (s.modNib n f).powerLimit = s.powerLimit := rfl
@[simp] theorem State.modNib_rollback (s : State) (n : Nat) (f : Nib → Nib) : (s.modNib n f).rollback = s.rollback := rfl
@[simp] theorem State.modNib_refused (s : State) (n : Nat) (f : Nib → Nib) : (s.modNib n f).refused = s.refused := rfl
@[simp] theorem State.modNib_firmware (s : State) (n : Nat) (f : Nib → Nib) : (s.modNib n f).firmware = s.firmware := rfl
@[simp] theorem State.modNib_freePages (s : State) (n : Nat) (f : Nib → Nib) : (s.modNib n f).freePages = s.freePages := rfl
@[simp] theorem State.modNib_freeTables (s : State) (n : Nat) (f : Nib → Nib) : (s.modNib n f).freeTables = s.freeTables := rfl
@[simp] theorem State.modNib_softErrors (s : State) (n : Nat) (f : Nib → Nib) : (s.modNib n f).softErrors = s.softErrors := rfl
@[simp] theorem State.modNib_descheduled (s : State) (n : Nat) (f : Nib → Nib) : (s.modNib n f).descheduled = s.descheduled := rfl

/-! `State.modStation` changes `stations` only. -/

@[simp] theorem State.modStation_clk (s : State) (n : Nat) (f : Station → Station) : (s.modStation n f).clk = s.clk := rfl
@[simp] theorem State.modStation_cur (s : State) (n : Nat) (f : Station → Station) : (s.modStation n f).cur = s.cur := rfl
@[simp] theorem State.modStation_agenda (s : State) (n : Nat) (f : Station → Station) : (s.modStation n f).agenda = s.agenda := rfl
@[simp] theorem State.modStation_free (s : State) (n : Nat) (f : Station → Station) : (s.modStation n f).free = s.free := rfl
@[simp] theorem State.modStation_nextId (s : State) (n : Nat) (f : Station → Station) : (s.modStation n f).nextId = s.nextId := rfl
@[simp] theorem State.modStation_powered (s : State) (n : Nat) (f : Station → Station) : (s.modStation n f).powered = s.powered := rfl
@[simp] theorem State.modStation_ready (s : State) (n : Nat) (f : Station → Station) : (s.modStation n f).ready = s.ready := rfl
@[simp] theorem State.modStation_shutdownCause (s : State) (n : Nat) (f : Station → Station) : (s.modStation n f).shutdownCause = s.shutdownCause := rfl
@[simp] theorem State.modStation_harts (s : State) (n : Nat) (f : Station → Station) : (s.modStation n f).harts = s.harts := rfl
@[simp] theorem State.modStation_saved (s : State) (n : Nat) (f : Station → Station) : (s.modStation n f).saved = s.saved := rfl
@[simp] theorem State.modStation_cores (s : State) (n : Nat) (f : Station → Station) : (s.modStation n f).cores = s.cores := rfl
@[simp] theorem State.modStation_panels (s : State) (n : Nat) (f : Station → Station) : (s.modStation n f).panels = s.panels := rfl
@[simp] theorem State.modStation_clusters (s : State) (n : Nat) (f : Station → Station) : (s.modStation n f).clusters = s.clusters := rfl
@[simp] theorem State.modStation_nibs (s : State) (n : Nat) (f : Station → Station) : (s.modStation n f).nibs = s.nibs := rfl
@[simp] theorem State.modStation_procs (s : State) (n : Nat) (f : Station → Station) : (s.modStation n f).procs = s.procs := rfl
@[simp] theorem State.modStation_launches (s : State) (n : Nat) (f : Station → Station) : (s.modStation n f).launches = s.launches := rfl
@[simp] theorem State.modStation_lidSeq (s : State) (n : Nat) (f : Station → Station) : (s.modStation n f).lidSeq = s.lidSeq := rfl
@[simp] theorem State.modStation_tokens (s : State) (n : Nat) (f : Station → Station) : (s.modStation n f).tokens = s.tokens := rfl
@[simp] theorem State.modStation_ops (s : State) (n : Nat) (f : Station → Station) : (s.modStation n f).ops = s.ops := rfl
@[simp] theorem State.modStation_forwards (s : State) (n : Nat) (f : Station → Station) : (s.modStation n f).forwards = s.forwards := rfl
@[simp] theorem State.modStation_regions (s : State) (n : Nat) (f : Station → Station) : (s.modStation n f).regions = s.regions := rfl
@[simp] theorem State.modStation_patterns (s : State) (n : Nat) (f : Station → Station) : (s.modStation n f).patterns = s.patterns := rfl
@[simp] theorem State.modStation_replies (s : State) (n : Nat) (f : Station → Station) : (s.modStation n f).replies = s.replies := rfl
@[simp] theorem State.modStation_spm (s : State) (n : Nat) (f : Station → Station) : (s.modStation n f).spm = s.spm := rfl
@[simp] theorem State.modStation_full (s : State) (n : Nat) (f : Station → Station) : (s.modStation n f).full = s.full := rfl
@[simp] theorem State.modStation_ext (s : State) (n : Nat) (f : Station → Station) : (s.modStation n f).ext = s.ext := rfl
@[simp] theorem State.modStation_nibMem (s : State) (n : Nat) (f : Station → Station) : (s.modStation n f).nibMem = s.nibMem := rfl
@[simp] theorem State.modStation_tblMem (s : State) (n : Nat) (f : Station → Station) : (s.modStation n f).tblMem = s.tblMem := rfl
@[simp] theorem State.modStation_tblWrites (s : State) (n : Nat) (f : Station → Station) : (s.modStation n f).tblWrites = s.tblWrites := rfl
@[simp] theorem State.modStation_opMem (s : State) (n : Nat) (f : Station → Station) : (s.modStation n f).opMem = s.opMem := rfl
@[simp] theorem State.modStation_accMem (s : State) (n : Nat) (f : Station → Station) : (s.modStation n f).accMem = s.accMem := rfl
@[simp] theorem State.modStation_imem (s : State) (n : Nat) (f : Station → Station) : (s.modStation n f).imem = s.imem := rfl
@[simp] theorem State.modStation_coresOut (s : State) (n : Nat) (f : Station → Station) : (s.modStation n f).coresOut = s.coresOut := rfl
@[simp] theorem State.modStation_panelsOut (s : State) (n : Nat) (f : Station → Station) : (s.modStation n f).panelsOut = s.panelsOut := rfl
@[simp] theorem State.modStation_clustersOut (s : State) (n : Nat) (f : Station → Station) : (s.modStation n f).clustersOut = s.clustersOut := rfl
@[simp] theorem State.modStation_stacksOut (s : State) (n : Nat) (f : Station → Station) : (s.modStation n f).stacksOut = s.stacksOut := rfl
@[simp] theorem State.modStation_nibsOut (s : State) (n : Nat) (f : Station → Station) : (s.modStation n f).nibsOut = s.nibsOut := rfl
@[simp] theorem State.modStation_modulesOut (s : State) (n : Nat) (f : Station → Station) : (s.modStation n f).modulesOut = s.modulesOut := rfl
@[simp] theorem State.modStation_selfTest (s : State) (n : Nat) (f : Station → Station) : (s.modStation n f).selfTest = s.selfTest := rfl
@[simp] theorem State.modStation_ports (s : State) (n : Nat) (f : Station → Station) : (s.modStation n f).ports = s.ports := rfl
@[simp] theorem State.modStation_domSize (s : State) (n : Nat) (f : Station → Station) : (s.modStation n f).domSize = s.domSize := rfl
@[simp] theorem State.modStation_domIndex (s : State) (n : Nat) (f : Station → Station) : (s.modStation n f).domIndex = s.domIndex := rfl
@[simp] theorem State.modStation_topology (s : State) (n : Nat) (f : Station → Station) : (s.modStation n f).topology = s.topology := rfl
@[simp] theorem State.modStation_lostPeers (s : State) (n : Nat) (f : Station → Station) : (s.modStation n f).lostPeers = s.lostPeers := rfl
@[simp] theorem State.modStation_throttle (s : State) (n : Nat) (f : Station → Station) : (s.modStation n f).throttle = s.throttle := rfl
@[simp] theorem State.modStation_throttleNext (s : State) (n : Nat) (f : Station → Station) : (s.modStation n f).throttleNext = s.throttleNext := rfl
@[simp] theorem State.modStation_throttleAt (s : State) (n : Nat) (f : Station → Station) : (s.modStation n f).throttleAt = s.throttleAt := rfl
@[simp] theorem State.modStation_rings (s : State) (n : Nat) (f : Station → Station) : (s.modStation n f).rings = s.rings := rfl
@[simp] theorem State.modStation_outbox (s : State) (n : Nat) (f : Station → Station) : (s.modStation n f).outbox = s.outbox := rfl
@[simp] theorem State.modStation_links (s : State) (n : Nat) (f : Station → Station) : (s.modStation n f).links = s.links := rfl
@[simp] theorem State.modStation_escapeWait (s : State) (n : Nat) (f : Station → Station) : (s.modStation n f).escapeWait = s.escapeWait := rfl
@[simp] theorem State.modStation_escaped (s : State) (n : Nat) (f : Station → Station) : (s.modStation n f).escaped = s.escaped := rfl
@[simp] theorem State.modStation_mgmtErrs (s : State) (n : Nat) (f : Station → Station) : (s.modStation n f).mgmtErrs = s.mgmtErrs := rfl
@[simp] theorem State.modStation_mgmtSeq (s : State) (n : Nat) (f : Station → Station) : (s.modStation n f).mgmtSeq = s.mgmtSeq := rfl
@[simp] theorem State.modStation_unitTimes (s : State) (n : Nat) (f : Station → Station) : (s.modStation n f).unitTimes = s.unitTimes := rfl
@[simp] theorem State.modStation_watchdogPeriod (s : State) (n : Nat) (f : Station → Station) : (s.modStation n f).watchdogPeriod = s.watchdogPeriod := rfl
@[simp] theorem State.modStation_faultVec (s : State) (n : Nat) (f : Station → Station) : (s.modStation n f).faultVec = s.faultVec := rfl
@[simp] theorem State.modStation_watchdogVec (s : State) (n : Nat) (f : Station → Station) : (s.modStation n f).watchdogVec = s.watchdogVec := rfl
@[simp] theorem State.modStation_watchdog (s : State) (n : Nat) (f : Station → Station) : (s.modStation n f).watchdog = s.watchdog := rfl
@[simp] theorem State.modStation_powerLimit (s : State) (n : Nat) (f : Station → Station) : (s.modStation n f).powerLimit = s.powerLimit := rfl
@[simp] theorem State.modStation_rollback (s : State) (n : Nat) (f : Station → Station) : (s.modStation n f).rollback = s.rollback := rfl
@[simp] theorem State.modStation_refused (s : State) (n : Nat) (f : Station → Station) : (s.modStation n f).refused = s.refused := rfl
@[simp] theorem State.modStation_firmware (s : State) (n : Nat) (f : Station → Station) : (s.modStation n f).firmware = s.firmware := rfl
@[simp] theorem State.modStation_freePages (s : State) (n : Nat) (f : Station → Station) : (s.modStation n f).freePages = s.freePages := rfl
@[simp] theorem State.modStation_freeTables (s : State) (n : Nat) (f : Station → Station) : (s.modStation n f).freeTables = s.freeTables := rfl
@[simp] theorem State.modStation_softErrors (s : State) (n : Nat) (f : Station → Station) : (s.modStation n f).softErrors = s.softErrors := rfl
@[simp] theorem State.modStation_descheduled (s : State) (n : Nat) (f : Station → Station) : (s.modStation n f).descheduled = s.descheduled := rfl

/-! `State.modProc` changes `procs` only. -/

@[simp] theorem State.modProc_clk (s : State) (p : BitVec 16) (f : Process → Process) : (s.modProc p f).clk = s.clk := rfl
@[simp] theorem State.modProc_cur (s : State) (p : BitVec 16) (f : Process → Process) : (s.modProc p f).cur = s.cur := rfl
@[simp] theorem State.modProc_agenda (s : State) (p : BitVec 16) (f : Process → Process) : (s.modProc p f).agenda = s.agenda := rfl
@[simp] theorem State.modProc_free (s : State) (p : BitVec 16) (f : Process → Process) : (s.modProc p f).free = s.free := rfl
@[simp] theorem State.modProc_nextId (s : State) (p : BitVec 16) (f : Process → Process) : (s.modProc p f).nextId = s.nextId := rfl
@[simp] theorem State.modProc_powered (s : State) (p : BitVec 16) (f : Process → Process) : (s.modProc p f).powered = s.powered := rfl
@[simp] theorem State.modProc_ready (s : State) (p : BitVec 16) (f : Process → Process) : (s.modProc p f).ready = s.ready := rfl
@[simp] theorem State.modProc_shutdownCause (s : State) (p : BitVec 16) (f : Process → Process) : (s.modProc p f).shutdownCause = s.shutdownCause := rfl
@[simp] theorem State.modProc_harts (s : State) (p : BitVec 16) (f : Process → Process) : (s.modProc p f).harts = s.harts := rfl
@[simp] theorem State.modProc_saved (s : State) (p : BitVec 16) (f : Process → Process) : (s.modProc p f).saved = s.saved := rfl
@[simp] theorem State.modProc_cores (s : State) (p : BitVec 16) (f : Process → Process) : (s.modProc p f).cores = s.cores := rfl
@[simp] theorem State.modProc_panels (s : State) (p : BitVec 16) (f : Process → Process) : (s.modProc p f).panels = s.panels := rfl
@[simp] theorem State.modProc_clusters (s : State) (p : BitVec 16) (f : Process → Process) : (s.modProc p f).clusters = s.clusters := rfl
@[simp] theorem State.modProc_nibs (s : State) (p : BitVec 16) (f : Process → Process) : (s.modProc p f).nibs = s.nibs := rfl
@[simp] theorem State.modProc_stations (s : State) (p : BitVec 16) (f : Process → Process) : (s.modProc p f).stations = s.stations := rfl
@[simp] theorem State.modProc_launches (s : State) (p : BitVec 16) (f : Process → Process) : (s.modProc p f).launches = s.launches := rfl
@[simp] theorem State.modProc_lidSeq (s : State) (p : BitVec 16) (f : Process → Process) : (s.modProc p f).lidSeq = s.lidSeq := rfl
@[simp] theorem State.modProc_tokens (s : State) (p : BitVec 16) (f : Process → Process) : (s.modProc p f).tokens = s.tokens := rfl
@[simp] theorem State.modProc_ops (s : State) (p : BitVec 16) (f : Process → Process) : (s.modProc p f).ops = s.ops := rfl
@[simp] theorem State.modProc_forwards (s : State) (p : BitVec 16) (f : Process → Process) : (s.modProc p f).forwards = s.forwards := rfl
@[simp] theorem State.modProc_regions (s : State) (p : BitVec 16) (f : Process → Process) : (s.modProc p f).regions = s.regions := rfl
@[simp] theorem State.modProc_patterns (s : State) (p : BitVec 16) (f : Process → Process) : (s.modProc p f).patterns = s.patterns := rfl
@[simp] theorem State.modProc_replies (s : State) (p : BitVec 16) (f : Process → Process) : (s.modProc p f).replies = s.replies := rfl
@[simp] theorem State.modProc_spm (s : State) (p : BitVec 16) (f : Process → Process) : (s.modProc p f).spm = s.spm := rfl
@[simp] theorem State.modProc_full (s : State) (p : BitVec 16) (f : Process → Process) : (s.modProc p f).full = s.full := rfl
@[simp] theorem State.modProc_ext (s : State) (p : BitVec 16) (f : Process → Process) : (s.modProc p f).ext = s.ext := rfl
@[simp] theorem State.modProc_nibMem (s : State) (p : BitVec 16) (f : Process → Process) : (s.modProc p f).nibMem = s.nibMem := rfl
@[simp] theorem State.modProc_tblMem (s : State) (p : BitVec 16) (f : Process → Process) : (s.modProc p f).tblMem = s.tblMem := rfl
@[simp] theorem State.modProc_tblWrites (s : State) (p : BitVec 16) (f : Process → Process) : (s.modProc p f).tblWrites = s.tblWrites := rfl
@[simp] theorem State.modProc_opMem (s : State) (p : BitVec 16) (f : Process → Process) : (s.modProc p f).opMem = s.opMem := rfl
@[simp] theorem State.modProc_accMem (s : State) (p : BitVec 16) (f : Process → Process) : (s.modProc p f).accMem = s.accMem := rfl
@[simp] theorem State.modProc_imem (s : State) (p : BitVec 16) (f : Process → Process) : (s.modProc p f).imem = s.imem := rfl
@[simp] theorem State.modProc_coresOut (s : State) (p : BitVec 16) (f : Process → Process) : (s.modProc p f).coresOut = s.coresOut := rfl
@[simp] theorem State.modProc_panelsOut (s : State) (p : BitVec 16) (f : Process → Process) : (s.modProc p f).panelsOut = s.panelsOut := rfl
@[simp] theorem State.modProc_clustersOut (s : State) (p : BitVec 16) (f : Process → Process) : (s.modProc p f).clustersOut = s.clustersOut := rfl
@[simp] theorem State.modProc_stacksOut (s : State) (p : BitVec 16) (f : Process → Process) : (s.modProc p f).stacksOut = s.stacksOut := rfl
@[simp] theorem State.modProc_nibsOut (s : State) (p : BitVec 16) (f : Process → Process) : (s.modProc p f).nibsOut = s.nibsOut := rfl
@[simp] theorem State.modProc_modulesOut (s : State) (p : BitVec 16) (f : Process → Process) : (s.modProc p f).modulesOut = s.modulesOut := rfl
@[simp] theorem State.modProc_selfTest (s : State) (p : BitVec 16) (f : Process → Process) : (s.modProc p f).selfTest = s.selfTest := rfl
@[simp] theorem State.modProc_ports (s : State) (p : BitVec 16) (f : Process → Process) : (s.modProc p f).ports = s.ports := rfl
@[simp] theorem State.modProc_domSize (s : State) (p : BitVec 16) (f : Process → Process) : (s.modProc p f).domSize = s.domSize := rfl
@[simp] theorem State.modProc_domIndex (s : State) (p : BitVec 16) (f : Process → Process) : (s.modProc p f).domIndex = s.domIndex := rfl
@[simp] theorem State.modProc_topology (s : State) (p : BitVec 16) (f : Process → Process) : (s.modProc p f).topology = s.topology := rfl
@[simp] theorem State.modProc_lostPeers (s : State) (p : BitVec 16) (f : Process → Process) : (s.modProc p f).lostPeers = s.lostPeers := rfl
@[simp] theorem State.modProc_throttle (s : State) (p : BitVec 16) (f : Process → Process) : (s.modProc p f).throttle = s.throttle := rfl
@[simp] theorem State.modProc_throttleNext (s : State) (p : BitVec 16) (f : Process → Process) : (s.modProc p f).throttleNext = s.throttleNext := rfl
@[simp] theorem State.modProc_throttleAt (s : State) (p : BitVec 16) (f : Process → Process) : (s.modProc p f).throttleAt = s.throttleAt := rfl
@[simp] theorem State.modProc_rings (s : State) (p : BitVec 16) (f : Process → Process) : (s.modProc p f).rings = s.rings := rfl
@[simp] theorem State.modProc_outbox (s : State) (p : BitVec 16) (f : Process → Process) : (s.modProc p f).outbox = s.outbox := rfl
@[simp] theorem State.modProc_links (s : State) (p : BitVec 16) (f : Process → Process) : (s.modProc p f).links = s.links := rfl
@[simp] theorem State.modProc_escapeWait (s : State) (p : BitVec 16) (f : Process → Process) : (s.modProc p f).escapeWait = s.escapeWait := rfl
@[simp] theorem State.modProc_escaped (s : State) (p : BitVec 16) (f : Process → Process) : (s.modProc p f).escaped = s.escaped := rfl
@[simp] theorem State.modProc_mgmtErrs (s : State) (p : BitVec 16) (f : Process → Process) : (s.modProc p f).mgmtErrs = s.mgmtErrs := rfl
@[simp] theorem State.modProc_mgmtSeq (s : State) (p : BitVec 16) (f : Process → Process) : (s.modProc p f).mgmtSeq = s.mgmtSeq := rfl
@[simp] theorem State.modProc_unitTimes (s : State) (p : BitVec 16) (f : Process → Process) : (s.modProc p f).unitTimes = s.unitTimes := rfl
@[simp] theorem State.modProc_watchdogPeriod (s : State) (p : BitVec 16) (f : Process → Process) : (s.modProc p f).watchdogPeriod = s.watchdogPeriod := rfl
@[simp] theorem State.modProc_faultVec (s : State) (p : BitVec 16) (f : Process → Process) : (s.modProc p f).faultVec = s.faultVec := rfl
@[simp] theorem State.modProc_watchdogVec (s : State) (p : BitVec 16) (f : Process → Process) : (s.modProc p f).watchdogVec = s.watchdogVec := rfl
@[simp] theorem State.modProc_watchdog (s : State) (p : BitVec 16) (f : Process → Process) : (s.modProc p f).watchdog = s.watchdog := rfl
@[simp] theorem State.modProc_powerLimit (s : State) (p : BitVec 16) (f : Process → Process) : (s.modProc p f).powerLimit = s.powerLimit := rfl
@[simp] theorem State.modProc_rollback (s : State) (p : BitVec 16) (f : Process → Process) : (s.modProc p f).rollback = s.rollback := rfl
@[simp] theorem State.modProc_refused (s : State) (p : BitVec 16) (f : Process → Process) : (s.modProc p f).refused = s.refused := rfl
@[simp] theorem State.modProc_firmware (s : State) (p : BitVec 16) (f : Process → Process) : (s.modProc p f).firmware = s.firmware := rfl
@[simp] theorem State.modProc_freePages (s : State) (p : BitVec 16) (f : Process → Process) : (s.modProc p f).freePages = s.freePages := rfl
@[simp] theorem State.modProc_freeTables (s : State) (p : BitVec 16) (f : Process → Process) : (s.modProc p f).freeTables = s.freeTables := rfl
@[simp] theorem State.modProc_softErrors (s : State) (p : BitVec 16) (f : Process → Process) : (s.modProc p f).softErrors = s.softErrors := rfl
@[simp] theorem State.modProc_descheduled (s : State) (p : BitVec 16) (f : Process → Process) : (s.modProc p f).descheduled = s.descheduled := rfl

/-! `State.setOp` changes `ops` only. -/

@[simp] theorem State.setOp_clk (s : State) (o : Op) : (s.setOp o).clk = s.clk := rfl
@[simp] theorem State.setOp_cur (s : State) (o : Op) : (s.setOp o).cur = s.cur := rfl
@[simp] theorem State.setOp_agenda (s : State) (o : Op) : (s.setOp o).agenda = s.agenda := rfl
@[simp] theorem State.setOp_free (s : State) (o : Op) : (s.setOp o).free = s.free := rfl
@[simp] theorem State.setOp_nextId (s : State) (o : Op) : (s.setOp o).nextId = s.nextId := rfl
@[simp] theorem State.setOp_powered (s : State) (o : Op) : (s.setOp o).powered = s.powered := rfl
@[simp] theorem State.setOp_ready (s : State) (o : Op) : (s.setOp o).ready = s.ready := rfl
@[simp] theorem State.setOp_shutdownCause (s : State) (o : Op) : (s.setOp o).shutdownCause = s.shutdownCause := rfl
@[simp] theorem State.setOp_harts (s : State) (o : Op) : (s.setOp o).harts = s.harts := rfl
@[simp] theorem State.setOp_saved (s : State) (o : Op) : (s.setOp o).saved = s.saved := rfl
@[simp] theorem State.setOp_cores (s : State) (o : Op) : (s.setOp o).cores = s.cores := rfl
@[simp] theorem State.setOp_panels (s : State) (o : Op) : (s.setOp o).panels = s.panels := rfl
@[simp] theorem State.setOp_clusters (s : State) (o : Op) : (s.setOp o).clusters = s.clusters := rfl
@[simp] theorem State.setOp_nibs (s : State) (o : Op) : (s.setOp o).nibs = s.nibs := rfl
@[simp] theorem State.setOp_stations (s : State) (o : Op) : (s.setOp o).stations = s.stations := rfl
@[simp] theorem State.setOp_procs (s : State) (o : Op) : (s.setOp o).procs = s.procs := rfl
@[simp] theorem State.setOp_launches (s : State) (o : Op) : (s.setOp o).launches = s.launches := rfl
@[simp] theorem State.setOp_lidSeq (s : State) (o : Op) : (s.setOp o).lidSeq = s.lidSeq := rfl
@[simp] theorem State.setOp_tokens (s : State) (o : Op) : (s.setOp o).tokens = s.tokens := rfl
@[simp] theorem State.setOp_forwards (s : State) (o : Op) : (s.setOp o).forwards = s.forwards := rfl
@[simp] theorem State.setOp_regions (s : State) (o : Op) : (s.setOp o).regions = s.regions := rfl
@[simp] theorem State.setOp_patterns (s : State) (o : Op) : (s.setOp o).patterns = s.patterns := rfl
@[simp] theorem State.setOp_replies (s : State) (o : Op) : (s.setOp o).replies = s.replies := rfl
@[simp] theorem State.setOp_spm (s : State) (o : Op) : (s.setOp o).spm = s.spm := rfl
@[simp] theorem State.setOp_full (s : State) (o : Op) : (s.setOp o).full = s.full := rfl
@[simp] theorem State.setOp_ext (s : State) (o : Op) : (s.setOp o).ext = s.ext := rfl
@[simp] theorem State.setOp_nibMem (s : State) (o : Op) : (s.setOp o).nibMem = s.nibMem := rfl
@[simp] theorem State.setOp_tblMem (s : State) (o : Op) : (s.setOp o).tblMem = s.tblMem := rfl
@[simp] theorem State.setOp_tblWrites (s : State) (o : Op) : (s.setOp o).tblWrites = s.tblWrites := rfl
@[simp] theorem State.setOp_opMem (s : State) (o : Op) : (s.setOp o).opMem = s.opMem := rfl
@[simp] theorem State.setOp_accMem (s : State) (o : Op) : (s.setOp o).accMem = s.accMem := rfl
@[simp] theorem State.setOp_imem (s : State) (o : Op) : (s.setOp o).imem = s.imem := rfl
@[simp] theorem State.setOp_coresOut (s : State) (o : Op) : (s.setOp o).coresOut = s.coresOut := rfl
@[simp] theorem State.setOp_panelsOut (s : State) (o : Op) : (s.setOp o).panelsOut = s.panelsOut := rfl
@[simp] theorem State.setOp_clustersOut (s : State) (o : Op) : (s.setOp o).clustersOut = s.clustersOut := rfl
@[simp] theorem State.setOp_stacksOut (s : State) (o : Op) : (s.setOp o).stacksOut = s.stacksOut := rfl
@[simp] theorem State.setOp_nibsOut (s : State) (o : Op) : (s.setOp o).nibsOut = s.nibsOut := rfl
@[simp] theorem State.setOp_modulesOut (s : State) (o : Op) : (s.setOp o).modulesOut = s.modulesOut := rfl
@[simp] theorem State.setOp_selfTest (s : State) (o : Op) : (s.setOp o).selfTest = s.selfTest := rfl
@[simp] theorem State.setOp_ports (s : State) (o : Op) : (s.setOp o).ports = s.ports := rfl
@[simp] theorem State.setOp_domSize (s : State) (o : Op) : (s.setOp o).domSize = s.domSize := rfl
@[simp] theorem State.setOp_domIndex (s : State) (o : Op) : (s.setOp o).domIndex = s.domIndex := rfl
@[simp] theorem State.setOp_topology (s : State) (o : Op) : (s.setOp o).topology = s.topology := rfl
@[simp] theorem State.setOp_lostPeers (s : State) (o : Op) : (s.setOp o).lostPeers = s.lostPeers := rfl
@[simp] theorem State.setOp_throttle (s : State) (o : Op) : (s.setOp o).throttle = s.throttle := rfl
@[simp] theorem State.setOp_throttleNext (s : State) (o : Op) : (s.setOp o).throttleNext = s.throttleNext := rfl
@[simp] theorem State.setOp_throttleAt (s : State) (o : Op) : (s.setOp o).throttleAt = s.throttleAt := rfl
@[simp] theorem State.setOp_rings (s : State) (o : Op) : (s.setOp o).rings = s.rings := rfl
@[simp] theorem State.setOp_outbox (s : State) (o : Op) : (s.setOp o).outbox = s.outbox := rfl
@[simp] theorem State.setOp_links (s : State) (o : Op) : (s.setOp o).links = s.links := rfl
@[simp] theorem State.setOp_escapeWait (s : State) (o : Op) : (s.setOp o).escapeWait = s.escapeWait := rfl
@[simp] theorem State.setOp_escaped (s : State) (o : Op) : (s.setOp o).escaped = s.escaped := rfl
@[simp] theorem State.setOp_mgmtErrs (s : State) (o : Op) : (s.setOp o).mgmtErrs = s.mgmtErrs := rfl
@[simp] theorem State.setOp_mgmtSeq (s : State) (o : Op) : (s.setOp o).mgmtSeq = s.mgmtSeq := rfl
@[simp] theorem State.setOp_unitTimes (s : State) (o : Op) : (s.setOp o).unitTimes = s.unitTimes := rfl
@[simp] theorem State.setOp_watchdogPeriod (s : State) (o : Op) : (s.setOp o).watchdogPeriod = s.watchdogPeriod := rfl
@[simp] theorem State.setOp_faultVec (s : State) (o : Op) : (s.setOp o).faultVec = s.faultVec := rfl
@[simp] theorem State.setOp_watchdogVec (s : State) (o : Op) : (s.setOp o).watchdogVec = s.watchdogVec := rfl
@[simp] theorem State.setOp_watchdog (s : State) (o : Op) : (s.setOp o).watchdog = s.watchdog := rfl
@[simp] theorem State.setOp_powerLimit (s : State) (o : Op) : (s.setOp o).powerLimit = s.powerLimit := rfl
@[simp] theorem State.setOp_rollback (s : State) (o : Op) : (s.setOp o).rollback = s.rollback := rfl
@[simp] theorem State.setOp_refused (s : State) (o : Op) : (s.setOp o).refused = s.refused := rfl
@[simp] theorem State.setOp_firmware (s : State) (o : Op) : (s.setOp o).firmware = s.firmware := rfl
@[simp] theorem State.setOp_freePages (s : State) (o : Op) : (s.setOp o).freePages = s.freePages := rfl
@[simp] theorem State.setOp_freeTables (s : State) (o : Op) : (s.setOp o).freeTables = s.freeTables := rfl
@[simp] theorem State.setOp_softErrors (s : State) (o : Op) : (s.setOp o).softErrors = s.softErrors := rfl
@[simp] theorem State.setOp_descheduled (s : State) (o : Op) : (s.setOp o).descheduled = s.descheduled := rfl

/-! `State.dropOp` changes `ops` only. -/

@[simp] theorem State.dropOp_clk (s : State) (n : Nat) : (s.dropOp n).clk = s.clk := rfl
@[simp] theorem State.dropOp_cur (s : State) (n : Nat) : (s.dropOp n).cur = s.cur := rfl
@[simp] theorem State.dropOp_agenda (s : State) (n : Nat) : (s.dropOp n).agenda = s.agenda := rfl
@[simp] theorem State.dropOp_free (s : State) (n : Nat) : (s.dropOp n).free = s.free := rfl
@[simp] theorem State.dropOp_nextId (s : State) (n : Nat) : (s.dropOp n).nextId = s.nextId := rfl
@[simp] theorem State.dropOp_powered (s : State) (n : Nat) : (s.dropOp n).powered = s.powered := rfl
@[simp] theorem State.dropOp_ready (s : State) (n : Nat) : (s.dropOp n).ready = s.ready := rfl
@[simp] theorem State.dropOp_shutdownCause (s : State) (n : Nat) : (s.dropOp n).shutdownCause = s.shutdownCause := rfl
@[simp] theorem State.dropOp_harts (s : State) (n : Nat) : (s.dropOp n).harts = s.harts := rfl
@[simp] theorem State.dropOp_saved (s : State) (n : Nat) : (s.dropOp n).saved = s.saved := rfl
@[simp] theorem State.dropOp_cores (s : State) (n : Nat) : (s.dropOp n).cores = s.cores := rfl
@[simp] theorem State.dropOp_panels (s : State) (n : Nat) : (s.dropOp n).panels = s.panels := rfl
@[simp] theorem State.dropOp_clusters (s : State) (n : Nat) : (s.dropOp n).clusters = s.clusters := rfl
@[simp] theorem State.dropOp_nibs (s : State) (n : Nat) : (s.dropOp n).nibs = s.nibs := rfl
@[simp] theorem State.dropOp_stations (s : State) (n : Nat) : (s.dropOp n).stations = s.stations := rfl
@[simp] theorem State.dropOp_procs (s : State) (n : Nat) : (s.dropOp n).procs = s.procs := rfl
@[simp] theorem State.dropOp_launches (s : State) (n : Nat) : (s.dropOp n).launches = s.launches := rfl
@[simp] theorem State.dropOp_lidSeq (s : State) (n : Nat) : (s.dropOp n).lidSeq = s.lidSeq := rfl
@[simp] theorem State.dropOp_tokens (s : State) (n : Nat) : (s.dropOp n).tokens = s.tokens := rfl
@[simp] theorem State.dropOp_forwards (s : State) (n : Nat) : (s.dropOp n).forwards = s.forwards := rfl
@[simp] theorem State.dropOp_regions (s : State) (n : Nat) : (s.dropOp n).regions = s.regions := rfl
@[simp] theorem State.dropOp_patterns (s : State) (n : Nat) : (s.dropOp n).patterns = s.patterns := rfl
@[simp] theorem State.dropOp_replies (s : State) (n : Nat) : (s.dropOp n).replies = s.replies := rfl
@[simp] theorem State.dropOp_spm (s : State) (n : Nat) : (s.dropOp n).spm = s.spm := rfl
@[simp] theorem State.dropOp_full (s : State) (n : Nat) : (s.dropOp n).full = s.full := rfl
@[simp] theorem State.dropOp_ext (s : State) (n : Nat) : (s.dropOp n).ext = s.ext := rfl
@[simp] theorem State.dropOp_nibMem (s : State) (n : Nat) : (s.dropOp n).nibMem = s.nibMem := rfl
@[simp] theorem State.dropOp_tblMem (s : State) (n : Nat) : (s.dropOp n).tblMem = s.tblMem := rfl
@[simp] theorem State.dropOp_tblWrites (s : State) (n : Nat) : (s.dropOp n).tblWrites = s.tblWrites := rfl
@[simp] theorem State.dropOp_opMem (s : State) (n : Nat) : (s.dropOp n).opMem = s.opMem := rfl
@[simp] theorem State.dropOp_accMem (s : State) (n : Nat) : (s.dropOp n).accMem = s.accMem := rfl
@[simp] theorem State.dropOp_imem (s : State) (n : Nat) : (s.dropOp n).imem = s.imem := rfl
@[simp] theorem State.dropOp_coresOut (s : State) (n : Nat) : (s.dropOp n).coresOut = s.coresOut := rfl
@[simp] theorem State.dropOp_panelsOut (s : State) (n : Nat) : (s.dropOp n).panelsOut = s.panelsOut := rfl
@[simp] theorem State.dropOp_clustersOut (s : State) (n : Nat) : (s.dropOp n).clustersOut = s.clustersOut := rfl
@[simp] theorem State.dropOp_stacksOut (s : State) (n : Nat) : (s.dropOp n).stacksOut = s.stacksOut := rfl
@[simp] theorem State.dropOp_nibsOut (s : State) (n : Nat) : (s.dropOp n).nibsOut = s.nibsOut := rfl
@[simp] theorem State.dropOp_modulesOut (s : State) (n : Nat) : (s.dropOp n).modulesOut = s.modulesOut := rfl
@[simp] theorem State.dropOp_selfTest (s : State) (n : Nat) : (s.dropOp n).selfTest = s.selfTest := rfl
@[simp] theorem State.dropOp_ports (s : State) (n : Nat) : (s.dropOp n).ports = s.ports := rfl
@[simp] theorem State.dropOp_domSize (s : State) (n : Nat) : (s.dropOp n).domSize = s.domSize := rfl
@[simp] theorem State.dropOp_domIndex (s : State) (n : Nat) : (s.dropOp n).domIndex = s.domIndex := rfl
@[simp] theorem State.dropOp_topology (s : State) (n : Nat) : (s.dropOp n).topology = s.topology := rfl
@[simp] theorem State.dropOp_lostPeers (s : State) (n : Nat) : (s.dropOp n).lostPeers = s.lostPeers := rfl
@[simp] theorem State.dropOp_throttle (s : State) (n : Nat) : (s.dropOp n).throttle = s.throttle := rfl
@[simp] theorem State.dropOp_throttleNext (s : State) (n : Nat) : (s.dropOp n).throttleNext = s.throttleNext := rfl
@[simp] theorem State.dropOp_throttleAt (s : State) (n : Nat) : (s.dropOp n).throttleAt = s.throttleAt := rfl
@[simp] theorem State.dropOp_rings (s : State) (n : Nat) : (s.dropOp n).rings = s.rings := rfl
@[simp] theorem State.dropOp_outbox (s : State) (n : Nat) : (s.dropOp n).outbox = s.outbox := rfl
@[simp] theorem State.dropOp_links (s : State) (n : Nat) : (s.dropOp n).links = s.links := rfl
@[simp] theorem State.dropOp_escapeWait (s : State) (n : Nat) : (s.dropOp n).escapeWait = s.escapeWait := rfl
@[simp] theorem State.dropOp_escaped (s : State) (n : Nat) : (s.dropOp n).escaped = s.escaped := rfl
@[simp] theorem State.dropOp_mgmtErrs (s : State) (n : Nat) : (s.dropOp n).mgmtErrs = s.mgmtErrs := rfl
@[simp] theorem State.dropOp_mgmtSeq (s : State) (n : Nat) : (s.dropOp n).mgmtSeq = s.mgmtSeq := rfl
@[simp] theorem State.dropOp_unitTimes (s : State) (n : Nat) : (s.dropOp n).unitTimes = s.unitTimes := rfl
@[simp] theorem State.dropOp_watchdogPeriod (s : State) (n : Nat) : (s.dropOp n).watchdogPeriod = s.watchdogPeriod := rfl
@[simp] theorem State.dropOp_faultVec (s : State) (n : Nat) : (s.dropOp n).faultVec = s.faultVec := rfl
@[simp] theorem State.dropOp_watchdogVec (s : State) (n : Nat) : (s.dropOp n).watchdogVec = s.watchdogVec := rfl
@[simp] theorem State.dropOp_watchdog (s : State) (n : Nat) : (s.dropOp n).watchdog = s.watchdog := rfl
@[simp] theorem State.dropOp_powerLimit (s : State) (n : Nat) : (s.dropOp n).powerLimit = s.powerLimit := rfl
@[simp] theorem State.dropOp_rollback (s : State) (n : Nat) : (s.dropOp n).rollback = s.rollback := rfl
@[simp] theorem State.dropOp_refused (s : State) (n : Nat) : (s.dropOp n).refused = s.refused := rfl
@[simp] theorem State.dropOp_firmware (s : State) (n : Nat) : (s.dropOp n).firmware = s.firmware := rfl
@[simp] theorem State.dropOp_freePages (s : State) (n : Nat) : (s.dropOp n).freePages = s.freePages := rfl
@[simp] theorem State.dropOp_freeTables (s : State) (n : Nat) : (s.dropOp n).freeTables = s.freeTables := rfl
@[simp] theorem State.dropOp_softErrors (s : State) (n : Nat) : (s.dropOp n).softErrors = s.softErrors := rfl
@[simp] theorem State.dropOp_descheduled (s : State) (n : Nat) : (s.dropOp n).descheduled = s.descheduled := rfl

/-! `State.post` changes `ops` and `nextId` only. -/

@[simp] theorem State.post_clk (s : State) (k : OpKind) (f : Op → Op) : (s.post k f).clk = s.clk := rfl
@[simp] theorem State.post_cur (s : State) (k : OpKind) (f : Op → Op) : (s.post k f).cur = s.cur := rfl
@[simp] theorem State.post_agenda (s : State) (k : OpKind) (f : Op → Op) : (s.post k f).agenda = s.agenda := rfl
@[simp] theorem State.post_free (s : State) (k : OpKind) (f : Op → Op) : (s.post k f).free = s.free := rfl
@[simp] theorem State.post_powered (s : State) (k : OpKind) (f : Op → Op) : (s.post k f).powered = s.powered := rfl
@[simp] theorem State.post_ready (s : State) (k : OpKind) (f : Op → Op) : (s.post k f).ready = s.ready := rfl
@[simp] theorem State.post_shutdownCause (s : State) (k : OpKind) (f : Op → Op) : (s.post k f).shutdownCause = s.shutdownCause := rfl
@[simp] theorem State.post_harts (s : State) (k : OpKind) (f : Op → Op) : (s.post k f).harts = s.harts := rfl
@[simp] theorem State.post_saved (s : State) (k : OpKind) (f : Op → Op) : (s.post k f).saved = s.saved := rfl
@[simp] theorem State.post_cores (s : State) (k : OpKind) (f : Op → Op) : (s.post k f).cores = s.cores := rfl
@[simp] theorem State.post_panels (s : State) (k : OpKind) (f : Op → Op) : (s.post k f).panels = s.panels := rfl
@[simp] theorem State.post_clusters (s : State) (k : OpKind) (f : Op → Op) : (s.post k f).clusters = s.clusters := rfl
@[simp] theorem State.post_nibs (s : State) (k : OpKind) (f : Op → Op) : (s.post k f).nibs = s.nibs := rfl
@[simp] theorem State.post_stations (s : State) (k : OpKind) (f : Op → Op) : (s.post k f).stations = s.stations := rfl
@[simp] theorem State.post_procs (s : State) (k : OpKind) (f : Op → Op) : (s.post k f).procs = s.procs := rfl
@[simp] theorem State.post_launches (s : State) (k : OpKind) (f : Op → Op) : (s.post k f).launches = s.launches := rfl
@[simp] theorem State.post_lidSeq (s : State) (k : OpKind) (f : Op → Op) : (s.post k f).lidSeq = s.lidSeq := rfl
@[simp] theorem State.post_tokens (s : State) (k : OpKind) (f : Op → Op) : (s.post k f).tokens = s.tokens := rfl
@[simp] theorem State.post_forwards (s : State) (k : OpKind) (f : Op → Op) : (s.post k f).forwards = s.forwards := rfl
@[simp] theorem State.post_regions (s : State) (k : OpKind) (f : Op → Op) : (s.post k f).regions = s.regions := rfl
@[simp] theorem State.post_patterns (s : State) (k : OpKind) (f : Op → Op) : (s.post k f).patterns = s.patterns := rfl
@[simp] theorem State.post_replies (s : State) (k : OpKind) (f : Op → Op) : (s.post k f).replies = s.replies := rfl
@[simp] theorem State.post_spm (s : State) (k : OpKind) (f : Op → Op) : (s.post k f).spm = s.spm := rfl
@[simp] theorem State.post_full (s : State) (k : OpKind) (f : Op → Op) : (s.post k f).full = s.full := rfl
@[simp] theorem State.post_ext (s : State) (k : OpKind) (f : Op → Op) : (s.post k f).ext = s.ext := rfl
@[simp] theorem State.post_nibMem (s : State) (k : OpKind) (f : Op → Op) : (s.post k f).nibMem = s.nibMem := rfl
@[simp] theorem State.post_tblMem (s : State) (k : OpKind) (f : Op → Op) : (s.post k f).tblMem = s.tblMem := rfl
@[simp] theorem State.post_tblWrites (s : State) (k : OpKind) (f : Op → Op) : (s.post k f).tblWrites = s.tblWrites := rfl
@[simp] theorem State.post_opMem (s : State) (k : OpKind) (f : Op → Op) : (s.post k f).opMem = s.opMem := rfl
@[simp] theorem State.post_accMem (s : State) (k : OpKind) (f : Op → Op) : (s.post k f).accMem = s.accMem := rfl
@[simp] theorem State.post_imem (s : State) (k : OpKind) (f : Op → Op) : (s.post k f).imem = s.imem := rfl
@[simp] theorem State.post_coresOut (s : State) (k : OpKind) (f : Op → Op) : (s.post k f).coresOut = s.coresOut := rfl
@[simp] theorem State.post_panelsOut (s : State) (k : OpKind) (f : Op → Op) : (s.post k f).panelsOut = s.panelsOut := rfl
@[simp] theorem State.post_clustersOut (s : State) (k : OpKind) (f : Op → Op) : (s.post k f).clustersOut = s.clustersOut := rfl
@[simp] theorem State.post_stacksOut (s : State) (k : OpKind) (f : Op → Op) : (s.post k f).stacksOut = s.stacksOut := rfl
@[simp] theorem State.post_nibsOut (s : State) (k : OpKind) (f : Op → Op) : (s.post k f).nibsOut = s.nibsOut := rfl
@[simp] theorem State.post_modulesOut (s : State) (k : OpKind) (f : Op → Op) : (s.post k f).modulesOut = s.modulesOut := rfl
@[simp] theorem State.post_selfTest (s : State) (k : OpKind) (f : Op → Op) : (s.post k f).selfTest = s.selfTest := rfl
@[simp] theorem State.post_ports (s : State) (k : OpKind) (f : Op → Op) : (s.post k f).ports = s.ports := rfl
@[simp] theorem State.post_domSize (s : State) (k : OpKind) (f : Op → Op) : (s.post k f).domSize = s.domSize := rfl
@[simp] theorem State.post_domIndex (s : State) (k : OpKind) (f : Op → Op) : (s.post k f).domIndex = s.domIndex := rfl
@[simp] theorem State.post_topology (s : State) (k : OpKind) (f : Op → Op) : (s.post k f).topology = s.topology := rfl
@[simp] theorem State.post_lostPeers (s : State) (k : OpKind) (f : Op → Op) : (s.post k f).lostPeers = s.lostPeers := rfl
@[simp] theorem State.post_throttle (s : State) (k : OpKind) (f : Op → Op) : (s.post k f).throttle = s.throttle := rfl
@[simp] theorem State.post_throttleNext (s : State) (k : OpKind) (f : Op → Op) : (s.post k f).throttleNext = s.throttleNext := rfl
@[simp] theorem State.post_throttleAt (s : State) (k : OpKind) (f : Op → Op) : (s.post k f).throttleAt = s.throttleAt := rfl
@[simp] theorem State.post_rings (s : State) (k : OpKind) (f : Op → Op) : (s.post k f).rings = s.rings := rfl
@[simp] theorem State.post_outbox (s : State) (k : OpKind) (f : Op → Op) : (s.post k f).outbox = s.outbox := rfl
@[simp] theorem State.post_links (s : State) (k : OpKind) (f : Op → Op) : (s.post k f).links = s.links := rfl
@[simp] theorem State.post_escapeWait (s : State) (k : OpKind) (f : Op → Op) : (s.post k f).escapeWait = s.escapeWait := rfl
@[simp] theorem State.post_escaped (s : State) (k : OpKind) (f : Op → Op) : (s.post k f).escaped = s.escaped := rfl
@[simp] theorem State.post_mgmtErrs (s : State) (k : OpKind) (f : Op → Op) : (s.post k f).mgmtErrs = s.mgmtErrs := rfl
@[simp] theorem State.post_mgmtSeq (s : State) (k : OpKind) (f : Op → Op) : (s.post k f).mgmtSeq = s.mgmtSeq := rfl
@[simp] theorem State.post_unitTimes (s : State) (k : OpKind) (f : Op → Op) : (s.post k f).unitTimes = s.unitTimes := rfl
@[simp] theorem State.post_watchdogPeriod (s : State) (k : OpKind) (f : Op → Op) : (s.post k f).watchdogPeriod = s.watchdogPeriod := rfl
@[simp] theorem State.post_faultVec (s : State) (k : OpKind) (f : Op → Op) : (s.post k f).faultVec = s.faultVec := rfl
@[simp] theorem State.post_watchdogVec (s : State) (k : OpKind) (f : Op → Op) : (s.post k f).watchdogVec = s.watchdogVec := rfl
@[simp] theorem State.post_watchdog (s : State) (k : OpKind) (f : Op → Op) : (s.post k f).watchdog = s.watchdog := rfl
@[simp] theorem State.post_powerLimit (s : State) (k : OpKind) (f : Op → Op) : (s.post k f).powerLimit = s.powerLimit := rfl
@[simp] theorem State.post_rollback (s : State) (k : OpKind) (f : Op → Op) : (s.post k f).rollback = s.rollback := rfl
@[simp] theorem State.post_refused (s : State) (k : OpKind) (f : Op → Op) : (s.post k f).refused = s.refused := rfl
@[simp] theorem State.post_firmware (s : State) (k : OpKind) (f : Op → Op) : (s.post k f).firmware = s.firmware := rfl
@[simp] theorem State.post_freePages (s : State) (k : OpKind) (f : Op → Op) : (s.post k f).freePages = s.freePages := rfl
@[simp] theorem State.post_freeTables (s : State) (k : OpKind) (f : Op → Op) : (s.post k f).freeTables = s.freeTables := rfl
@[simp] theorem State.post_softErrors (s : State) (k : OpKind) (f : Op → Op) : (s.post k f).softErrors = s.softErrors := rfl
@[simp] theorem State.post_descheduled (s : State) (k : OpKind) (f : Op → Op) : (s.post k f).descheduled = s.descheduled := rfl

/-! `State.writeSpm` changes `spm` and `softErrors` only. -/

@[simp] theorem State.writeSpm_clk (s : State) (a n v : Nat) : (s.writeSpm a n v).clk = s.clk := rfl
@[simp] theorem State.writeSpm_cur (s : State) (a n v : Nat) : (s.writeSpm a n v).cur = s.cur := rfl
@[simp] theorem State.writeSpm_agenda (s : State) (a n v : Nat) : (s.writeSpm a n v).agenda = s.agenda := rfl
@[simp] theorem State.writeSpm_free (s : State) (a n v : Nat) : (s.writeSpm a n v).free = s.free := rfl
@[simp] theorem State.writeSpm_nextId (s : State) (a n v : Nat) : (s.writeSpm a n v).nextId = s.nextId := rfl
@[simp] theorem State.writeSpm_powered (s : State) (a n v : Nat) : (s.writeSpm a n v).powered = s.powered := rfl
@[simp] theorem State.writeSpm_ready (s : State) (a n v : Nat) : (s.writeSpm a n v).ready = s.ready := rfl
@[simp] theorem State.writeSpm_shutdownCause (s : State) (a n v : Nat) : (s.writeSpm a n v).shutdownCause = s.shutdownCause := rfl
@[simp] theorem State.writeSpm_harts (s : State) (a n v : Nat) : (s.writeSpm a n v).harts = s.harts := rfl
@[simp] theorem State.writeSpm_saved (s : State) (a n v : Nat) : (s.writeSpm a n v).saved = s.saved := rfl
@[simp] theorem State.writeSpm_cores (s : State) (a n v : Nat) : (s.writeSpm a n v).cores = s.cores := rfl
@[simp] theorem State.writeSpm_panels (s : State) (a n v : Nat) : (s.writeSpm a n v).panels = s.panels := rfl
@[simp] theorem State.writeSpm_clusters (s : State) (a n v : Nat) : (s.writeSpm a n v).clusters = s.clusters := rfl
@[simp] theorem State.writeSpm_nibs (s : State) (a n v : Nat) : (s.writeSpm a n v).nibs = s.nibs := rfl
@[simp] theorem State.writeSpm_stations (s : State) (a n v : Nat) : (s.writeSpm a n v).stations = s.stations := rfl
@[simp] theorem State.writeSpm_procs (s : State) (a n v : Nat) : (s.writeSpm a n v).procs = s.procs := rfl
@[simp] theorem State.writeSpm_launches (s : State) (a n v : Nat) : (s.writeSpm a n v).launches = s.launches := rfl
@[simp] theorem State.writeSpm_lidSeq (s : State) (a n v : Nat) : (s.writeSpm a n v).lidSeq = s.lidSeq := rfl
@[simp] theorem State.writeSpm_tokens (s : State) (a n v : Nat) : (s.writeSpm a n v).tokens = s.tokens := rfl
@[simp] theorem State.writeSpm_ops (s : State) (a n v : Nat) : (s.writeSpm a n v).ops = s.ops := rfl
@[simp] theorem State.writeSpm_forwards (s : State) (a n v : Nat) : (s.writeSpm a n v).forwards = s.forwards := rfl
@[simp] theorem State.writeSpm_regions (s : State) (a n v : Nat) : (s.writeSpm a n v).regions = s.regions := rfl
@[simp] theorem State.writeSpm_patterns (s : State) (a n v : Nat) : (s.writeSpm a n v).patterns = s.patterns := rfl
@[simp] theorem State.writeSpm_replies (s : State) (a n v : Nat) : (s.writeSpm a n v).replies = s.replies := rfl
@[simp] theorem State.writeSpm_full (s : State) (a n v : Nat) : (s.writeSpm a n v).full = s.full := rfl
@[simp] theorem State.writeSpm_ext (s : State) (a n v : Nat) : (s.writeSpm a n v).ext = s.ext := rfl
@[simp] theorem State.writeSpm_nibMem (s : State) (a n v : Nat) : (s.writeSpm a n v).nibMem = s.nibMem := rfl
@[simp] theorem State.writeSpm_tblMem (s : State) (a n v : Nat) : (s.writeSpm a n v).tblMem = s.tblMem := rfl
@[simp] theorem State.writeSpm_tblWrites (s : State) (a n v : Nat) : (s.writeSpm a n v).tblWrites = s.tblWrites := rfl
@[simp] theorem State.writeSpm_opMem (s : State) (a n v : Nat) : (s.writeSpm a n v).opMem = s.opMem := rfl
@[simp] theorem State.writeSpm_accMem (s : State) (a n v : Nat) : (s.writeSpm a n v).accMem = s.accMem := rfl
@[simp] theorem State.writeSpm_imem (s : State) (a n v : Nat) : (s.writeSpm a n v).imem = s.imem := rfl
@[simp] theorem State.writeSpm_coresOut (s : State) (a n v : Nat) : (s.writeSpm a n v).coresOut = s.coresOut := rfl
@[simp] theorem State.writeSpm_panelsOut (s : State) (a n v : Nat) : (s.writeSpm a n v).panelsOut = s.panelsOut := rfl
@[simp] theorem State.writeSpm_clustersOut (s : State) (a n v : Nat) : (s.writeSpm a n v).clustersOut = s.clustersOut := rfl
@[simp] theorem State.writeSpm_stacksOut (s : State) (a n v : Nat) : (s.writeSpm a n v).stacksOut = s.stacksOut := rfl
@[simp] theorem State.writeSpm_nibsOut (s : State) (a n v : Nat) : (s.writeSpm a n v).nibsOut = s.nibsOut := rfl
@[simp] theorem State.writeSpm_modulesOut (s : State) (a n v : Nat) : (s.writeSpm a n v).modulesOut = s.modulesOut := rfl
@[simp] theorem State.writeSpm_selfTest (s : State) (a n v : Nat) : (s.writeSpm a n v).selfTest = s.selfTest := rfl
@[simp] theorem State.writeSpm_ports (s : State) (a n v : Nat) : (s.writeSpm a n v).ports = s.ports := rfl
@[simp] theorem State.writeSpm_domSize (s : State) (a n v : Nat) : (s.writeSpm a n v).domSize = s.domSize := rfl
@[simp] theorem State.writeSpm_domIndex (s : State) (a n v : Nat) : (s.writeSpm a n v).domIndex = s.domIndex := rfl
@[simp] theorem State.writeSpm_topology (s : State) (a n v : Nat) : (s.writeSpm a n v).topology = s.topology := rfl
@[simp] theorem State.writeSpm_lostPeers (s : State) (a n v : Nat) : (s.writeSpm a n v).lostPeers = s.lostPeers := rfl
@[simp] theorem State.writeSpm_throttle (s : State) (a n v : Nat) : (s.writeSpm a n v).throttle = s.throttle := rfl
@[simp] theorem State.writeSpm_throttleNext (s : State) (a n v : Nat) : (s.writeSpm a n v).throttleNext = s.throttleNext := rfl
@[simp] theorem State.writeSpm_throttleAt (s : State) (a n v : Nat) : (s.writeSpm a n v).throttleAt = s.throttleAt := rfl
@[simp] theorem State.writeSpm_rings (s : State) (a n v : Nat) : (s.writeSpm a n v).rings = s.rings := rfl
@[simp] theorem State.writeSpm_outbox (s : State) (a n v : Nat) : (s.writeSpm a n v).outbox = s.outbox := rfl
@[simp] theorem State.writeSpm_links (s : State) (a n v : Nat) : (s.writeSpm a n v).links = s.links := rfl
@[simp] theorem State.writeSpm_escapeWait (s : State) (a n v : Nat) : (s.writeSpm a n v).escapeWait = s.escapeWait := rfl
@[simp] theorem State.writeSpm_escaped (s : State) (a n v : Nat) : (s.writeSpm a n v).escaped = s.escaped := rfl
@[simp] theorem State.writeSpm_mgmtErrs (s : State) (a n v : Nat) : (s.writeSpm a n v).mgmtErrs = s.mgmtErrs := rfl
@[simp] theorem State.writeSpm_mgmtSeq (s : State) (a n v : Nat) : (s.writeSpm a n v).mgmtSeq = s.mgmtSeq := rfl
@[simp] theorem State.writeSpm_unitTimes (s : State) (a n v : Nat) : (s.writeSpm a n v).unitTimes = s.unitTimes := rfl
@[simp] theorem State.writeSpm_watchdogPeriod (s : State) (a n v : Nat) : (s.writeSpm a n v).watchdogPeriod = s.watchdogPeriod := rfl
@[simp] theorem State.writeSpm_faultVec (s : State) (a n v : Nat) : (s.writeSpm a n v).faultVec = s.faultVec := rfl
@[simp] theorem State.writeSpm_watchdogVec (s : State) (a n v : Nat) : (s.writeSpm a n v).watchdogVec = s.watchdogVec := rfl
@[simp] theorem State.writeSpm_watchdog (s : State) (a n v : Nat) : (s.writeSpm a n v).watchdog = s.watchdog := rfl
@[simp] theorem State.writeSpm_powerLimit (s : State) (a n v : Nat) : (s.writeSpm a n v).powerLimit = s.powerLimit := rfl
@[simp] theorem State.writeSpm_rollback (s : State) (a n v : Nat) : (s.writeSpm a n v).rollback = s.rollback := rfl
@[simp] theorem State.writeSpm_refused (s : State) (a n v : Nat) : (s.writeSpm a n v).refused = s.refused := rfl
@[simp] theorem State.writeSpm_firmware (s : State) (a n v : Nat) : (s.writeSpm a n v).firmware = s.firmware := rfl
@[simp] theorem State.writeSpm_freePages (s : State) (a n v : Nat) : (s.writeSpm a n v).freePages = s.freePages := rfl
@[simp] theorem State.writeSpm_freeTables (s : State) (a n v : Nat) : (s.writeSpm a n v).freeTables = s.freeTables := rfl
@[simp] theorem State.writeSpm_descheduled (s : State) (a n v : Nat) : (s.writeSpm a n v).descheduled = s.descheduled := rfl

/-! `State.setFull` changes `full` only. -/

@[simp] theorem State.setFull_clk (s : State) (a : Nat) (b : Bool) : (s.setFull a b).clk = s.clk := rfl
@[simp] theorem State.setFull_cur (s : State) (a : Nat) (b : Bool) : (s.setFull a b).cur = s.cur := rfl
@[simp] theorem State.setFull_agenda (s : State) (a : Nat) (b : Bool) : (s.setFull a b).agenda = s.agenda := rfl
@[simp] theorem State.setFull_free (s : State) (a : Nat) (b : Bool) : (s.setFull a b).free = s.free := rfl
@[simp] theorem State.setFull_nextId (s : State) (a : Nat) (b : Bool) : (s.setFull a b).nextId = s.nextId := rfl
@[simp] theorem State.setFull_powered (s : State) (a : Nat) (b : Bool) : (s.setFull a b).powered = s.powered := rfl
@[simp] theorem State.setFull_ready (s : State) (a : Nat) (b : Bool) : (s.setFull a b).ready = s.ready := rfl
@[simp] theorem State.setFull_shutdownCause (s : State) (a : Nat) (b : Bool) : (s.setFull a b).shutdownCause = s.shutdownCause := rfl
@[simp] theorem State.setFull_harts (s : State) (a : Nat) (b : Bool) : (s.setFull a b).harts = s.harts := rfl
@[simp] theorem State.setFull_saved (s : State) (a : Nat) (b : Bool) : (s.setFull a b).saved = s.saved := rfl
@[simp] theorem State.setFull_cores (s : State) (a : Nat) (b : Bool) : (s.setFull a b).cores = s.cores := rfl
@[simp] theorem State.setFull_panels (s : State) (a : Nat) (b : Bool) : (s.setFull a b).panels = s.panels := rfl
@[simp] theorem State.setFull_clusters (s : State) (a : Nat) (b : Bool) : (s.setFull a b).clusters = s.clusters := rfl
@[simp] theorem State.setFull_nibs (s : State) (a : Nat) (b : Bool) : (s.setFull a b).nibs = s.nibs := rfl
@[simp] theorem State.setFull_stations (s : State) (a : Nat) (b : Bool) : (s.setFull a b).stations = s.stations := rfl
@[simp] theorem State.setFull_procs (s : State) (a : Nat) (b : Bool) : (s.setFull a b).procs = s.procs := rfl
@[simp] theorem State.setFull_launches (s : State) (a : Nat) (b : Bool) : (s.setFull a b).launches = s.launches := rfl
@[simp] theorem State.setFull_lidSeq (s : State) (a : Nat) (b : Bool) : (s.setFull a b).lidSeq = s.lidSeq := rfl
@[simp] theorem State.setFull_tokens (s : State) (a : Nat) (b : Bool) : (s.setFull a b).tokens = s.tokens := rfl
@[simp] theorem State.setFull_ops (s : State) (a : Nat) (b : Bool) : (s.setFull a b).ops = s.ops := rfl
@[simp] theorem State.setFull_forwards (s : State) (a : Nat) (b : Bool) : (s.setFull a b).forwards = s.forwards := rfl
@[simp] theorem State.setFull_regions (s : State) (a : Nat) (b : Bool) : (s.setFull a b).regions = s.regions := rfl
@[simp] theorem State.setFull_patterns (s : State) (a : Nat) (b : Bool) : (s.setFull a b).patterns = s.patterns := rfl
@[simp] theorem State.setFull_replies (s : State) (a : Nat) (b : Bool) : (s.setFull a b).replies = s.replies := rfl
@[simp] theorem State.setFull_spm (s : State) (a : Nat) (b : Bool) : (s.setFull a b).spm = s.spm := rfl
@[simp] theorem State.setFull_ext (s : State) (a : Nat) (b : Bool) : (s.setFull a b).ext = s.ext := rfl
@[simp] theorem State.setFull_nibMem (s : State) (a : Nat) (b : Bool) : (s.setFull a b).nibMem = s.nibMem := rfl
@[simp] theorem State.setFull_tblMem (s : State) (a : Nat) (b : Bool) : (s.setFull a b).tblMem = s.tblMem := rfl
@[simp] theorem State.setFull_tblWrites (s : State) (a : Nat) (b : Bool) : (s.setFull a b).tblWrites = s.tblWrites := rfl
@[simp] theorem State.setFull_opMem (s : State) (a : Nat) (b : Bool) : (s.setFull a b).opMem = s.opMem := rfl
@[simp] theorem State.setFull_accMem (s : State) (a : Nat) (b : Bool) : (s.setFull a b).accMem = s.accMem := rfl
@[simp] theorem State.setFull_imem (s : State) (a : Nat) (b : Bool) : (s.setFull a b).imem = s.imem := rfl
@[simp] theorem State.setFull_coresOut (s : State) (a : Nat) (b : Bool) : (s.setFull a b).coresOut = s.coresOut := rfl
@[simp] theorem State.setFull_panelsOut (s : State) (a : Nat) (b : Bool) : (s.setFull a b).panelsOut = s.panelsOut := rfl
@[simp] theorem State.setFull_clustersOut (s : State) (a : Nat) (b : Bool) : (s.setFull a b).clustersOut = s.clustersOut := rfl
@[simp] theorem State.setFull_stacksOut (s : State) (a : Nat) (b : Bool) : (s.setFull a b).stacksOut = s.stacksOut := rfl
@[simp] theorem State.setFull_nibsOut (s : State) (a : Nat) (b : Bool) : (s.setFull a b).nibsOut = s.nibsOut := rfl
@[simp] theorem State.setFull_modulesOut (s : State) (a : Nat) (b : Bool) : (s.setFull a b).modulesOut = s.modulesOut := rfl
@[simp] theorem State.setFull_selfTest (s : State) (a : Nat) (b : Bool) : (s.setFull a b).selfTest = s.selfTest := rfl
@[simp] theorem State.setFull_ports (s : State) (a : Nat) (b : Bool) : (s.setFull a b).ports = s.ports := rfl
@[simp] theorem State.setFull_domSize (s : State) (a : Nat) (b : Bool) : (s.setFull a b).domSize = s.domSize := rfl
@[simp] theorem State.setFull_domIndex (s : State) (a : Nat) (b : Bool) : (s.setFull a b).domIndex = s.domIndex := rfl
@[simp] theorem State.setFull_topology (s : State) (a : Nat) (b : Bool) : (s.setFull a b).topology = s.topology := rfl
@[simp] theorem State.setFull_lostPeers (s : State) (a : Nat) (b : Bool) : (s.setFull a b).lostPeers = s.lostPeers := rfl
@[simp] theorem State.setFull_throttle (s : State) (a : Nat) (b : Bool) : (s.setFull a b).throttle = s.throttle := rfl
@[simp] theorem State.setFull_throttleNext (s : State) (a : Nat) (b : Bool) : (s.setFull a b).throttleNext = s.throttleNext := rfl
@[simp] theorem State.setFull_throttleAt (s : State) (a : Nat) (b : Bool) : (s.setFull a b).throttleAt = s.throttleAt := rfl
@[simp] theorem State.setFull_rings (s : State) (a : Nat) (b : Bool) : (s.setFull a b).rings = s.rings := rfl
@[simp] theorem State.setFull_outbox (s : State) (a : Nat) (b : Bool) : (s.setFull a b).outbox = s.outbox := rfl
@[simp] theorem State.setFull_links (s : State) (a : Nat) (b : Bool) : (s.setFull a b).links = s.links := rfl
@[simp] theorem State.setFull_escapeWait (s : State) (a : Nat) (b : Bool) : (s.setFull a b).escapeWait = s.escapeWait := rfl
@[simp] theorem State.setFull_escaped (s : State) (a : Nat) (b : Bool) : (s.setFull a b).escaped = s.escaped := rfl
@[simp] theorem State.setFull_mgmtErrs (s : State) (a : Nat) (b : Bool) : (s.setFull a b).mgmtErrs = s.mgmtErrs := rfl
@[simp] theorem State.setFull_mgmtSeq (s : State) (a : Nat) (b : Bool) : (s.setFull a b).mgmtSeq = s.mgmtSeq := rfl
@[simp] theorem State.setFull_unitTimes (s : State) (a : Nat) (b : Bool) : (s.setFull a b).unitTimes = s.unitTimes := rfl
@[simp] theorem State.setFull_watchdogPeriod (s : State) (a : Nat) (b : Bool) : (s.setFull a b).watchdogPeriod = s.watchdogPeriod := rfl
@[simp] theorem State.setFull_faultVec (s : State) (a : Nat) (b : Bool) : (s.setFull a b).faultVec = s.faultVec := rfl
@[simp] theorem State.setFull_watchdogVec (s : State) (a : Nat) (b : Bool) : (s.setFull a b).watchdogVec = s.watchdogVec := rfl
@[simp] theorem State.setFull_watchdog (s : State) (a : Nat) (b : Bool) : (s.setFull a b).watchdog = s.watchdog := rfl
@[simp] theorem State.setFull_powerLimit (s : State) (a : Nat) (b : Bool) : (s.setFull a b).powerLimit = s.powerLimit := rfl
@[simp] theorem State.setFull_rollback (s : State) (a : Nat) (b : Bool) : (s.setFull a b).rollback = s.rollback := rfl
@[simp] theorem State.setFull_refused (s : State) (a : Nat) (b : Bool) : (s.setFull a b).refused = s.refused := rfl
@[simp] theorem State.setFull_firmware (s : State) (a : Nat) (b : Bool) : (s.setFull a b).firmware = s.firmware := rfl
@[simp] theorem State.setFull_freePages (s : State) (a : Nat) (b : Bool) : (s.setFull a b).freePages = s.freePages := rfl
@[simp] theorem State.setFull_freeTables (s : State) (a : Nat) (b : Bool) : (s.setFull a b).freeTables = s.freeTables := rfl
@[simp] theorem State.setFull_softErrors (s : State) (a : Nat) (b : Bool) : (s.setFull a b).softErrors = s.softErrors := rfl
@[simp] theorem State.setFull_descheduled (s : State) (a : Nat) (b : Bool) : (s.setFull a b).descheduled = s.descheduled := rfl

/-! `State.interrupt` changes `outbox` only. -/

@[simp] theorem State.interrupt_clk (s : State) (v : Nat) (w0 w1 : Reg64) : (s.interrupt v w0 w1).clk = s.clk := rfl
@[simp] theorem State.interrupt_cur (s : State) (v : Nat) (w0 w1 : Reg64) : (s.interrupt v w0 w1).cur = s.cur := rfl
@[simp] theorem State.interrupt_agenda (s : State) (v : Nat) (w0 w1 : Reg64) : (s.interrupt v w0 w1).agenda = s.agenda := rfl
@[simp] theorem State.interrupt_free (s : State) (v : Nat) (w0 w1 : Reg64) : (s.interrupt v w0 w1).free = s.free := rfl
@[simp] theorem State.interrupt_nextId (s : State) (v : Nat) (w0 w1 : Reg64) : (s.interrupt v w0 w1).nextId = s.nextId := rfl
@[simp] theorem State.interrupt_powered (s : State) (v : Nat) (w0 w1 : Reg64) : (s.interrupt v w0 w1).powered = s.powered := rfl
@[simp] theorem State.interrupt_ready (s : State) (v : Nat) (w0 w1 : Reg64) : (s.interrupt v w0 w1).ready = s.ready := rfl
@[simp] theorem State.interrupt_shutdownCause (s : State) (v : Nat) (w0 w1 : Reg64) : (s.interrupt v w0 w1).shutdownCause = s.shutdownCause := rfl
@[simp] theorem State.interrupt_harts (s : State) (v : Nat) (w0 w1 : Reg64) : (s.interrupt v w0 w1).harts = s.harts := rfl
@[simp] theorem State.interrupt_saved (s : State) (v : Nat) (w0 w1 : Reg64) : (s.interrupt v w0 w1).saved = s.saved := rfl
@[simp] theorem State.interrupt_cores (s : State) (v : Nat) (w0 w1 : Reg64) : (s.interrupt v w0 w1).cores = s.cores := rfl
@[simp] theorem State.interrupt_panels (s : State) (v : Nat) (w0 w1 : Reg64) : (s.interrupt v w0 w1).panels = s.panels := rfl
@[simp] theorem State.interrupt_clusters (s : State) (v : Nat) (w0 w1 : Reg64) : (s.interrupt v w0 w1).clusters = s.clusters := rfl
@[simp] theorem State.interrupt_nibs (s : State) (v : Nat) (w0 w1 : Reg64) : (s.interrupt v w0 w1).nibs = s.nibs := rfl
@[simp] theorem State.interrupt_stations (s : State) (v : Nat) (w0 w1 : Reg64) : (s.interrupt v w0 w1).stations = s.stations := rfl
@[simp] theorem State.interrupt_procs (s : State) (v : Nat) (w0 w1 : Reg64) : (s.interrupt v w0 w1).procs = s.procs := rfl
@[simp] theorem State.interrupt_launches (s : State) (v : Nat) (w0 w1 : Reg64) : (s.interrupt v w0 w1).launches = s.launches := rfl
@[simp] theorem State.interrupt_lidSeq (s : State) (v : Nat) (w0 w1 : Reg64) : (s.interrupt v w0 w1).lidSeq = s.lidSeq := rfl
@[simp] theorem State.interrupt_tokens (s : State) (v : Nat) (w0 w1 : Reg64) : (s.interrupt v w0 w1).tokens = s.tokens := rfl
@[simp] theorem State.interrupt_ops (s : State) (v : Nat) (w0 w1 : Reg64) : (s.interrupt v w0 w1).ops = s.ops := rfl
@[simp] theorem State.interrupt_forwards (s : State) (v : Nat) (w0 w1 : Reg64) : (s.interrupt v w0 w1).forwards = s.forwards := rfl
@[simp] theorem State.interrupt_regions (s : State) (v : Nat) (w0 w1 : Reg64) : (s.interrupt v w0 w1).regions = s.regions := rfl
@[simp] theorem State.interrupt_patterns (s : State) (v : Nat) (w0 w1 : Reg64) : (s.interrupt v w0 w1).patterns = s.patterns := rfl
@[simp] theorem State.interrupt_replies (s : State) (v : Nat) (w0 w1 : Reg64) : (s.interrupt v w0 w1).replies = s.replies := rfl
@[simp] theorem State.interrupt_spm (s : State) (v : Nat) (w0 w1 : Reg64) : (s.interrupt v w0 w1).spm = s.spm := rfl
@[simp] theorem State.interrupt_full (s : State) (v : Nat) (w0 w1 : Reg64) : (s.interrupt v w0 w1).full = s.full := rfl
@[simp] theorem State.interrupt_ext (s : State) (v : Nat) (w0 w1 : Reg64) : (s.interrupt v w0 w1).ext = s.ext := rfl
@[simp] theorem State.interrupt_nibMem (s : State) (v : Nat) (w0 w1 : Reg64) : (s.interrupt v w0 w1).nibMem = s.nibMem := rfl
@[simp] theorem State.interrupt_tblMem (s : State) (v : Nat) (w0 w1 : Reg64) : (s.interrupt v w0 w1).tblMem = s.tblMem := rfl
@[simp] theorem State.interrupt_tblWrites (s : State) (v : Nat) (w0 w1 : Reg64) : (s.interrupt v w0 w1).tblWrites = s.tblWrites := rfl
@[simp] theorem State.interrupt_opMem (s : State) (v : Nat) (w0 w1 : Reg64) : (s.interrupt v w0 w1).opMem = s.opMem := rfl
@[simp] theorem State.interrupt_accMem (s : State) (v : Nat) (w0 w1 : Reg64) : (s.interrupt v w0 w1).accMem = s.accMem := rfl
@[simp] theorem State.interrupt_imem (s : State) (v : Nat) (w0 w1 : Reg64) : (s.interrupt v w0 w1).imem = s.imem := rfl
@[simp] theorem State.interrupt_coresOut (s : State) (v : Nat) (w0 w1 : Reg64) : (s.interrupt v w0 w1).coresOut = s.coresOut := rfl
@[simp] theorem State.interrupt_panelsOut (s : State) (v : Nat) (w0 w1 : Reg64) : (s.interrupt v w0 w1).panelsOut = s.panelsOut := rfl
@[simp] theorem State.interrupt_clustersOut (s : State) (v : Nat) (w0 w1 : Reg64) : (s.interrupt v w0 w1).clustersOut = s.clustersOut := rfl
@[simp] theorem State.interrupt_stacksOut (s : State) (v : Nat) (w0 w1 : Reg64) : (s.interrupt v w0 w1).stacksOut = s.stacksOut := rfl
@[simp] theorem State.interrupt_nibsOut (s : State) (v : Nat) (w0 w1 : Reg64) : (s.interrupt v w0 w1).nibsOut = s.nibsOut := rfl
@[simp] theorem State.interrupt_modulesOut (s : State) (v : Nat) (w0 w1 : Reg64) : (s.interrupt v w0 w1).modulesOut = s.modulesOut := rfl
@[simp] theorem State.interrupt_selfTest (s : State) (v : Nat) (w0 w1 : Reg64) : (s.interrupt v w0 w1).selfTest = s.selfTest := rfl
@[simp] theorem State.interrupt_ports (s : State) (v : Nat) (w0 w1 : Reg64) : (s.interrupt v w0 w1).ports = s.ports := rfl
@[simp] theorem State.interrupt_domSize (s : State) (v : Nat) (w0 w1 : Reg64) : (s.interrupt v w0 w1).domSize = s.domSize := rfl
@[simp] theorem State.interrupt_domIndex (s : State) (v : Nat) (w0 w1 : Reg64) : (s.interrupt v w0 w1).domIndex = s.domIndex := rfl
@[simp] theorem State.interrupt_topology (s : State) (v : Nat) (w0 w1 : Reg64) : (s.interrupt v w0 w1).topology = s.topology := rfl
@[simp] theorem State.interrupt_lostPeers (s : State) (v : Nat) (w0 w1 : Reg64) : (s.interrupt v w0 w1).lostPeers = s.lostPeers := rfl
@[simp] theorem State.interrupt_throttle (s : State) (v : Nat) (w0 w1 : Reg64) : (s.interrupt v w0 w1).throttle = s.throttle := rfl
@[simp] theorem State.interrupt_throttleNext (s : State) (v : Nat) (w0 w1 : Reg64) : (s.interrupt v w0 w1).throttleNext = s.throttleNext := rfl
@[simp] theorem State.interrupt_throttleAt (s : State) (v : Nat) (w0 w1 : Reg64) : (s.interrupt v w0 w1).throttleAt = s.throttleAt := rfl
@[simp] theorem State.interrupt_rings (s : State) (v : Nat) (w0 w1 : Reg64) : (s.interrupt v w0 w1).rings = s.rings := rfl
@[simp] theorem State.interrupt_links (s : State) (v : Nat) (w0 w1 : Reg64) : (s.interrupt v w0 w1).links = s.links := rfl
@[simp] theorem State.interrupt_escapeWait (s : State) (v : Nat) (w0 w1 : Reg64) : (s.interrupt v w0 w1).escapeWait = s.escapeWait := rfl
@[simp] theorem State.interrupt_escaped (s : State) (v : Nat) (w0 w1 : Reg64) : (s.interrupt v w0 w1).escaped = s.escaped := rfl
@[simp] theorem State.interrupt_mgmtErrs (s : State) (v : Nat) (w0 w1 : Reg64) : (s.interrupt v w0 w1).mgmtErrs = s.mgmtErrs := rfl
@[simp] theorem State.interrupt_mgmtSeq (s : State) (v : Nat) (w0 w1 : Reg64) : (s.interrupt v w0 w1).mgmtSeq = s.mgmtSeq := rfl
@[simp] theorem State.interrupt_unitTimes (s : State) (v : Nat) (w0 w1 : Reg64) : (s.interrupt v w0 w1).unitTimes = s.unitTimes := rfl
@[simp] theorem State.interrupt_watchdogPeriod (s : State) (v : Nat) (w0 w1 : Reg64) : (s.interrupt v w0 w1).watchdogPeriod = s.watchdogPeriod := rfl
@[simp] theorem State.interrupt_faultVec (s : State) (v : Nat) (w0 w1 : Reg64) : (s.interrupt v w0 w1).faultVec = s.faultVec := rfl
@[simp] theorem State.interrupt_watchdogVec (s : State) (v : Nat) (w0 w1 : Reg64) : (s.interrupt v w0 w1).watchdogVec = s.watchdogVec := rfl
@[simp] theorem State.interrupt_watchdog (s : State) (v : Nat) (w0 w1 : Reg64) : (s.interrupt v w0 w1).watchdog = s.watchdog := rfl
@[simp] theorem State.interrupt_powerLimit (s : State) (v : Nat) (w0 w1 : Reg64) : (s.interrupt v w0 w1).powerLimit = s.powerLimit := rfl
@[simp] theorem State.interrupt_rollback (s : State) (v : Nat) (w0 w1 : Reg64) : (s.interrupt v w0 w1).rollback = s.rollback := rfl
@[simp] theorem State.interrupt_refused (s : State) (v : Nat) (w0 w1 : Reg64) : (s.interrupt v w0 w1).refused = s.refused := rfl
@[simp] theorem State.interrupt_firmware (s : State) (v : Nat) (w0 w1 : Reg64) : (s.interrupt v w0 w1).firmware = s.firmware := rfl
@[simp] theorem State.interrupt_freePages (s : State) (v : Nat) (w0 w1 : Reg64) : (s.interrupt v w0 w1).freePages = s.freePages := rfl
@[simp] theorem State.interrupt_freeTables (s : State) (v : Nat) (w0 w1 : Reg64) : (s.interrupt v w0 w1).freeTables = s.freeTables := rfl
@[simp] theorem State.interrupt_softErrors (s : State) (v : Nat) (w0 w1 : Reg64) : (s.interrupt v w0 w1).softErrors = s.softErrors := rfl
@[simp] theorem State.interrupt_descheduled (s : State) (v : Nat) (w0 w1 : Reg64) : (s.interrupt v w0 w1).descheduled = s.descheduled := rfl

end Sys2Proof.Machine
end

