-- ==== Sys2Proof/Laws/Ops.lean ====
section
/-! SUPPORT. What the shared operations of Ops.lean do: registers read after a write, operations posted, full/empty words, taking a
trap in each kind of hart, and the return from one. -/

namespace Sys2Proof.Machine

/-! ## Registers (R64) -/

@[simp] theorem Slot.getG_zero (x : Slot) : x.getG 0 = 0 := rfl
@[simp] theorem Slot.putG_zero (x : Slot) (v : Reg64) : x.putG 0 v = x := rfl
@[simp] theorem Slot.getK_zero (x : Slot) : x.getK 0 = 2 ^ 64 - 1 := rfl
@[simp] theorem Slot.putK_zero (x : Slot) (v : Nat) : x.putK 0 v = x := rfl

/-- A storage register holds what was written to it. -/
theorem Slot.getG_putG_self (x : Slot) (n : Nat) (v : Reg64) (h : x.win.wf = true) (hn : n ≠ 0) : (x.putG n v).getG n = v := by
  have hv : v.toNat % 256 ^ 8 = v.toNat := Nat.mod_eq_of_lt v.isLt
  simp only [Slot.getG, Slot.putG, if_neg hn, Slot.gOff]
  rw [Mem.read_write_self _ _ _ _ h, hv]
  simp [r64]

/-- Another storage register keeps its value. -/
theorem Slot.getG_putG_ne (x : Slot) (n m : Nat) (v : Reg64) (h : x.win.wf = true) (hm : m ≠ n) : (x.putG n v).getG m = x.getG m := by
  by_cases hn : n = 0
  · simp [hn]
  · by_cases hz : m = 0
    · simp [hz]
    · simp only [Slot.getG, Slot.putG, if_neg hn, if_neg hz, Slot.gOff]
      rw [Mem.read_write_ne _ _ _ _ _ _ h (by omega)]

/-- A mask register holds the 8 bytes written to it. -/
theorem Slot.getK_putK_self (x : Slot) (n v : Nat) (h : x.win.wf = true) (hn : n ≠ 0) : (x.putK n v).getK n = v % 256 ^ 8 := by
  simp only [Slot.getK, Slot.putK, if_neg hn, Slot.kOff]
  rw [Mem.read_write_self _ _ _ _ h]

/-- A storage vector register holds the 256 bytes written to it. -/
theorem Slot.getV_putV_self (x : Slot) (n v : Nat) (h : x.win.wf = true) : (x.putV n v).getV n = v % 256 ^ 256 := by
  simp only [Slot.getV, Slot.putV, Slot.vOff]
  rw [Mem.read_write_self _ _ _ _ h]

/-- Register writes keep the window's canonical form. -/
theorem Slot.wf_putG (x : Slot) (n : Nat) (v : Reg64) (h : x.win.wf = true) : (x.putG n v).win.wf = true := by
  unfold Slot.putG
  split
  · exact h
  · exact Mem.wf_write _ _ _ _ h

theorem Slot.wf_putK (x : Slot) (n v : Nat) (h : x.win.wf = true) : (x.putK n v).win.wf = true := by
  unfold Slot.putK
  split
  · exact h
  · exact Mem.wf_write _ _ _ _ h

theorem Slot.wf_putV (x : Slot) (n v : Nat) (h : x.win.wf = true) : (x.putV n v).win.wf = true := by
  have e : (x.putV n v).win = Mem.write x.win (x.vOff n) 256 v := by rw [Slot.putV]
  rw [e]
  exact Mem.wf_write x.win (x.vOff n) 256 v h

theorem Slot.putLn_inside (x : Slot) (v : Reg64) (hi : x.lnInside = true) : x.putLn v = { x with win := Mem.write x.win (x.gOff 54) 8 v.toNat, bad := x.mended (x.gOff 54) 8 } := by
  rw [Slot.putLn, if_pos hi]

theorem Slot.putLn_outside (x : Slot) (v : Reg64) (hi : x.lnInside = false) : x.putLn v = { x with link := v } := by
  simp [Slot.putLn, hi]

@[simp] theorem Slot.lnInside_putLn (x : Slot) (v : Reg64) : (x.putLn v).lnInside = x.lnInside := by
  cases hi : x.lnInside
  · rw [Slot.putLn_outside x v hi]; exact hi
  · rw [Slot.putLn_inside x v hi]; exact hi

/-- The link reference holds what was written to it, inside the window and outside it. -/
theorem Slot.getLn_putLn (x : Slot) (v : Reg64) (h : x.win.wf = true) : (x.putLn v).getLn = v := by
  have hv : v.toNat % 256 ^ 8 = v.toNat := Nat.mod_eq_of_lt v.isLt
  rw [Slot.getLn, Slot.lnInside_putLn]
  cases hi : x.lnInside
  · rw [Slot.putLn_outside x v hi]; rfl
  · rw [Slot.putLn_inside x v hi]
    have g : r64 (Mem.read (Mem.write x.win (x.gOff 54) 8 v.toNat) (x.gOff 54) 8) = v := by
      rw [Mem.read_write_self _ _ _ _ h, hv]
      simp [r64]
    simpa [Slot.gOff] using g

/-! ## Operations in flight -/

@[simp] theorem State.post_nextId (s : State) (k : OpKind) (f : Op → Op) : (s.post k f).nextId = s.nextId + 1 := rfl
@[simp] theorem State.post_slot (s : State) (k : OpKind) (f : Op → Op) (h : Nat) : (s.post k f).slot h = s.slot h := rfl

/-- Posting appends one operation and leaves those in flight as they are. -/
theorem State.post_ops (s : State) (k : OpKind) (f : Op → Op) : ∃ o, (s.post k f).ops = s.ops ++ [o] := ⟨_, rfl⟩

@[simp] theorem State.pendOn_zero (s : State) (id : Nat) : s.pendOn 0 id = s := rfl
@[simp] theorem State.pendOn_ops (s : State) (t id : Nat) : (s.pendOn t id).ops = s.ops := by
  unfold State.pendOn
  split <;> rfl

/-- The result register of a posted operation is pending on it. -/
theorem State.pendOn_me (s : State) (t id : Nat) (h : t ≠ 0) : (s.pendOn t id).me.pend = s.me.pend ++ [(s.me.gOff t, id)] := by
  simp [State.pendOn, h]

/-! ## Full/empty words (R235) -/

theorem insertNat_contains (a x : Nat) (l : List Nat) : x ∈ insertNat a l ↔ x = a ∨ x ∈ l := by
  induction l with
  | nil => simp [insertNat]
  | cons b l ih =>
    simp only [insertNat]
    split
    · simp
    · split
      · next h => subst h; simp
      · simp only [List.mem_cons, ih]; tauto

@[simp] theorem State.isFull_setFull_self (s : State) (a : Nat) (b : Bool) : (s.setFull a b).isFull a = b := by
  cases b <;> simp [State.setFull, State.isFull, insertNat_contains]

theorem State.isFull_setFull_ne (s : State) (a x : Nat) (b : Bool) (h : x ≠ a) : (s.setFull a b).isFull x = s.isFull x := by
  cases b <;> simp [State.setFull, State.isFull, insertNat_contains, h]

/-! ## Traps (R171, R172, R280) -/

/-- A task slot with a handler that is in none enters it. -/
theorem State.deliver_enter (s : State) (h c : Nat) (v pc : Reg64) (iw : Word) (ht : isTask h = true) (hx : (s.slot h).xvec ≠ 0) (hr : (s.slot h).tr = false) :
    s.deliver h c v pc iw = s.setSlot h ((s.slot h).enterTrap c v pc) := by
  simp only [State.deliver]
  rw [if_pos ht, if_pos ⟨hx, by simp [hr]⟩]

/-- A task slot without a handler, or in one, is recorded and begins to retire. -/
theorem State.deliver_retire (s : State) (h c : Nat) (v pc : Reg64) (iw : Word) (ht : isTask h = true) (hx : (s.slot h).xvec = 0 ∨ (s.slot h).tr = true) :
    s.deliver h c v pc iw = (s.record (clusterOf h) ((s.slot h).recordOf h 1 c v pc)).setSlot h ((s.slot h).beginRetire s.clk) := by
  rcases hx with hx | hx <;> simp [State.deliver, ht, hx]

/-- A control core's trap is recorded. -/
theorem State.deliver_control (s : State) (h c : Nat) (v pc : Reg64) (iw : Word) (ht : isTask h = false) (hc : isControl h = true) :
    s.deliver h c v pc iw = s.recordMgmt ((s.slot h).recordOf h 1 c v pc) := by
  simp [State.deliver, ht, hc]

/-- A routine's trap ends it with a reply. -/
theorem State.deliver_routine (s : State) (h c : Nat) (v pc : Reg64) (iw : Word) (ht : isTask h = false) (hc : isControl h = false) :
    s.deliver h c v pc iw = s.stopRoutine h c v pc iw := by
  simp [State.deliver, ht, hc]

@[simp] theorem Slot.enterTrap_pc (x : Slot) (c : Nat) (v pc : Reg64) : (x.enterTrap c v pc).pc = x.xvec := rfl
@[simp] theorem Slot.enterTrap_xpc (x : Slot) (c : Nat) (v pc : Reg64) : (x.enterTrap c v pc).xpc = pc := rfl
@[simp] theorem Slot.enterTrap_xcause (x : Slot) (c : Nat) (v pc : Reg64) : (x.enterTrap c v pc).xcause = r64 c := rfl
@[simp] theorem Slot.enterTrap_xval (x : Slot) (c : Nat) (v pc : Reg64) : (x.enterTrap c v pc).xval = v := rfl
@[simp] theorem Slot.enterTrap_win (x : Slot) (c : Nat) (v pc : Reg64) : (x.enterTrap c v pc).win = x.win := rfl
@[simp] theorem Slot.enterTrap_xvec (x : Slot) (c : Nat) (v pc : Reg64) : (x.enterTrap c v pc).xvec = x.xvec := rfl
@[simp] theorem Slot.returnTrap_pc (x : Slot) : x.returnTrap.pc = x.xpc := rfl
@[simp] theorem Slot.returnTrap_win (x : Slot) : x.returnTrap.win = x.win := rfl

/-- The return after an entry goes on at the saved pc. -/
theorem Slot.returnTrap_enterTrap_pc (x : Slot) (c : Nat) (v pc : Reg64) : (x.enterTrap c v pc).returnTrap.pc = pc := rfl

/-! ## Residues, and vector accesses in parts (R289, R214) -/

/-- Where no register word is bad and no mismatch is to come, an instruction is executed as it stands. -/
theorem State.readOf_clean (s : State) (i : Instr) (he : s.softErrors = []) (hb : s.me.bad = []) : s.readOf i = (s, true) := by
  simp [State.readOf, State.residue, he, hb]

/-- Off a nib a vector access is made at one step. -/
theorem State.splitsNib_of_not_nib (s : State) (l : List (Nat × Reg64)) (h : isNib s.cur = false) : s.splitsNib l = false := by
  simp [State.splitsNib, h]

/-- On a nib it is too, where no event is the next turn. -/
theorem State.splitsNib_of_no_event (s : State) (l : List (Nat × Reg64)) (h : s.eventNext = false) : s.splitsNib l = false := by
  simp [State.splitsNib, h]

/-- The last element of a nib's access, which ends it. -/
theorem State.nextParts_last (s : State) (q : Parts) (p : Nat × Nat × Nat) (h : s.me.parts = some q) (hl : q.left = [p]) :
    s.nextParts = ((State.doPart q s p).modMe (fun x => { x with parts := none })).advance s.cur 4 := by
  simp [State.nextParts, h, hl]

/-- An element before the last, with an event as the next turn. -/
theorem State.nextParts_one (s : State) (q : Parts) (p : Nat × Nat × Nat) (r : List (Nat × Nat × Nat)) (h : s.me.parts = some q) (hl : q.left = p :: r) (hr : r ≠ [])
    (he : s.eventNext = true) : s.nextParts = (State.doPart q s p).modMe (fun x => { x with parts := some { q with left := r } }) := by
  have : 1 < (p :: r).length := by cases r <;> simp_all
  simp [State.nextParts, h, hl, he, hr, List.length_pos_iff]

/-- No running routine has written a byte that an operation writes, where none has written any. -/
theorem State.routineWrote_of_unwritten (s : State) (pid : BitVec 16) (l : List Nat) (h : ∀ k ∈ s.harts, k.2.routine.all (fun r => r.wrote.isEmpty) = true) : s.routineWrote pid l = false := by
  simp only [State.routineWrote, List.any_eq_false]
  intro k hk
  have := h k hk
  split <;> simp_all

/-- Nor is any byte of the scratchpads kept from a reward pass then (R234). -/
theorem State.routineBytes_of_unwritten (s : State) (a n : Nat) (h : ∀ k ∈ s.harts, k.2.routine.all (fun r => r.wrote.isEmpty) = true) : s.routineBytes a n = [] := by
  simp only [State.routineBytes, List.flatMap_eq_nil_iff]
  intro k hk
  have := h k hk
  split <;> simp_all

/-- A pass is then R310's alone. -/
theorem State.passMem_of_unwritten (s : State) (x : Nat) (clr : Bool) (g : Region) (h : ∀ k ∈ s.harts, k.2.routine.all (fun r => r.wrote.isEmpty) = true) :
    s.passMem x clr g = rewardPass x clr g.count g.base s.spm := by
  simp [State.passMem, s.routineBytes_of_unwritten _ _ h]

/-- Granules link a region that shares none with another of the list to itself alone. -/
theorem Region.kin_alone (l : List Region) (g : Region) (hl : ∀ k ∈ l, k = g ∨ k.shares g = false) : ∀ n acc, (∀ k ∈ acc, k = g) → ∀ k ∈ Region.kin l n acc, k = g := by
  intro n
  induction n with
  | zero => exact fun acc h => h
  | succ n ih =>
    refine fun acc h => ih _ fun k hk => ?_
    obtain ⟨hkl, ha⟩ := List.mem_filter.mp hk
    obtain ⟨a, ham, hs⟩ := List.any_eq_true.mp ha
    rcases hl k hkl with rfl | hn
    · rfl
    · rw [h a ham] at hs; simp_all

/-- A region whose pass runs, and which shares no granule with another one, ends its pass alone (R234). -/
theorem State.kinOf_alone (s : State) (id b : Nat) (arm : List Nat) (g : Region) (hb : g.base = b) (hk : ∀ k ∈ s.regions, k = g ∨ (k.base ≠ b ∧ k.shares g = false)) :
    ∀ k ∈ s.kinOf id arm b, k = g := by
  refine Region.kin_alone _ g (fun k hm => ?_) _ _ fun k hm => ?_
  · exact (hk k (List.mem_filter.mp hm).1).imp_right And.right
  · obtain ⟨hm, hkb⟩ := List.mem_filter.mp hm
    rcases hk k hm with rfl | h
    · rfl
    · exact absurd (by simpa using hkb) h.1

/-- A REWARD waits for none, and takes no place, at a region that shares no granule with another. -/
theorem State.linked_alone (s : State) (o : Op) (b : Nat) (g : Region) (hb : g.base = b) (hk : ∀ k ∈ s.regions, k = g ∨ (k.base ≠ b ∧ k.shares g = false)) :
    s.linked o b = false := by
  simp only [State.linked, List.any_eq_false]
  intro k h
  simp [s.kinOf_alone o.id b o.arms g hb hk k h, hb]

theorem State.armsLater_of_not_linked {s : State} {o : Op} {b : Nat} (h : s.linked o b = false) : s.armsLater o b = false := by
  simp [State.armsLater, h]

theorem State.takesPlace_of_not_linked {s : State} {o : Op} {b : Nat} (h : s.linked o b = false) : s.takesPlace o b = (s, o) := by
  simp [State.takesPlace, h]

/-! ## What ends a task takes its ports' entries too (R69, R72) -/

theorem Tab.set_set {α : Type} (t : Tab α) (a : Nat) (x y : α) : Tab.set (Tab.set t a x) a y = Tab.set t a y := by
  induction t with
  | nil => simp [Tab.set]
  | cons p t ih =>
    obtain ⟨k, v⟩ := p
    simp only [Tab.set]
    split
    · simp [Tab.set]
    · split <;> simp_all [Tab.set]

theorem State.modMe_modMe (s : State) (f g : Slot → Slot) : (s.modMe f).modMe g = s.modMe (fun x => g (f x)) := by
  unfold State.modMe
  simp only [State.modSlot, State.setSlot_cur, State.slot_setSlot_self]
  simp [State.setSlot, Tab.set_set]

/-- An instruction that reads no inbound port takes nothing from the ports. -/
theorem State.dequeueAll_modMe (s : State) (i : Instr) (f : Slot → Slot) (h : ∀ o ∈ opds i, o.inbound = false) : (s.dequeueAll i).modMe f = s.modMe f := by
  have hx : ∀ (l : List Opd) (x : Slot), (∀ o ∈ l, o.inbound = false) → l.foldl Slot.dequeue x = x := by
    intro l
    induction l with
    | nil => exact fun _ _ => rfl
    | cons o l ih => intro x ho; rw [List.foldl_cons, show x.dequeue o = x by simp [Slot.dequeue, ho o]]; exact ih x fun p hp => ho p (List.mem_cons_of_mem _ hp)
  rw [State.dequeueAll, State.modMe_modMe]
  simp only [hx _ _ h]

/-! ## What a request buffer waits for (R403) -/

/-- A slot that has no instruction waiting with a request is not before another one. -/
theorem State.wantsBuffer_of_not_waiting (s : State) (c sl : Nat) (h : ∀ t, (s.slot (hartOf c sl)).waiting ≠ some (.request, t)) : s.wantsBuffer c sl = false := by
  simp only [State.wantsBuffer, Bool.and_eq_false_iff]
  right
  cases hw : (s.slot (hartOf c sl)).waiting with
  | none => rfl
  | some w => obtain ⟨k, t⟩ := w; simp only [Option.any_some, beq_eq_false_iff_ne]; rintro rfl; exact h t hw

end Sys2Proof.Machine
end

