-- ==== Sys2Proof/Laws/Tasks.lean ====
section
/-! SUPPORT. Laws of placement and recruitment. -/

namespace Sys2Proof.Machine

@[simp] theorem State.plan_zero (lid : Word) (window : Nat) (order : List Nat) (s : State) : State.plan lid window order 0 s = [] := rfl

/-- A plan has at most as many places as were asked for. -/
theorem State.plan_length_le (lid : Word) (window : Nat) (order : List Nat) (w : Nat) (s : State) : (State.plan lid window order w s).length ≤ w := by
  induction w generalizing s with
  | zero => simp
  | succ w ih =>
    simp only [State.plan]
    split
    · simp
    · simpa using ih _

/-- A core of the order that fits a recruit makes the plan place one. -/
theorem State.plan_ne_nil (lid : Word) (window c w : Nat) (order : List Nat) (s : State) (p : Place) (hw : 0 < w) (hc : c ∈ order) (hp : s.placeFor lid c window 0 0 = some p) :
    State.plan lid window order w s ≠ [] := by
  obtain ⟨w, rfl⟩ := Nat.exists_eq_succ_of_ne_zero (Nat.pos_iff_ne_zero.1 hw)
  simp only [State.plan]
  split
  · next h =>
    have := List.findSome?_eq_none_iff.1 h c hc
    simp [hp] at this
  · simp

/-- A place is in a free slot. -/
theorem State.place_free (s : State) (cid window scratch phasers : Nat) (p : Place) (h : s.place cid window scratch phasers = some p) : (s.slot (hartOf cid p.sl)).live = false := by
  simp only [State.place] at h
  split at h
  · simp at h
  · split at h
    · next sl _ _ hs _ _ =>
      simp only [Option.some.injEq] at h
      subst h
      simpa using List.find?_some hs
    · simp at h

theorem State.placeFor_free (s : State) (lid : Word) (cid window scratch phasers : Nat) (p : Place) (h : s.placeFor lid cid window scratch phasers = some p) : (s.slot (hartOf cid p.sl)).live = false := by
  simp only [State.placeFor] at h
  split at h
  · simp at h
  · exact s.place_free _ _ _ _ p h

/-- A task that reserves no scratch empties no word, so no parked request is served. -/
theorem State.startTask_noScratch (s : State) (cid : Nat) (p : Place) (t : Start) (ht : t.scratch = 0) :
    ∃ f l, s.startTask cid p t = { s.setSlot (hartOf cid p.sl) { t.slot cid s.nextId (((s.cluster (cid / 256)).pid).getD 0) p with callId := (s.slot (hartOf cid p.sl)).callId } with nextId := s.nextId + 1, full := f, launches := l } := by
  have e : s.full.filter (fun a => decide (cid * 65536 + p.scratch ≤ a ∧ a < cid * 65536 + p.scratch + t.scratch)) = [] := by
    rw [List.filter_eq_nil_iff]
    intro a _
    simp [ht]
  simp only [State.startTask]
  have e' : (s.setSlot (hartOf cid p.sl) { t.slot cid s.nextId (((s.cluster (cid / 256)).pid).getD 0) p with callId := (s.slot (hartOf cid p.sl)).callId }).full = s.full := rfl
  rw [e', e]
  exact ⟨_, _, rfl⟩

theorem State.slot_startTask_self (s : State) (cid : Nat) (p : Place) (t : Start) (ht : t.scratch = 0) :
    (s.startTask cid p t).slot (hartOf cid p.sl) = { t.slot cid s.nextId (((s.cluster (cid / 256)).pid).getD 0) p with callId := (s.slot (hartOf cid p.sl)).callId } := by
  obtain ⟨f, l, e⟩ := s.startTask_noScratch cid p t ht
  rw [e]
  exact s.slot_setSlot_self _ _

theorem State.slot_startTask_ne (s : State) (cid k : Nat) (p : Place) (t : Start) (ht : t.scratch = 0) (h : k ≠ hartOf cid p.sl) : (s.startTask cid p t).slot k = s.slot k := by
  obtain ⟨f, l, e⟩ := s.startTask_noScratch cid p t ht
  rw [e]
  exact s.slot_setSlot_ne _ _ _ h

theorem State.clusters_startTask (s : State) (cid : Nat) (p : Place) (t : Start) (ht : t.scratch = 0) : (s.startTask cid p t).clusters = s.clusters := by
  obtain ⟨f, l, e⟩ := s.startTask_noScratch cid p t ht
  rw [e]
  rfl

theorem Slot.foldl_putG_live (l : List (Nat × Reg64)) (x : Slot) : (l.foldl (fun (x : Slot) r => x.putG r.1 r.2) x).live = x.live := by
  induction l generalizing x with
  | nil => rfl
  | cons r l ih =>
    rw [List.foldl_cons, ih, Slot.putG]
    split <;> rfl

@[simp] theorem Start.slot_live (t : Start) (cid uid : Nat) (pid : BitVec 16) (p : Place) : (t.slot cid uid pid p).live = true := by
  simp only [Start.slot]
  split
  · rw [Slot.putG]
    split <;> simp [Slot.foldl_putG_live]
  · simp [Slot.foldl_putG_live]

/-- The places of a plan are free slots, all different. -/
theorem State.plan_places (lid : Word) (window : Nat) (order : List Nat) (w : Nat) (s : State) :
    (∀ a ∈ State.plan lid window order w s, (s.slot (hartOf a.1 a.2.sl)).live = false) ∧ ((State.plan lid window order w s).map (fun a => hartOf a.1 a.2.sl)).Nodup := by
  induction w generalizing s with
  | zero => simp
  | succ w ih =>
    simp only [State.plan]
    split
    · simp
    · next a ha =>
      obtain ⟨c, _, hc⟩ := List.exists_of_findSome?_eq_some ha
      obtain ⟨p, hp, rfl⟩ := Option.map_eq_some_iff.1 hc
      have free := s.placeFor_free _ _ _ _ _ _ hp
      obtain ⟨d, hd, ht⟩ : ∃ d : Start, ({ entry := 0, regs := [], window := window, tid := 0, lid := lid, ctok := 0, watch := false, sc := false } : Start) = d ∧ d.scratch = 0 := ⟨_, rfl, rfl⟩
      rw [hd] at *
      obtain ⟨h1, h2⟩ := ih (s.startTask c p d)
      have other : ∀ b ∈ State.plan lid window order w (s.startTask c p d), hartOf b.1 b.2.sl ≠ hartOf c p.sl ∧ (s.slot (hartOf b.1 b.2.sl)).live = false := by
        intro b hb
        have hl := h1 b hb
        by_cases e : hartOf b.1 b.2.sl = hartOf c p.sl
        · rw [e, State.slot_startTask_self _ _ _ _ ht] at hl
          simp at hl
        · rw [State.slot_startTask_ne _ _ _ _ _ ht e] at hl
          exact ⟨e, hl⟩
      constructor
      · intro b hb
        rcases List.mem_cons.1 hb with rfl | hb
        · exact free
        · exact (other b hb).2
      · simp only [List.map_cons, List.nodup_cons]
        refine ⟨?_, h2⟩
        intro hm
        obtain ⟨b, hb, e⟩ := List.mem_map.1 hm
        exact (other b hb).1 e

/-- Starting tasks leaves every slot outside the plan as it is. -/
theorem State.slot_startAll_ne (t : Nat → Start) (l : List (Nat × Place)) (s : State) (k n : Nat) (ht : ∀ i, (t i).scratch = 0) (h : ∀ a ∈ l, k ≠ hartOf a.1 a.2.sl) :
    ((l.zipIdx n).foldl (fun s a => s.startTask a.1.1 a.1.2 (t a.2)) s).slot k = s.slot k := by
  induction l generalizing s n with
  | nil => rfl
  | cons a l ih =>
    rw [List.zipIdx_cons, List.foldl_cons, ih _ _ (fun b hb => h b (by simp [hb]))]
    exact s.slot_startTask_ne _ _ _ _ (ht n) (h a (by simp))

/-- Each place of a plan with different slots holds its task, started as `t` says, after all have started. -/
theorem State.slot_startAll (t : Nat → Start) (l : List (Nat × Place)) (s : State) (n : Nat) (ht : ∀ i, (t i).scratch = 0) (hn : (l.map (fun a => hartOf a.1 a.2.sl)).Nodup) (i : Nat) (hi : i < l.length) :
    ∃ uid, ((l.zipIdx n).foldl (fun s a => s.startTask a.1.1 a.1.2 (t a.2)) s).slot (hartOf l[i].1 l[i].2.sl)
      = { (t (n + i)).slot l[i].1 uid (((s.cluster (l[i].1 / 256)).pid).getD 0) l[i].2 with callId := (s.slot (hartOf l[i].1 l[i].2.sl)).callId } := by
  induction l generalizing s n i with
  | nil => simp at hi
  | cons a l ih =>
    simp only [List.map_cons, List.nodup_cons] at hn
    rw [List.zipIdx_cons, List.foldl_cons]
    cases i with
    | zero =>
      refine ⟨s.nextId, ?_⟩
      rw [State.slot_startAll_ne _ _ _ _ _ ht]
      · rw [List.getElem_cons_zero, s.slot_startTask_self _ _ _ (ht n)]
        rfl
      · intro b hb e
        exact hn.1 (List.mem_map.2 ⟨b, hb, by simpa using e.symm⟩)
    | succ i =>
      have hi' : i < l.length := by simpa using hi
      obtain ⟨u, hu⟩ := ih (s.startTask a.1 a.2 (t n)) (n + 1) hn.2 i hi'
      refine ⟨u, ?_⟩
      simp only [List.getElem_cons_succ]
      rw [hu]
      have e : hartOf l[i].1 l[i].2.sl ≠ hartOf a.1 a.2.sl := by
        intro e
        exact hn.1 (List.mem_map.2 ⟨l[i], List.getElem_mem _, e⟩)
      rw [State.slot_startTask_ne _ _ _ _ _ (ht n) e]
      simp [State.cluster, State.clusters_startTask _ _ _ _ (ht n), Nat.add_comm, Nat.add_left_comm]

end Sys2Proof.Machine
end

