-- ==== Sys2Proof/Tests/Slice0.lean ====
section
/-! SUPPORT. Small tests: the checks of `legal` on ill-formed terms, words written out from the encodings of the manual, and states
that meet the hypotheses of the obligations, clause by clause. -/

namespace Sys2Proof.Tests

open Sys2Proof Sys2Proof.Machine

set_option Elab.async false
set_option linter.unusedTactic false
set_option linter.unreachableTactic false
set_option linter.unusedSimpArgs false

/-! ## Small states -/

/-- A task in slot 0 of core 0 of cluster 0, which belongs to process 1. -/
def task : Slot := { live := true, uid := 1, pid := 1, pc := 0x1000, winSize := 8192, request := 64, grant := 64, tid := 7, lid := 5, ctok := 9, xvec := 0x2000 }

def one (x : Slot) : State := (({ State.reset with nextId := 100, clk := 1000, ready := true }).modCluster 0 (fun c => { c with pid := some 1 })).setSlot 0 x

def base : State := one task

/-- Registers set to numbers. -/
def regs (x : Slot) (l : List (Nat × Nat)) : Slot := l.foldl (fun x p => x.putG p.1 (r64 p.2)) x

def given (l : List (Nat × Nat)) : State := one (regs task l)

/-- The instruction completes with a state that has the property. -/
def after (i : Instr) (s : State) (p : State → Bool) : Bool := match exec i s with | .next t => p t | _ => false

/-- The instruction takes the precise trap: cause and value. -/
def traps (i : Instr) (s : State) (c v : Nat) : Bool := after i s (fun t => t.me.xcause == r64 c && t.me.xval == r64 v && t.me.pc == s.me.xvec)

theorem unheld_of_no_ops (s : State) (h : s.ops = []) : Claims.unheld s := by simp [Claims.unheld, h]

/-! ## Ill-formed terms -/

theorem test_illformed_scalar : ([.add 1 1 32 0 1, .madd 1 1 40 0 1, .sel 1 1 63 0 1, .loop 0 0 1 0, .loopi 0 0 1 0, .rpt 0 0 0 0 0 3, .view 3 1, .lclaim 1 65, .rcall 1 2 9 0, .rret 5] : List Instr).all (fun i => !legal i) = true := by decide +kernel

theorem test_illformed_memory : ([.ld 1 2 3 1 0, .ldm 0 1 2 0, .ldm 5 0 2 0, .stm 5 6 2 0, .ldfe 1 0 0, .ldff 1 0 0, .stfe 1 0 0, .stf 1 0 0, .waitw 1 0 0, .aadd 1 2 3 0 0 3, .aadd 1 2 3 0 1 0, .aadd 0 2 3 0 1 1, .acas 0 2 3 0 1 0, .radd 0 1 0, .fence 0 6, .acq 0, .rel 0, .bind 0, .unbind 0] : List Instr).all (fun i => !legal i) = true := by decide +kernel

theorem test_illformed_blocks : ([.phnew 1 0, .phjoin 1 0, .qsend 0 1, .qpeek 0 56, .qpeek 1 60, .msend 0 1 2, .msend 1 1 3, .msendw 1 1 0, .spawn 0, .fork 0, .joinc 0, .launch 0 1, .pipedecl 0 1, .pipego 0 1, .pipewait 0 1 0, .cpy 0 1, .cpys 0 1, .cpyt 0 1 1, .cpytSet 0 1 1, .cpyd 0 1 4, .cpyd 1 1 3, .cpyd 1 1 8] : List Instr).all (fun i => !legal i) = true := by decide +kernel

theorem test_illformed_units : ([.mxcfg 0, .mxwr 0, .mxz 3 0, .mxz 1 1, .mxrd 0 1, .mxrd 1 0, .oclaim 0 1, .oclaim 1 0, .oclaim 1 17, .orel 0, .ofill 0 1, .mxrectForm 0 1, .mxrectFree 0 1, .qnt 0 1 0, .evsend 0 0, .nrn 0, .stepadv 0 1, .dring 0 1, .trc 0 1 0, .trc 1 13 0, .trc 1 1 6, .plreg 0 1 1, .pldrop 0 1 1, .reward 0 1 1 0] : List Instr).all (fun i => !legal i) = true := by decide +kernel

theorem test_illformed_queues : ([.dqdecl 0 1, .dqpush 0 1 1, .dqpush 1 1 0, .dqpop 1 0 1, .dqpop 0 1 1, .dqcons 1 0, .dqarr 0 1 1, .dqlook 1 0, .dqjoin 1 0 1, .dqclose 0 1 1, .dqfront 0 1] : List Instr).all (fun i => !legal i) = true := by decide +kernel

theorem test_illformed_vector : ([.vadd 1 2 3 0 4 0, .vfadd 1 2 3 0 3 0, .vceq 8 2 3 0 1, .vfclt 1 2 3 0 2, .kand 8 1 1, .kand 1 9 1, .knot 1 8, .kpop 1 8, .kmovG 1 8, .kmovKg 8 1, .vbcastConstant 1 32 0 2, .vbcastConstant 1 62 0 6, .vcvt 1 2 0 14 0 6 0, .vcvt 1 2 0 6 0 6 0, .vcvt 1 2 1 2 0 6 0, .vcvt 1 2 1 6 0 1 0, .vcvt 1 2 0 5 0 6 6, .vpack 1 2 3 0 3 0, .vpack 1 2 3 0 2 1, .vunpk 1 2 0 0 0 0 3, .vunpk 1 2 3 0 0 0 0, .vunpk 1 2 1 0 0 0 1, .vunpk 1 2 0 1 0 0 4, .vldx 1 2 3 0 1, .vstx 1 2 3 0 4, .vstxc 1 2 3 0 2, .vti 1 2 3 0 7, .visect 1 2 3 0 4] : List Instr).all (fun i => !legal i) = true := by decide +kernel

theorem test_wellformed : ([.add 1 1 31 0 1, .loop 0 0 1 1, .view 2 1023, .lclaim 1 64, .rcall 1 2 8 0, .ld 1 2 3 0 0, .ldm 5 9 2 0, .aadd 0 2 3 0 1 0, .fence 1 5, .cpyd 1 1 7, .mxz 1 2, .oclaim 1 16, .trc 1 12 7, .vcvt 1 2 1 9 0 2 0, .vunpk 1 2 2 0 0 0 0] : List Instr).all legal = true := by decide +kernel

/-! ## Words written out from the encodings (R77 to R81 and each entry) -/

/-- Fields joined from the high bits down. -/
def word (l : List (Nat × Nat)) : Word := BitVec.ofNat 32 (l.foldl (fun a p => a * 2 ^ p.1 + p.2) 0)

/-- ALU: major 0x01, d, a, b, w, c, op (R129). LI: major 0x03, d, imm14 (R133). -/
theorem test_decode_scalar :
    decodeWord (word [(6, 0x01), (6, 3), (6, 4), (6, 12), (1, 0), (1, 1), (6, 0)]) = some (.add 3 4 12 0 1)
    ∧ decodeWord (word [(6, 0x02), (6, 2), (6, 1), (4, 9), (10, 3)]) = some (.muli 2 1 3)
    ∧ decodeWord (word [(6, 0x05), (6, 5), (6, 6), (14, 0x3FFF)]) = some (.beq 5 6 0x3FFF)
    ∧ decodeWord (word [(6, 0x0C), (26, 0x3FFFFFF)]) = some (.j 0x3FFFFFF) ∧ decodeWord 0x38000002 = some .ret
    ∧ decodeWord 0x70082000 = some (.view 2 32) ∧ decodeWord 0x700C0000 = some (.viewRegister 0) ∧ decodeWord 0x70100801 = some (.lclaim 1 8)
    ∧ decodeWord 0x7C100302 = some (.sysr 1 3) ∧ decodeWord 0x7C000004 = some .nop := by decide +kernel

theorem test_decode_memory :
    decodeWord 0x4451B001 = some (.ld 5 6 3 0 1) ∧ decodeWord 0x4871A7FF = some (.st 7 6 2 0x7FF) ∧ decodeWord 0x4C8530C2 = some (.ldm 8 20 3 2)
    ∧ decodeWord 0x50518002 = some (.ldfe 5 6 2) ∧ decodeWord 0x50719800 = some (.stf 7 6 0) ∧ decodeWord 0x5071A000 = some (.waitw 7 6 0)
    ∧ decodeWord 0x54518719 = some (.acas 5 6 7 0 0 1) ∧ decodeWord 0x58018700 = some (.radd 6 7 0) ∧ decodeWord 0x5C000A00 = some (.fence 1 2)
    ∧ decodeWord 0x5C500001 = some (.acq 5) ∧ decodeWord 0x5CA00003 = some (.bind 10) := by decide +kernel

theorem test_decode_vector :
    decodeWord 0x80221A30 = some (.vadd 1 2 3 2 1 1) ∧ decodeWord 0x848530C0 = some (.vfadd 4 5 6 0 6 0) ∧ decodeWord 0x882218C5 = some (.vfclt 1 2 3 0 6)
    ∧ decodeWord 0x88221807 = some (.kand 1 2 3) ∧ decodeWord 0x8C001C50 = some (.vbcastConstant 0 7 4 2) ∧ decodeWord 0x942228C0 = some (.vcvt 1 2 0 5 0 6 0)
    ∧ decodeWord 0x982218C0 = some (.vld 1 2 3 0 6) ∧ decodeWord 0x9C221842 = some (.visect 1 2 3 0 2) := by decide +kernel

theorem test_decode_units :
    decodeWord 0x60500300 = some (.phnew 5 3) ∧ decodeWord 0x75A24000 = some (.cpy 26 9) ∧ decodeWord 0x74A24301 = some (.cpyt 10 9 3) ∧ decodeWord 0x74A24602 = some (.cpyd 10 9 6)
    ∧ decodeWord 0xA4014400 = some (.oclaim 5 4) ∧ decodeWord 0xA8A24020 = some (.qnt 10 9 1) ∧ decodeWord 0xB4A25401 = some (.dqpush 10 9 20)
    ∧ decodeWord 0xB0A00020 = some (.evsend 10 1) ∧ decodeWord 0x78A24300 = some (.rcall 10 9 3 0) := by decide +kernel

theorem test_decode_pair : decode [0x04, 0x00, 0x00, 0xF8, 0x45, 0x23, 0x50, 0x0C] = .ok ⟨.liX 5 0x2345 4, 8⟩ := by rfl

theorem test_reserved_words : decodeWord 0 = none ∧ decodeWord 0xFC000000 = none ∧ decodeWord 0x04000021 = none ∧ decodeWord (word [(6, 0x0B), (6, 1), (6, 2), (14, 0)]) = none := by decide +kernel

/-! ## Hypotheses of the obligations: the machine, registers and control flow -/

/-- The instruction store of cluster 0 with one image page, whose words from 0x1000 on are those given. -/
def coded (x : Slot) (ws : List Nat) : State :=
  let s := (one x).modCluster 0 (fun c => { c with frames := [⟨0, 1, [5]⟩], images := [⟨5, 0, [0]⟩] })
  { s with imem := Mem.write [] 0x1000 (4 * ws.length) (ws.foldr (fun w a => w + a * 2 ^ 32) 0) }

def codedBase : State := coded (regs task [(4, 7)]) [0x04310C40, 0x7C000004]

/-- StepRunsDecoded, the core's issue: ADD g3, g4, #12 at 0x1000; a word that decodes to nothing; an X word whose second word is outside. -/
theorem witness_step_core :
    let u := codedBase.tickClk 1
    let v := ({ u with cur := 0 } : State).holdWord 0
    let edge := (coded { task with pc := 0xFFFC } []).tickClk 1
    codedBase.powered = true ∧ codedBase.ready = true ∧ codedBase.softErrors = [] ∧ codedBase.agenda = [] ∧ u.issueOrder 0 = [0, 4, 0, 1, 2, 3] ∧ u.throttled 0 = false ∧ u.issueGone 0 = false ∧ v.wordAt 0 (v.slot 0).pc = some 0x04310C40
    ∧ (v.slot 0).rptOn = false ∧ (v.slot 0).pc.toNat % 4 = 0 ∧ u.mayIssue 0 = true ∧ u.takesStatus 0 = false ∧ u.withdrawn 0 = none ∧ (u.slot 0).bad = [] ∧ (u.slot 0).parts = none
    ∧ decodeWords 0x04310C40 (v.wordAt 0 ((v.slot 0).pc + 4)) = .ok ⟨.add 3 4 12 0 1, 4⟩ ∧ after (.add 3 4 12 0 1) v (fun t => !t.waits u 0 && t.me.getG 3 == 19) = true
    ∧ (v.slot 0).heldWord (v.slot 0).pc = none ∧ (u.codeAt (u.codeOf 0).1 (u.codeOf 0).2 0x1000) = some 0x1000
    ∧ decodeWord 0x04000021 = none ∧ after (.illegalInstruction 0x04000021) v (fun t => !t.waits u 0 && t.me.xcause == 1) = true
    ∧ edge.wordAt 0 0x10000 = none ∧ (∀ e ∈ (edge.slot 0).loops, e.last ≠ 0xFFFC) ∧ after (.instructionFetchOutsideImage 0x10000) { edge with cur := 0 } (fun t => !t.waits u 0 && t.me.xcause == 3) = true := by
  and_intros <;> first | decide +kernel | rfl

/-- StepRunsDecoded, a nib's turn, its word held first, and an event's. -/
theorem witness_step_nib_event :
    let x : Slot := { task with routine := some ⟨0, 0x1000, 1, 5, 0, false, 9, 990, []⟩, grant := 16 }
    let u : State := { ((codedBase.setSlot 81920 x)) with agenda := [] }
    let v := ({ u with cur := 81920 } : State).holdWord 81920
    v.wordAt 81920 (v.slot 81920).pc = some 0x04310C40 ∧ (v.slot 81920).heldWord 0x1000 ≠ none ∧ u.mayIssue 81920 = true ∧ u.takesStatus 81920 = false ∧ u.withdrawn 81920 = none ∧ (v.slot 81920).rptOn = false ∧ (u.slot 81920).bad = [] ∧ (u.slot 81920).parts = none
    ∧ after (.add 3 4 12 0 1) v (fun t => t.me.pc == 0x1004) = true ∧ isEvent (.storeAcknowledge 0) = true := by
  and_intros <;> first | decide +kernel | rfl

/-- StepAnswers: a part with power, one without, and one without whose next turn is an event. -/
theorem witness_answers : State.reset.powered = true ∧ ({ State.reset with powered := false } : State).agenda = [] ∧ isBringUp (.bringUp 1 0 0) = true ∧ isBringUp (.storeAcknowledge 0) = false := by decide

theorem witness_encodable : ([.add 63 63 63 1 1, .liX 63 0x3FFF 0x3FFFFFF, .viewRegister 0, .exit, .vstxc 31 31 31 7 7] : List Instr).all (fun i => (encodeWord i).isSome) = true := by decide +kernel

/-- StepKeepsCanonical. -/
theorem witness_canonical : State.Canonical base ∧ (answers (step base) = true) :=
  ⟨⟨rfl, rfl, rfl, rfl, rfl, rfl, rfl, by simp [base, one, State.reset, State.modCluster, State.setSlot, Tab.set, Mem.wf, Mem.wfFrom, task], by simp [base, one, State.reset, State.modCluster, State.setSlot]⟩, by decide +kernel⟩

/-- CompletionAndFrame: straight code, with d = 0, 1 and 55. -/
theorem witness_frame :
    base.me.win.wf = true ∧ base.me.rptOn = false ∧ base.me.loops = []
    ∧ ([.add 0 1 55 0 0, .mulh 1 1 1 1 0, .sel 55 1 2 0 0, .liX 55 0 0, .leaX 1 0 0 0, .clz 1 2 0, .muli 2 1 3] : List Instr).all (fun i => ready i base) = true ∧ (opds (.add 1 2 3 0 0)).all (fun o => !o.inbound) = true := by
  and_intros <;> first | decide +kernel | rfl

/-- LoopBackEdge: at another word, the last pass, and a pass that follows, its task dead under chk or renegotiating under ren. -/
theorem witness_back_edge :
    let t : LoopEntry := ⟨0x1004, 0x1008, 1, true, true⟩
    let s := ({ base with tokens := [9] } : State).modMe (fun x => { x with loops := [t] })
    (s.slot 0).loops = [t] ∧ t.last ≠ 0x1004 ∧ t.left = 1 ∧ ({ t with left := 2 } : LoopEntry).left ≠ 1 ∧ s.taskDead (s.slot 0) = true := by
  and_intros <;> first | decide +kernel | rfl

/-- IssueTrapOrder: a term for each cause, the earlier causes absent. -/
theorem witness_issue_order :
    let noLanes := one { task with grant := 0 }
    let small := one { task with winSize := 64 }
    base.me.issues = true ∧ base.me.routine = none ∧ legal (.add 1 1 40 0 1) = false ∧ base.me.illegalHere .lbrk = true ∧ base.me.illegalHere .halt = false ∧ badNumber (.sysr 1 0x301) = some 0x301 ∧ badNumber (.sysw 1 3) = some 3 ∧ badNumber .halt = none
    ∧ ((one { task with loops := [⟨0xFF0, 0x1000, 2, false, false⟩] }).me.loops.head?.any (fun t => t.last == 0x1000)) = true
    ∧ (legal .halt = true ∧ privileged 0 .halt = some 0x7C000007) ∧ (privileged 0 (.rret 1) = none ∧ wrongSlot 0 (.rret 5) = false)
    ∧ (wrongSlot 0 (.mxcfg 1) = true ∧ legal (.mxcfg 1) = true ∧ privileged 0 (.mxcfg 1) = none)
    ∧ (needsLanes (.vadd 1 2 3 0 2 0) = true ∧ noLanes.me.grant = 0)
    ∧ (opds (.add 1 2 8 0 0)).findSome? (fun o => small.me.outside o.reg) = some 64
    ∧ (opds (.add 56 2 3 0 0)).any Opd.misuse = true ∧ (opds (.add 56 2 3 0 0)).findSome? (fun o => base.me.outside o.reg) = none := by
  and_intros <;> first | decide +kernel | rfl

/-- TrapsAndReturn: entry, no handler, inside a handler. -/
theorem witness_traps :
    let busy := one { task with xstat := 0x80 }
    isTask 0 = true ∧ (base.slot 0).routine = none ∧ (base.slot 0).xvec ≠ 0 ∧ (base.slot 0).xstat.getLsbD 7 = false
    ∧ ((one { task with xvec := 0 }).slot 0).xvec = 0 ∧ (busy.slot 0).xstat.getLsbD 7 = true
    ∧ ready .eret busy = true ∧ busy.me.xcause ≠ 0x0A ∧ busy.me.xstat.getLsbD 63 = false ∧ base.me.issues = true ∧ base.me.xstat.getLsbD 7 = false
    ∧ ready .eret (one { task with xstat := 0x80, xcause := 0x0A }) = true := by
  and_intros <;> first | decide +kernel | rfl

/-- TrapsAndReturn: ERET into an RPT frame that may still run, into one whose body may no longer, and one whose progress fits no frame. -/
theorem witness_return_to_frame :
    let x : Slot := { task with xstat := 0x8000000000000080, xpc := 0x1004 }
    let head := 0x40000000 + 0 * 2 ^ 18 + 1 * 2 ^ 14
    let s := coded x [head, 0x04310C40]
    let b := coded x [head, 0x7C000004]
    let t := fun (s : State) => s.modMe (fun x => { x with xstat := setBits x.xstat 7 1 0, pc := x.xpc, rptOn := x.xstat.getLsbD 63 })
    ready .eret s = true ∧ s.me.xstat.getLsbD 63 = true ∧ s.frameOk 0 = true ∧ s.wordAt 0 0x1000 = some (BitVec.ofNat 32 head) ∧ (t s).capture 0 0x1000 (BitVec.ofNat 32 head) = none
    ∧ ready .eret b = true ∧ b.frameOk 0 = true ∧ ((t b).capture 0 0x1000 (BitVec.ofNat 32 head)).isSome = true ∧ (one x).frameOk 0 = false := by
  and_intros <;> first | decide +kernel | rfl

/-- StepRunsDecoded, the core's issue: no slot has a back-edge left to its turn, and the core is one of the 16,384. -/
theorem witness_step_no_edge : (∀ k < 4, ((codedBase.tickClk 1).slot (cidOf codedBase.cur * 5 + k)).edge = false) ∧ cidOf codedBase.cur < 16384 := by
  and_intros <;> first | decide +kernel | rfl

/-- InboundPorts: queues of one entry and of none, a message of one word and of two; the instructions that read them. -/
theorem witness_inbound :
    let x : Slot := { task with q0 := [5, 6], q1 := [7], vq0 := [3], inbox := [[1, 2], [3]] }
    let s := one x
    let e := one { x with q0 := [], inbox := [] }
    s.me.rptOn = false ∧ s.me.loops = [] ∧ (opds (.add 1 56 2 0 0)).filter Opd.inbound = [⟨.g 56, false, true⟩] ∧ (opds (.add 1 63 2 0 0)).filter Opd.inbound = [⟨.g 63, false, true⟩]
    ∧ (opds (.vadd 1 28 3 0 2 0)).filter Opd.inbound = [⟨.v 28, false, true⟩] ∧ after (.add 1 63 2 0 0) s (fun t => t.me.getG 1 == 1 && t.me.inbox == [[2], [3]]) = true
    ∧ after (.add 1 56 57 0 0) s (fun t => t.me.getG 1 == 12 && t.me.q0 == [6] && t.me.q1 == []) = true ∧ after (.add 1 63 2 0 0) (one { x with inbox := [[3], [4]] }) (fun t => t.me.inbox == [[4]]) = true
    ∧ e.me.issues = true ∧ issueTrap (.add 1 56 2 0 0) e = none ∧ issueTrap (.add 1 63 2 0 0) e = none ∧ e.me.pend = [] ∧ e.ops = []
    ∧ after (.add 1 56 2 0 0) e (fun t => t.me.waiting.isSome && t.me.pc == 0x1000) = true ∧ after (.add 1 56 2 0 0) e (fun t => t == e.mark .port) = true ∧ after (.add 1 63 2 0 0) e (fun t => t == e.mark .inbox) = true ∧ after (.add 1 56 63 0 0) e (fun t => t == e.mark .inbox) = true := by
  and_intros <;> first | decide +kernel | rfl

/-! ## Hypotheses: scalar instructions, control flow, views, system instructions -/

theorem witness_alu : ([.add 1 2 3 0 0, .sub 1 2 31 1 1, .mul 1 2 3 0 0, .mulh 1 2 3 0 0, .mulhn 1 2 3 1 0, .div 1 2 0 0 0, .divn 1 2 0 1 0, .rem 1 2 0 0 1, .remn 1 2 3 0 0, .and 1 2 3 0 0, .or 1 2 3 0 0, .xor 1 2 3 0 0, .andn 1 2 3 0 0,
    .shl 1 2 3 0 0, .shr 1 2 3 1 0, .sar 1 2 3 0 0, .rol 1 2 3 0 0, .min 1 2 3 0 0, .max 1 2 3 0 0, .minn 1 2 3 0 0, .maxn 1 2 3 0 0, .slt 1 2 3 0 0, .sltn 1 2 3 0 0, .seq 1 2 3 0 0, .sext 1 2 3 0 0, .zext 1 2 3 0 0, .clz 1 2 0, .ctz 1 2 1, .pop 1 2 0,
    .brev 1 2 0, .bswap 1 2 0, .madd 1 2 3 0 0, .sel 0 2 3 0 0, .addi 1 2 0x3FF, .addiX 1 2 0 1, .andi 1 2 3, .andiX 1 2 3 1, .ori 1 2 3, .oriX 1 2 3 1, .xori 1 2 3, .xoriX 1 2 3 1, .slti 1 2 3, .sltiX 1 2 3 1, .sltni 1 2 3, .sltniX 1 2 3 1, .muli 1 2 3,
    .muliX 1 2 3 1, .shli 1 2 63, .shliX 1 2 0, .shri 1 2 63, .shriX 1 2 0, .sari 1 2 63, .sariX 1 2 0, .li 1 3, .liX 1 3 1, .lih 1 3, .lihX 1 3 1, .lea 1 0 3, .leaX 1 2 3 1] : List Instr).all (fun i => ready i base) = true := by decide +kernel

theorem test_alu_corners :
    let s := given [(2, 2 ^ 64 - 1), (3, 2 ^ 63), (4, 0x80000000)]
    after (.div 1 3 2 0 0) s (fun t => t.me.getG 1 == r64 (2 ^ 63)) = true ∧ after (.remn 1 2 0 0 0) s (fun t => t.me.getG 1 == r64 (2 ^ 64 - 1)) = true
    ∧ after (.sar 1 3 15 0 1) s (fun t => t.me.getG 1 == 0xFFFF000000000000) = true ∧ after (.add 1 4 4 1 0) s (fun t => t.me.getG 1 == 0) = true
    ∧ after (.mulh 1 2 2 0 0) s (fun t => t.me.getG 1 == 0) = true ∧ after (.clz 1 0 1) s (fun t => t.me.getG 1 == 32) = true := by decide +kernel

theorem witness_branches : ([.beq 1 2 0, .bne 1 2 0x1FFF, .blt 1 2 0x2000, .bge 1 2 1, .bltn 1 2 1, .bgen 1 2 1, .bez 1 1, .bnz 1 1, .j 0, .call 0x2000000] : List Instr).all (fun i => ready i base) = true := by decide +kernel

/-- Jumps to a misaligned address, to an aligned one, and to address 0 of a task and of a routine. -/
theorem witness_jumps :
    let s := given [(5, 0x1002), (6, 0x1004), (7, 0)]
    let r := one { regs task [(7, 0)] with routine := some ⟨0, 0x1000, 1, 5, 0, false, 9, 990, []⟩ }
    ready (.jr 5) s = true ∧ (s.getG 5).toNat % 4 ≠ 0 ∧ ready (.callr 6) s = true ∧ s.getG 6 ≠ 0 ∧ ready .ret s = true ∧ s.me.getLn = 0 ∧ s.me.routine = none ∧ ready (.jr 7) r = true ∧ r.me.routine ≠ none := by
  and_intros <;> first | decide +kernel | rfl

/-- LOOP at the end of a body, with a count of 0, with a full stack, and with room; LBRK with and without an entry. -/
theorem witness_loops :
    let full := one { task with loops := [⟨0x1004, 0x1010, 2, false, false⟩, ⟨0x1004, 0x1010, 2, false, false⟩, ⟨0x1004, 0x1010, 2, false, false⟩] }
    let atEnd := one { task with loops := [⟨0xFF0, 0x1000, 2, false, false⟩] }
    ready (.loop 0 0 1 1) base = true ∧ base.getG 1 = 0 ∧ ready (.loopi 1 1 4095 255) base = true ∧ base.me.loops.length < 3 ∧ ready (.loopi 0 0 1 1) full = true ∧ full.me.loops.length = 3
    ∧ (full.me.loops.head?.all (fun t => t.last != full.me.pc)) = true ∧ atEnd.me.issues = true ∧ (atEnd.me.loops.head?.any (fun t => t.last == atEnd.me.pc)) = true
    ∧ base.me.issues = true ∧ base.me.loops = [] ∧ ready .lbrk full = true := by
  and_intros <;> first | decide +kernel | rfl

/-- RPT with a body that may be replayed, and one of a word that may not or is outside the image; and the frame it runs in. -/
theorem witness_replay :
    let i := Instr.rpt 0 1 1 1 0 0
    let s := coded task [i.word.toNat, 0x04310C40]
    let f := coded { task with pc := 0x1004, rptOn := true, xstat := 0x8000000000000000 } [i.word.toNat, 0x04310C40]
    ready i s = true ∧ s.me.loops = [] ∧ s.capture 0 s.me.pc i.word = none ∧ (coded task [i.word.toNat, 0x7C000004]).capture 0 0x1000 i.word = some (1, 0x7C000004, 0x1000)
    ∧ (coded { task with pc := 0xFFFC } []).capture 0 0xFFFC i.word = some (3, 0x10000, 0x10000) ∧ ready i (coded { task with pc := 0xFFFC } []) = true
    ∧ f.wordAt 0 ((f.slot 0).pc - r64 (4 * ((f.slot 0).rptI + 1))) = some i.word ∧ (Rpt.ofWord i.word).len = 1 ∧ (f.slot 0).rptI + 1 = 1 ∧ (f.slot 0).rptJ + 1 < (Rpt.ofWord i.word).reps
    ∧ (Rpt.ofWord (Instr.rpt 1 0 1 1 0 0).word).len = 2 ∧ (Rpt.ofWord (Instr.rpt 1 0 1 1 0 0).word).reps = 1 := by
  and_intros <;> first | decide +kernel | rfl

/-- VIEW inside and outside the window; from a register with bases good, misaligned, and outside. -/
theorem witness_views :
    let s := given [(5, 8 + 448 * 2 ^ 16 + 512 * 2 ^ 32), (6, 4), (7, 8192 * 2 ^ 16)]
    ready (.view 2 1023) s = true ∧ 8 * 1023 < s.me.winSize ∧ (let t := one { task with winSize := 512 }
      ready (.view 0 64) t = true ∧ t.me.winSize ≤ 8 * 64)
    ∧ ready (.viewRegister 5) s = true ∧ (s.getG 5).toNat % 2 ^ 16 = 8 ∧ (s.getG 6).toNat % 8 ≠ 0 ∧ s.me.winSize ≤ (s.getG 7).toNat / 2 ^ 16 % 2 ^ 16 := by
  and_intros <;> first | decide +kernel | rfl

theorem witness_lanes :
    let n := { (base.setSlot 81920 { task with grant := 16 }) with cur := 81920 }
    isNib base.cur = false ∧ ([.lclaim 1 0, .lclaim 1 64, .lclaimRegister 1, .lrn 1, .lyield] : List Instr).all (fun i => ready i base) = true ∧ isNib n.cur = true ∧ ([.lclaim 1 8, .lclaimRegister 1, .lrn 1] : List Instr).all (fun i => ready i n) = true := by
  and_intros <;> first | decide +kernel | rfl

/-- SYSR of every listed number. -/
theorem witness_system_reads : ([0x000, 0x001, 0x002, 0x003, 0x004, 0x005, 0x006, 0x008, 0x010, 0x020, 0x021, 0x022, 0x023, 0x030, 0x031, 0x100, 0x101, 0x102, 0x103, 0x104, 0x105, 0x106, 0x107, 0x108, 0x109, 0x10A, 0x10B, 0x10C, 0x10D, 0x10E, 0x10F, 0x110, 0x111, 0x200] : List (BitVec 12)).all
    (fun n => ready (.sysr 1 n) base) = true ∧ isCore base.cur = true := by decide +kernel

/-- SYSW of values in and out of range, register by register: d = 1 to 9. -/
theorem witness_system_writes :
    let s := given [(1, 0x80), (2, 1 * 2 ^ 43), (3, 1), (4, 5), (5, 6), (6, 2), (7, 64), (8, 63), (9, 1000001)]
    ([0x000, 0x001, 0x002, 0x020, 0x021, 0x022, 0x023, 0x030, 0x031] : List (BitVec 12)).all (fun n => ready (.sysw 1 n) s) = true
    ∧ (bits (s.getG 1) 43 8 = 0 ∧ bits (s.getG 1) 8 24 = 0 ∧ bits (s.getG 1) 2 4 = 0 ∧ bits (s.getG 1) 0 2 = bits s.me.xstat 0 2) ∧ bits (s.getG 2) 43 8 ≠ 0 ∧ bits (s.getG 3) 0 2 ≠ bits s.me.xstat 0 2
    ∧ (bits (s.getG 4) 0 3 < 6 ∧ bits (s.getG 4) 3 5 = 0) ∧ 6 ≤ bits (s.getG 5) 0 3 ∧ (s.getG 6).toNat % 4 ≠ 0 ∧ (s.getG 0).toNat % 4 = 0 ∧ 64 ≤ (s.getG 7).toNat ∧ (s.getG 8).toNat < 64 ∧ 1000000 < (s.getG 9).toNat := by
  and_intros <;> first | decide +kernel | rfl

theorem witness_system :
    let dead : State := { base with tokens := [9] }
    let ctl : State := { State.reset with cur := 82176 }
    ([.trap 0 0, .trap 1 0x7FF, .trap 1 0x800, .brk 0xFFF, .nop, .canck, .yield, .exit] : List Instr).all (fun i => ready i base) = true ∧ base.me.routine = none ∧ base.taskDead base.me = false
    ∧ ready .canck dead = true ∧ dead.taskDead dead.me = true ∧ ready .halt ctl = true ∧ isControl base.cur = false ∧ base.me.issues = true := by
  and_intros <;> first | decide +kernel | rfl

/-- A status that waits for its trap; a service's operation, null and unknown; a value that arrives; a YIELD that ends. -/
theorem witness_services :
    let op : Op := { id := 7, owner := 0, task := 1, pid := 1, cluster := 0, pc := 0, lid := 5, ctok := 9, off := some 40, kind := .service 0 [] }
    let s := one { task with statusQ := [(8, 0x40)], notBefore := 1000 }
    s.takesStatus (hartOf 0 0) = true ∧ (s.slot (hartOf 0 0)).statusQ = [(8, 0x40)] ∧ (s.slot (hartOf 0 0)).notBefore ≠ 0 ∧ (s.slot (hartOf 0 0)).notBefore ≤ s.clk
    ∧ ({ base with ops := [op] } : State).op? 7 = some op ∧ ({ base with ops := [{ op with kind := .service 3 [] }] } : State).op? 7 = some { op with kind := .service 3 [] }
    ∧ ({ base with ops := [{ op with kind := .value 1 [] }] } : State).op? 7 = some { op with kind := .value 1 [] } ∧ (base.slot 0).uid = 1 ∧ (base.slot 0).live = true := by
  and_intros <;> first | decide +kernel | rfl

/-- LaneGrants: two slots of a core that ask for all 16 units have 8 each of the core's share; with two slots of the neighbour core as well, the share of each is 4. -/
theorem witness_lane_shares :
    let two := base.setSlot 1 { task with uid := 2, grant := 0 }
    let more := (two.setSlot 5 { task with uid := 3, grant := 0 }).setSlot 6 { task with uid := 4, grant := 0 }
    isTask base.cur = true ∧ (two.renegotiate 0).me.grant = 32 ∧ (more.renegotiate 0).me.grant = 16 ∧ (base.renegotiate 0).me.grant = 64
    ∧ Claims.fair 4 16 (fun i => if i < 2 then 16 else 0) (fun i => if i < 2 then 8 else 0) := by
  and_intros <;> first | decide +kernel | rfl | (unfold Claims.fair; decide +kernel)

/-- IssueTrapOrder: the registers a SPAWN refers to, with room in the deque and without. -/
theorem witness_spawn_refs :
    let full := base.modCore 0 (fun c => { c with deque := List.replicate 16 ⟨0x2000, [1, 2, 3, 4], 5, 7⟩ })
    (base.core (cidOf base.cur)).deque.length < 16 ∧ ¬ (full.core (cidOf full.cur)).deque.length < 16 ∧ full.refs (.spawn 10) = opds (.spawn 10) ++ [⟨.g 54, true, false⟩] ∧ (base.refs (.spawn 10)).length = 5 ∧ base.refs (.add 1 2 3 0 0) = opds (.add 1 2 3 0 0) := by
  and_intros <;> first | decide +kernel | rfl

/-! ## Hypotheses: memory -/

/-- An operation of the task of `base`. -/
def op (k : OpKind) : Op := { id := 7, owner := 0, task := 1, pid := 1, cluster := 0, pc := 0x1000, lid := 5, ctok := 9, kind := k }

def flyingOf (s : State) (o : Op) : State := { s with ops := [o] }
def flying (o : Op) : State := flyingOf base o

/-- A topology with one route, to part 3 over port 0. -/
def peerRoute : Topology := { sigOk := true, routes := [⟨3, 0, []⟩] }

/-- g5 = 0x100, g6 = 0x4000_0000, g7 = 0x104, g8 a word that is no address. -/
def memRegs : List (Nat × Nat) := [(5, 0x100), (6, 0x40000000), (7, 0x101), (8, 2 ^ 60), (9, 3)]

/-- Page tables of process 1 that map 0x4000_0000 (64 KiB) to physical page 256, readable and writable. -/
def mapped (s : State) : State :=
  { s with ext := [(0x200000, 0x201001), (0x201008, 0x202001), (0x202000, 0x203001), (0x203000, 0x1000007)].foldl (fun m (p : Nat × Nat) => Mem.write m p.1 8 p.2) [], procs := [(1, { root := some 0x200000 })] }

/-- A routine called by process 1. -/
def routine : Slot := { task with grant := 16, routine := some ⟨6, 0x1000, 1, 5, 0, false, 9, 990, []⟩ }

def nibBase : State := mapped { (base.setSlot 81920 (regs routine memRegs)) with cur := 81920 }
def handlerBase : State := { (base.setSlot 4 (regs routine memRegs)) with cur := 4 }

/-- LoadResults and StoreIssue: a core, a nib's local store and its channel, a handler, and refused accesses. -/
theorem witness_loads_stores :
    let s := given memRegs
    let a := Claims.scaled s 5 8 0
    s.accessesHeld = false ∧ ({ s with ops := [op (.acquire 0)] } : State).accessesHeld = true ∧ Claims.unheld s ∧ Claims.unheld nibBase ∧ Claims.unheld handlerBase ∧ s.softErrors = []
    ∧ ready (.ld 1 5 3 0 0) s = true ∧ ready (.ld 1 5 0 1 0x400) s = true ∧ isNib s.cur = false ∧ s.check a 8 true false = none ∧ s.ownBusy (a.toNat % 2 ^ 48) 8 = false ∧ s.check (Claims.scaled s 7 4 0) 4 true false = some 2 ∧ s.check (s.getG 8) 8 true false = some 3
    ∧ ready (.ld 1 5 3 0 0) nibBase = true ∧ isNib nibBase.cur = true ∧ (Claims.scaled nibBase 5 8 0).toNat % 8 = 0 ∧ (Claims.scaled nibBase 5 8 0).toNat < 0x10000 ∧ nibBase.nibCheck (Claims.scaled nibBase 6 8 0) 8 true false = .ok (some 0x1000000)
    ∧ ready (.st 1 5 3 0) s = true ∧ isTask s.cur = true ∧ s.check a 8 false true = none ∧ ready (.st 1 5 3 0) handlerBase = true ∧ isHandler handlerBase.cur = true ∧ handlerBase.check (Claims.scaled handlerBase 5 8 0) 8 false true = none
    ∧ ready (.st 1 6 3 0) nibBase = true ∧ nibBase.nibCheck (Claims.scaled nibBase 6 8 0) 8 false true = .ok (some 0x1000000) := by
  and_intros <;> first | exact unheld_of_no_ops _ rfl | decide +kernel | rfl

/-- LoadResults: a store of the task to SC storage is still on its way. -/
theorem witness_load_order :
    let s := flyingOf (one { regs task memRegs with sc := true }) (op (.store [(0x200, 8, 5)]))
    let p := op (.store [(0x200, 8, 5)])
    s.ops = [p] ∧ p.owner = s.cur ∧ p.task = s.me.uid ∧ p.pid = s.pidOf s.cur ∧ s.scAt 1 0x200 = true ∧ s.scAt 1 0x100 = true ∧ s.ownBusy 0x100 8 = true ∧ ready (.ld 1 5 3 0 0) s = true ∧ ready (.ld 60 5 3 0 0) { s with ops := [op (.acquire 0)] } = false := by
  and_intros <;> first | decide +kernel | rfl

/-- StoreArrival: an element still to come, and a store wholly at home. -/
theorem witness_store_arrival :
    let o := op (.store [(0x100, 8, 5)])
    let s := flying o
    s.op? 7 = some o ∧ s.earlierOwn o 0x100 8 = false ∧ s.spm.wf = true ∧ (∀ p ∈ s.ops, ∀ b w e, p.kind ≠ .waitw b w e)
    ∧ (op (.store [])).kind = .store [] ∧ 1 < ((one { task with acks := 2 }).slot 0).acks ∧ ((one { task with acks := 1 }).slot 0).acks = 1 ∧ (s.slot 0).live = true ∧ (s.slot 0).uid = o.task := by
  and_intros <;> first | decide +kernel | rfl | simp [flying, flyingOf, op]

/-- MultipleTransfers and MultipleTransferTrap: the first, a middle and the last granule, one held, a nib's, a progress beyond the last,
and a granule outside the scratchpads of the process. -/
theorem witness_multiple :
    let x := regs task [(5, 0x100), (6, 0xFFFFF8)]
    let at_ := fun (j : Nat) => one { x with xstat := r64 (j * 2 ^ 32) }
    let held : State := { at_ 0 with ops := [op (.acquire 0)] }
    ([0, 5, 31].all (fun j => (at_ j).me.ldmJ == j && ready (.ldm 8 5 31 0) (at_ j) && ready (.stm 8 5 31 0) (at_ j) && ((at_ j).check (0x100 + r64 (8 * j)) 8 true false).isNone && ((at_ j).check (0x100 + r64 (8 * j)) 8 false true).isNone
      && !(at_ j).ownBusy (0x100 + 8 * j) 8) = true) ∧ (at_ 0).softErrors = [] ∧ isTask (at_ 0).cur = true ∧ (at_ 0).accessesHeld = false ∧ held.accessesHeld = true ∧ ready (.ldm 8 5 31 0) held = true
    ∧ isTask nibBase.cur = false ∧ ready (.ldm 10 5 3 0) nibBase = true ∧ nibBase.check (nibBase.getG 5) 8 true false = none ∧ ready (.stm 10 5 3 0) nibBase = true ∧ nibBase.check (nibBase.getG 5) 8 false true = none
    ∧ (at_ 2).me.ldmJ = 2 ∧ ready (.ldm 8 5 1 0) (at_ 2) = true ∧ ready (.stm 8 5 1 0) (at_ 2) = true
    ∧ (at_ 1).me.xvec ≠ 0 ∧ (at_ 1).me.xstat.getLsbD 7 = false ∧ (at_ 1).me.routine = none ∧ ready (.ldm 8 6 1 0) (at_ 1) = true ∧ ready (.stm 8 6 1 0) (at_ 1) = true
    ∧ (at_ 1).check ((at_ 1).getG 6 + 8) 8 true false = some 3 ∧ (at_ 1).check ((at_ 1).getG 6 + 8) 8 false true = some 3 := by
  and_intros <;> first | decide +kernel | rfl

/-- FullEmptyIssue, FullEmptyPerformed and WordWait. -/
theorem witness_full_empty :
    let s := given memRegs
    let b := flyingOf s (op (.fullEmpty 2 0x100 5))
    let u := one { regs task memRegs with acks := 1 }
    s.softErrors = [] ∧ ready (.stfe 1 5 0) u = true ∧ ready (.stf 1 5 0) u = true ∧ u.me.acks ≠ 0 ∧ u.coreCheck (Claims.scaled u 5 8 0) 8 = none
    ∧ ready (.waitw 9 5 0) b = true ∧ b.ownBusy 0x100 8 = true ∧ b.coreCheck (Claims.scaled b 5 8 0) 8 = none ∧ s.ownBusy 0x100 8 = false
    ∧ s.coreCheck (Claims.scaled s 5 8 0) 8 = none ∧ Claims.unheld s ∧ (s.core (cidOf s.cur)).bufWait = [] ∧ s.bufUsed (cidOf s.cur) < 8 ∧ s.me.acks = 0
    ∧ ready (.ldfe 0 5 0) s = true ∧ ready (.ldff 1 5 0) s = true ∧ ready (.stfe 1 5 0) s = true ∧ ready (.stf 1 5 0) s = true
    ∧ ready (.waitw 9 5 0) s = true ∧ s.monitors (clusterOf s.cur) < 64 ∧ Mem.read (s.view s.cur) 0x100 8 ≠ (s.getG 9).toNat ∧ ready (.waitw 0 5 0) s = true ∧ Mem.read (s.view s.cur) 0x100 8 = (s.getG 0).toNat := by
  and_intros <;> first | exact unheld_of_no_ops _ rfl | decide +kernel | rfl

theorem witness_full_empty_owner :
    let o := { op (.fullEmpty 0 0x100 5) with off := some 40 }
    let s := flyingOf { (one { task with blocked := some 7 }) with full := [0x100] } o
    s.op? 7 = some o ∧ o.stage = 0 ∧ s.earlierOwn o 0x100 8 = false ∧ s.spm.wf = true ∧ (∀ p ∈ s.ops, p.id ≠ 7 → (∀ b w e, p.kind ≠ .waitw b w e) ∧ ∀ q w, p.kind ≠ .fullEmpty q 0x100 w)
    ∧ s.full.contains 0x100 = true ∧ (s.slot 0).live = true ∧ (s.slot 0).blocked = some 7 ∧ (s.slot 0).loops = [] ∧ (s.slot 0).win.wf = true ∧ o.off.isSome = true ∧ (flying o).full.contains 0x100 = false
    ∧ (let q := op (.waitw 0x100 0 false)
       let v := op (.waitw 0x100 1 false)
       (flying q).op? 7 = some q ∧ q.due ≤ (flying q).clk ∧ Mem.read ((flying q).viewBefore q) 0x100 8 = 0 ∧ (flying v).op? 7 = some v ∧ Mem.read ((flying v).viewBefore v) 0x100 8 ≠ 1) := by
  and_intros <;> first | decide +kernel | rfl | simp [flyingOf, op]

/-- AtomicIssue: every function, with and without .NR, .ACQ, .REL. -/
theorem witness_atomics :
    let s := given memRegs
    let full : State := { s with ops := (List.range 16).map (fun i => { op (.value 0 []) with id := i, call := true }) }
    let bad : State := { s with softErrors := [.storage 0x100 true] }
    16 ≤ full.callsUsed full.cur ∧ ready (.aadd 1 5 9 0 0 0) full = true ∧ bad.atomicBroken (bad.getG 5) 8 = true ∧ bad.atomicCheck (bad.getG 5) 8 = none ∧ ready (.aadd 1 5 9 0 0 0) bad = true ∧ s.atomicBroken (s.getG 5) 8 = false ∧ Claims.buffered s
    ∧ (one { regs task memRegs with acks := 1 }).me.acks ≠ 0 ∧ ready (.aadd 1 5 9 0 0 2) (one { regs task memRegs with acks := 1 }) = true
    ∧ s.me.routine = none ∧ s.atomicCheck (s.getG 5) 8 = none ∧ s.atomicCheck (s.getG 5) 4 = none ∧ s.me.acks = 0 ∧ s.callsUsed s.cur < 16
    ∧ ([.aadd 1 5 9 0 0 0, .aand 1 5 9 1 0 1, .aor 1 5 9 0 0 2, .axor 1 5 9 0 0 0, .amin 1 5 9 0 0 0, .amax 1 5 9 0 0 0, .aminn 1 5 9 0 0 0, .amaxn 0 5 9 0 1 0, .aswp 1 5 9 0 0 0, .acas 1 5 9 0 0 0, .faadd 1 5 9 0 0 0, .famin 1 5 9 0 0 0, .famax 0 5 9 1 1 2] : List Instr).all (fun i => ready i s) = true := by
  and_intros <;> first | decide +kernel | rfl

/-- AtomicAtOwner and AtomicReplyArrival. -/
theorem witness_atomic_owner :
    let k := OpKind.atomic 0 8 0x100 1 0 0 false .rne 0
    let o := op k
    let s := flying o
    s.op? 7 = some o ∧ o.stage = 0 ∧ s.arrived o = true ∧ s.callWaits (hartOf 0 4) = false ∧ s.holds 1 0 = true ∧ s.heldBack o = false ∧ s.address 0x100 = some (0x100, none) ∧ onChip 0x100 = true ∧ (s.slot (hartOf 0 4)).live = false ∧ s.cacheFull (hartOf 0 4) = false ∧ s.earlierOwn o 0x100 8 = false ∧ s.earlierCall o (hartOf 0 4) = false
    ∧ s.coresOut.contains 0 = false ∧ s.softErrors = [] ∧ (∀ p ∈ s.ops, ∀ b w x, p.kind ≠ .waitw b w x)
    ∧ (let r := { o with stage := 1, off := some 40, reply := [9] }
       (flying r).op? 7 = some r ∧ r.stage = 1 ∧ (flying r).arrived r = true ∧ (flying r).earlierReply r 4 = false ∧ (flying r).callUnit 0x100 = 4 ∧ (s.slot 0).retiring = false ∧ r.status = 0 ∧ (s.slot 0).win.wf = true)
    ∧ (let r := { op (.atomic 0 8 0x100 1 0 0 true .rne 0) with stage := 1, status := 3 }
       (flying r).op? 7 = some r ∧ r.status ≠ 0) := by
  and_intros <;> first | decide +kernel | rfl | simp [flying, flyingOf, op]

/-- ReductionAtMemory: RADD aligned and not; at the combiner, and with an address that is no external memory; at the nib, free and running a
routine. -/
theorem witness_reduction :
    let s := given memRegs
    let o := op (.radd 0x40000000 false 0x3F800000)
    let c := (flying o).modCluster 0 (fun c => { c with comb := [⟨0x40000000, some 0x1000000, false, [(0, 0x3F800000)]⟩] })
    let f : Forward := ⟨7, ⟨0x40000000, 0, false, 0x3F800000, 1, 0x1000000⟩⟩
    (({ base with forwards := [f] } : State).setSlot 81920 routine).forwards.find? (fun g => g.n == 7) = some f ∧ ((({ base with forwards := [f] } : State).setSlot 81920 routine).slot (81920 + channelOf f.sum.addr)).live = true ∧ (base.slot (81920 + channelOf f.sum.addr)).live = false
    ∧ (flying (op (.radd 0x100 false 0))).address 0x100 = some (0x100, none) ∧ onChip 0x100 = true ∧ (flying (op (.radd 0x100 false 0))).heldBack (op (.radd 0x100 false 0)) = false
    ∧ ready (.radd 6 9 0) s = true ∧ Claims.buffered s ∧ (s.getG 6).toNat % 4 = 0 ∧ Claims.unheld s ∧ ready (.radd 7 9 1) s = true ∧ (s.getG 7).toNat % 8 ≠ 0
    ∧ c.op? 7 = some o ∧ (∀ p ∈ c.ops, p.id = 7 ∨ ∀ x y z, p.kind ≠ .radd x y z) ∧ c.address 0x40000000 = some (0x40000000, none) ∧ onChip 0x40000000 = false ∧ (c.cluster 0).comb = [⟨0x40000000, some 0x1000000, false, [(0, 0x3F800000)]⟩]
    ∧ Tab.get? [(0, 0x3F800000)] (4 * coreOf 0 + slOf 0) = some 0x3F800000 ∧ (({ base with forwards := [f] } : State).forwards.find? (fun g => g.n == 7)) = some f ∧ (base.nib (channelOf 0x40000000)).sums = [] := by
  and_intros <;> first | exact unheld_of_no_ops _ rfl | decide +kernel | rfl | simp [flying, flyingOf, op, State.modCluster]

/-- FenceCompletion: with stores out, with none, with RED, and with one sum to flush. -/
theorem witness_fence :
    let e : CombEntry := ⟨0x40000000, some 0x1000000, false, [(0, 0x3F800000)]⟩
    let s := base.modCluster 0 (fun c => { c with comb := [e] })
    ready (.fence 1 5) base = true ∧ ready (.fence 0 0) (one { task with acks := 1 }) = true ∧ (one { task with acks := 1 }).me.acks ≠ 0 ∧ Claims.unheld base ∧ base.me.acks = 0 ∧ base.me.midway = none ∧ base.forwards = [] ∧ (base.cluster 0).comb = []
    ∧ ready (.fence 1 5) s = true ∧ (s.cluster 0).comb = [e] ∧ e.phys = some 0x1000000 ∧ e.sum = some 0x3F800000 := by
  and_intros <;> first | exact unheld_of_no_ops _ rfl | decide +kernel | rfl

/-- AcquireAndRelease and BindingChanges. -/
theorem witness_ordering :
    let s := given [(5, 2 ^ 62 + 0x100), (6, 2 ^ 54), (10, 2 ^ 62 + 0x100), (11, 0x200), (12, 64), (13, 2 ^ 62 + 0x100), (14, 0x204), (15, 64), (16, 2 ^ 62), (17, 0x200), (18, 4), (20, 2 ^ 62), (21, 2 ^ 60), (22, 64), (24, 0x200), (25, 64)]
    s.objectTrap (s.getG 5) = none ∧ ready (.acq 5) s = true ∧ ready (.rel 5) s = true ∧ s.me.acks = 0 ∧ ready (.rel 5) (one { regs task [(5, 2 ^ 62 + 0x100)] with acks := 1 }) = true ∧ bits (s.getG 6) 54 8 ≠ 0 ∧ s.objectTrap (s.getG 6) = some (1, s.getG 6)
    ∧ (flying (op (.acquire 0))).op? 7 = some (op (.acquire 0)) ∧ ready (.bind 10) s = true ∧ s.regionBase (s.getG 11) 64 = some 0x200 ∧ s.bound (s.pidOf s.cur) = [] ∧ ready (.bind 13) s = true ∧ (s.getG 14).toNat % 8 ≠ 0
    ∧ ready (.bind 16) s = true ∧ (s.getG 18).toNat % 8 ≠ 0 ∧ ready (.bind 20) s = true ∧ s.regionBase (s.getG 21) 64 = none ∧ s.objectTrap (s.getG 20) = none ∧ ready (.unbind 24) s = true ∧ s.address (s.getG 24) = some (0x200, none)
    ∧ (flying (op (.bind 1 0x200 64))).op? 7 = some (op (.bind 1 0x200 64)) ∧ (flying (op (.unbind 0x200 64))).op? 7 = some (op (.unbind 0x200 64)) := by
  and_intros <;> first | decide +kernel | rfl

/-- HeldAccesses: a load behind an acquire, at issue, held, and free; a store and a copy behind one. -/
theorem witness_held :
    let a := op (.acquire 0)
    let l := { op (.load [(0x100, 8, 0)] 0 0) with id := 8, off := some 40 }
    let w := { op (.store [(0x100, 8, 5)]) with id := 8 }
    let c := { op (.copy (.cpy 0x100 0x200 8)) with id := 8 }
    let s : State := { given memRegs with ops := [a] }
    let held := fun (o : Op) => ({ base with ops := [a, o] } : State)
    let f : State := { base with ops := [l] }
    ready (.ld 1 5 3 0 0) s = true ∧ isTask s.cur = true ∧ s.check (Claims.scaled s 5 8 0) 8 true false = none ∧ s.softErrors = [] ∧ (s.ops = [a] ∧ a.owner = s.cur ∧ a.task = s.me.uid ∧ a.kind = .acquire 0)
    ∧ (held l).op? 8 = some l ∧ (held w).op? 8 = some w ∧ (held c).op? 8 = some c ∧ a.owner = l.owner ∧ a.task = l.task ∧ a.id < l.id ∧ f.op? 8 = some l ∧ l.off = some 40 ∧ (∀ p ∈ f.ops, p.owner = l.owner → l.id ≤ p.id) ∧ (f.slot 0).live = true ∧ (f.slot 0).uid = l.task
    ∧ ([.store [(0x100, 8, 5)], .fullEmpty 0 0x100 5, .atomic 0 8 0x100 1 0 0 false .rne 0, .radd 0x40000000 false 0, .copy (.cpy 0x100 0x200 8)] : List OpKind).all (fun k => !(flying (op k)).heldBack (op k)) = true := by
  and_intros <;> first | decide +kernel | rfl

/-- R243: the slot goes on with the register pending and its bytes as they were. -/
theorem test_held_load : after (.ld 1 5 3 0 0) { given memRegs with ops := [op (.acquire 0)] } (fun t => t.me.pc == 0x1004 && t.me.pend.length == 1 && t.getG 1 == 0) = true := by decide +kernel

/-- StationsAndPages and StationInvalidation. -/
theorem witness_translation :
    let w : Walk := ⟨1, 0x40000000, 5⟩
    let s := (mapped base).modStation 0 (fun t => { t with walks := [w] })
    let u := base.modStation 0 (fun t => { t with walks := [w] })
    base.cached 1 0x40000000 = none ∧ (base.station (0x40000000 / 65536 % 256 / 8)).walks = [] ∧ (s.station 0).walks = [w] ∧ s.cached 1 0x40000000 = none ∧ s.walk 1 0x40000000 = some (0, 0x1000007) ∧ (w.va / pageSize 0 = 0x4000FFF8 / pageSize 0) ∧ u.walk 1 w.va = none ∧ w.va / 65536 = 0x4000FFF8 / 65536
    ∧ s.softErrors = [] ∧ s.nibs = [] ∧ ((s.modStation 0 (fun t => { t with walks := [] })).foldWalk 1 0x40000000).walk 1 0x40000000 = some (0, 0x1000007) ∧ leafOk 0 0x1000007 0x40000000 = true ∧ (s.station 0).off = false
    ∧ ((u.modStation 0 (fun t => { t with walks := [] })).foldWalk 1 0x40000000).walk 1 0x40000000 = none
    ∧ (let o := op (.service 1 [0x40000000, 3])
       (flying o).op? 7 = some o ∧ 2 < (3 : Reg64).toNat)
    ∧ (let o := op (.service 2 [0x40000000])
       let f := flyingOf ((mapped base).modStation 3 (fun t => { t with cache := [⟨1, 0x4000, 0, 0x1000007⟩] })) o
       f.op? 7 = some o ∧ (f.proc 1).root = some 0x200000 ∧ leafAddr (f.foldWalk 1 0x40000000).ext 4 0x200000 0x40000000 = some (0, 0x203000) ∧ (f.stations.all (fun q => q.2.walks.isEmpty)) = true ∧ f.stations ≠ []
       ∧ ((flyingOf s o).stations.any (fun q => q.2.walks.any (fun w => w.pid == o.pid))) = true ∧ (base.proc 1).root = none)
    ∧ isControl 82176 = true ∧ ({ State.reset with cur := 82176 } : State).me.issues = true
    ∧ (let o := op (.txinv 0 1 0x4000)
       (flying o).op? 7 = some o ∧ ((flyingOf s o).stations.any (fun q => q.2.walks.any (fun w => decide (w.born ≤ 7)))) = true ∧ (flying o).stations = []) := by
  and_intros <;> first | decide +kernel | rfl

/-- StationsAndPages: a page that system software maps. -/
theorem witness_map_page :
    let o := op (.service 1 [0x40000000, 0])
    let s := flyingOf { base with procs := [(1, { root := some 0x200000, ranges := [⟨0x40000000, 0x10000, none⟩] })], freePages := [256], freeTables := [0x201000, 0x202000, 0x203000] } o
    let v := s.foldWalk 1 0x40000000
    s.op? 7 = some o ∧ (s.proc 1).ranges.find? (fun r => r.base ≤ 0x40000000 && 0x40000000 + pageSize 0 ≤ r.base + r.size) = some ⟨0x40000000, 0x10000, none⟩ ∧ v.walk 1 0x40000000 = none ∧ v.pageFor 0 0x40000000 = some 256
    ∧ (v.proc 1).root = some 0x200000 ∧ (v.tableFor 0 0x40000000 4 0x200000).map (fun p => p.2) = some 0x203000 := by
  and_intros <;> first | decide +kernel | rfl

/-- AtomicAtOwner: a floating-point add that is inexact; AtomicReplyArrival: the reply of one that a control core issued. -/
theorem witness_atomic_add :
    let o := op (.atomic 10 8 0x100 (r64 0x3FF0000000000000) 0 0 false .rne 0)
    let s : State := { flying o with spm := Mem.write [] 0x100 8 0x3C00000000000000 }
    let r : Op := { op (.atomic 0 8 0x100 1 0 0 true .rne 0) with owner := ctlHart 3, task := 0, cluster := 64, stage := 1, status := 3 }
    let c := flyingOf base r
    s.op? 7 = some o ∧ s.arrived o = true ∧ s.spm.wf = true ∧ after (.atomicAtOwner 7) s (fun t => t.ops.any (fun p => p.flags == 1) && Mem.read t.spm 0x100 8 == 0x3FF0000000000000) = true
    ∧ c.op? 7 = some r ∧ (c.slot r.owner).live = true ∧ (c.slot r.owner).uid = r.task ∧ c.arrived r = true ∧ c.earlierReply r (c.callUnit 0x100) = false
    ∧ after (.atomicReply 7) c (fun t => t.mgmtErrs.length == 1 && (Claims.lastRecord t 64).any (fun f => f.kind == 2 && f.status == 3) && (t.slot r.owner).statusQ == [(3, 0x100)]) = true := by
  and_intros <;> first | decide +kernel | rfl

/-! ## Hypotheses: phasers, messages, tasks and launches -/

/-- PhaserMembership: PHNEW with and without a reservation; PHJOIN, PHLEAVE and PHFREE. -/
theorem witness_phaser_members :
    let m : Member := ⟨1, true, true, false, 0, 3⟩
    let p : Phaser := { creator := 1, members := [m] }
    let s := (one { task with phLeft := 1 }).modCluster 0 (fun c => { c with phasers := [(0, p), (1, { p with members := [] })] })
    let s := s.putG 5 1
    ready (.phnew 5 3) s = true ∧ s.me.phLeft ≠ 0 ∧ 2 < 512 ∧ Tab.get? (s.cluster (clusterOf s.cur)).phasers 2 = none ∧ ready (.phnew 0 1) base = true ∧ base.me.phLeft = 0
    ∧ s.named (s.getG 5) = .ok (1, { p with members := [] }) ∧ ready (.phjoin 5 3) s = true ∧ ({ p with members := [] } : Phaser).member? s.me.uid = none ∧ s.named (s.getG 0) = .ok (0, p) ∧ p.member? s.me.uid = some m ∧ ready (.phleave 0) s = true ∧ s.me.acks = 0 ∧ (s.modMe (fun x => { x with acks := 1 })).me.acks ≠ 0 ∧ ready (.phleave 0) (s.modMe (fun x => { x with acks := 1 })) = true
    ∧ m.sigMode = true ∧ p.orphan = false ∧ ready (.phfree 5) s = true ∧ p.creator = s.me.uid ∧ ready (.phfree 0) s = true ∧ (∀ r ∈ p.members, r.uid = s.me.uid) := by
  and_intros <;> first | decide +kernel | rfl

/-- PhaserSignalsAndWaits: the last to signal, and one of two; signal-only and wait-only members; a completed phase and one to come. -/
theorem witness_phaser_signals :
    let m : Member := ⟨1, true, true, false, 0, 3⟩
    let at0 := fun (p : Phaser) => base.modCluster 0 (fun c => { c with phasers := [(0, p)] })
    let p : Phaser := { creator := 1, members := [m] }
    let q : Phaser := { creator := 1, members := [m, { m with uid := 2 }] }
    let s := at0 p
    s.named (s.getG 0) = .ok (0, p) ∧ s.phaser? 0 = some p ∧ p.member? s.me.uid = some m ∧ p.group = none ∧ ready (.phsig 0) s = true ∧ s.me.acks = 0 ∧ m.sig = false ∧ m.wp = p.phase ∧ ready (.phnext 0) s = true ∧ s.me.midway = none
    ∧ (let u := s.modMe (fun x => { x with acks := 1 }); u.me.acks ≠ 0 ∧ ready (.phsig 0) u = true ∧ ready (.phnext 0) u = true ∧ u.me.midway = none)
    ∧ ¬ (∃ r ∈ (p.modMember s.me.uid (fun r => { r with sig := true })).members, r.sigMode = true ∧ r.sig = false) ∧ (∃ r ∈ (q.modMember s.me.uid (fun r => { r with sig := true })).members, r.sigMode = true ∧ r.sig = false)
    ∧ (at0 q).named ((at0 q).getG 0) = .ok (0, q) ∧ ready (.phwait 0) s = true ∧ m.wp < ({ p with phase := 1 } : Phaser).phase ∧ p.phase ≤ m.wp ∧ (∃ r ∈ p.members, r.sigMode = true) ∧ ({ m with sigMode := false } : Member).sigMode = false := by
  and_intros <;> first | decide +kernel | rfl

/-- QueueSendAndPeek: the four outcomes of an arrival. -/
theorem witness_queue_send :
    let o := op (.qsend 0 1 77)
    let s := flying o
    let live := s.setSlot 1 { task with uid := 2 }
    ready (.qsend 5 0) base = true ∧ (base.core (cidOf base.cur)).bufWait = [] ∧ base.bufUsed (cidOf base.cur) < 8 ∧ ([56, 57, 58, 59, 63] : List (BitVec 6)).all (fun p => ready (.qpeek 5 p) base) = true
    ∧ s.op? 7 = some o ∧ s.earlierMsg o = false ∧ ({ s with coresOut := [0] } : State).coresOut.contains 0 = true ∧ ({ s with clustersOut := [0] } : State).clustersOut.contains 0 = true ∧ s.coresOut.contains 0 = false ∧ s.clustersOut.contains 0 = false ∧ (s.slot (hartOf 0 1)).live = false ∧ (live.slot (hartOf 0 1)).live = true ∧ (live.slot (hartOf 0 1)).q3.length < 4
    ∧ 4 ≤ ((s.setSlot 1 { task with uid := 2, q3 := [1, 2, 3, 4] }).slot (hartOf 0 1)).q3.length := by
  and_intros <;> first | decide +kernel | rfl

/-- MessagesSentAndDelivered: the outcomes of an arrival (15 and 16 messages, one held, a saved task, another process's core, a part that
cannot be reached and one that can), a retry, and a held message. -/
theorem witness_messages :
    let o := op (.msg true 0 1 0 [1, 2, 3])
    let m := op (.msg false 0 1 3 [1, 2, 3])
    let s := flying o
    let live := fun (n : Nat) (h : List (List Reg64)) => s.setSlot 1 { task with uid := 2, inbox := List.replicate n [1], held := h }
    let later := { o with stage := 1, due := 1000 }
    ready (.msend 5 0 2) base = true ∧ ready (.msendw 5 6 4) base = true ∧ s.op? 7 = some o ∧ o.stage = 0 ∧ s.earlierMsg o = false ∧ s.arrived o = true ∧ (flying later).op? 7 = some later ∧ later.due ≤ (flying later).clk
    ∧ s.canReach o.owner (hartOf 0 1) = true ∧ s.domIndex = 0 ∧ (flying m).canReach 0 (2 ^ 20 + 3) = false
    ∧ s.coresOut.contains 0 = false ∧ s.clustersOut.contains 0 = false ∧ s.holds o.pid 0 = true ∧ s.holds o.pid 1 = false ∧ (s.slot (hartOf 0 1)).live = false ∧ s.saved = []
    ∧ (live 16 []).canReach 0 (hartOf 0 1) = true ∧ ((live 16 []).slot (hartOf 0 1)).live = true ∧ ((live 16 []).slot (hartOf 0 1)).inbox.length = 16 ∧ ((live 15 []).slot (hartOf 0 1)).inbox.length = 15 ∧ ((live 15 []).slot (hartOf 0 1)).held = []
    ∧ ((live 15 [[2]]).slot (hartOf 0 1)).inbox.length < 16 ∧ ((live 15 [[2]]).slot (hartOf 0 1)).held = [[2]]
    ∧ (∃ v ∈ ({ s with saved := [⟨0, 1, task⟩] } : State).saved, v.cid = 0 ∧ v.sl = 1) := by
  and_intros <;> first | decide +kernel | rfl | exact ⟨_, List.mem_singleton_self _, rfl, rfl⟩

theorem witness_message_to_peer :
    let m := { op (.msg false 0 1 3 [1, 2, 3]) with die := 7 }
    let s : State := { flying m with domSize := 4, ports := 1, topology := peerRoute }
    s.op? 7 = some m ∧ m.id = 7 ∧ 3 ≠ s.domIndex.toNat ∧ s.canReach m.owner (2 ^ 20 + 3) = true ∧ s.arrived m = true ∧ s.earlierMsg m = false := by
  and_intros <;> decide +kernel

/-- A launch of process 1 held at die 0, one of its four tasks placed. -/
def launch5 : Launch := { lid := 5, die := 0, pid := 1, seq := 1, accepted := 0, entry := 0x1000, args := 0x40000000, count := 4, token := 9, pred0 := 0, pred1 := 0, clusters := 1, window := 256, scratch := 0, phasers := 0, prio := 3, notify := false, sc := false, watch := false, origin := .firmware, next := 1, eligible := some 0 }

/-- SpawnedChildren: a misaligned entry, room in the deque, a full deque, and a child that starts. -/
theorem witness_spawn :
    let s := given [(5, 0x2002), (10, 0x2000)]
    let child : Child := ⟨0x2000, [1, 2, 3, 4], 5, 7⟩
    let full := s.modCore 0 (fun c => { c with deque := List.replicate 16 child })
    let l := ({ s with launches := [launch5] } : State).modCore 0 (fun c => { c with deque := [child] })
    ready (.spawn 5) s = true ∧ (s.getG 5).toNat % 4 ≠ 0 ∧ ready (.spawn 10) s = true ∧ (s.getG 10).toNat % 4 = 0 ∧ (s.core (cidOf s.cur)).deque.length < 16 ∧ ready (.spawn 10) full = true ∧ 16 ≤ (full.core (cidOf full.cur)).deque.length ∧ full.me.win.wf = true
    ∧ (l.core 1).deque = [] ∧ (l.core 0).deque = [child] ∧ child.args = [1, 2, 3, 4] ∧ l.launch? child.lid = some launch5 ∧ (l.core 0).probedAt ≠ some l.clk
    ∧ ((l.modSlot 0 (fun x => { x with winSize := 256 })).placeFor child.lid 0 launch5.window 0 0).isSome = true := by
  and_intros <;> first | decide +kernel | rfl

/-- StealProbes: before its next probe is due, a victim with children, and one without. -/
theorem witness_steal :
    let s := (base.modCore 1 (fun c => { c with lfsr := 2 ^ 15 })).modCore 5 (fun c => { c with deque := [⟨0x2000, [1, 2, 3, 4], 5, 7⟩] })
    let v := s.modCore 1 (fun c => { c with lfsr := 2 })
    s.coreIdle 1 = true ∧ (s.core 1).probeDue ≤ s.clk ∧ s.clk < ((s.modCore 1 (fun c => { c with probeDue := 1001 })).core 1).probeDue ∧ (s.core 1).deque = []
    ∧ v.coreIdle 1 = true ∧ ((2 : BitVec 16) <<< 1).toNat % 256 = 4 ∧ ((v.modCore 4 (fun c => { c with deque := [⟨0x2000, [1, 2, 3, 4], 5, 7⟩] })).core 4).deque ≠ [] ∧ v.coreIn 4 = true ∧ (v.core 4).deque = []
    ∧ (s.modCore 1 (fun c => { c with lfsr := 0x8000 })).coreIdle 1 = true ∧ ((0x8000 : BitVec 16) <<< 1 ||| 1).toNat % 256 = 1 ∧ ((v.modCore 4 (fun c => { c with probedAt := some 1000 })).core 4).probedAt = some v.clk := by
  and_intros <;> first | decide +kernel | rfl

/-- ForkAndRecruitment: a misaligned continuation, no iterations, several; recruitment that places and that does not. -/
theorem witness_fork :
    let s := given [(13, 0x2002), (18, 8), (20, 0x2000)]
    let o := { op (.fork 0 8 1 0x2000 [1, 2, 3, 4, 5]) with off := some 8 }
    let f := flyingOf (one { task with winSize := 256 }) o
    let cells := f.modCluster 0 (fun c => { c with cells := (List.range 128).map (fun n => (n, ⟨2, 5, 0⟩)) })
    ready (.fork 10) s = true ∧ (s.getG 13).toNat % 4 ≠ 0 ∧ ready (.fork 20) s = true ∧ s.getG 21 = 0 ∧ (s.getG 23).toNat % 4 = 0 ∧ ready (.fork 17) s = true ∧ s.getG 18 ≠ 0 ∧ (s.getG 20).toNat % 4 = 0
    ∧ f.op? 7 = some o ∧ (f.slot 0).live = true ∧ o.id = 7 ∧ o.off = some 8 ∧ (f.slot 0).uid = o.task ∧ (f.slot 0).win.wf = true ∧ ([1, 2, 3, 4, 5] : List Reg64).length = 5 ∧ freeNumber (f.cluster 0).cells 128 = some 0 ∧ freeNumber (cells.cluster 0).cells 128 = none := by
  and_intros <;> first | decide +kernel | rfl

theorem witness_recruit : (State.plan 5 256 (recruitOrder (cidOf 0)) 7 (flyingOf (one { task with winSize := 256 }) (op (.fork 0 8 1 0x2000 [1, 2, 3, 4, 5])))).length ≠ 0 :=
  fun h => State.plan_ne_nil 5 256 0 7 (recruitOrder (cidOf 0)) _ ⟨1, 256, 0⟩ (by decide) (by decide +kernel) (by decide +kernel) (List.length_eq_zero_iff.1 h)

/-- JoinCompletion: an address, a misaligned one, no cell, the last part, another part, and stores still out. -/
theorem witness_join :
    let s := (given [(5, 2 ^ 63), (6, 0x2000), (7, 0x2002), (8, 2 ^ 63 + 1), (9, 2 ^ 63 + 127)]).modCluster 0 (fun c => { c with cells := [(0, ⟨1, 5, 0x2000⟩), (1, ⟨2, 5, 0x2000⟩)] })
    let out := (one { regs task [(5, 2 ^ 63)] with acks := 1 }).modCluster 0 (fun c => { c with cells := [(0, ⟨1, 5, 0x2000⟩)] })
    ([5, 6, 7, 8, 9] : List (BitVec 6)).all (fun r => ready (.joinc r) s) = true ∧ (s.getG 6).getLsbD 63 = false ∧ (s.getG 7).toNat % 4 ≠ 0 ∧ (s.getG 5).getLsbD 63 = true ∧ Tab.get? (s.cluster 0).cells 127 = none ∧ Tab.get? (s.cluster 0).cells 0 = some ⟨1, 5, 0x2000⟩
    ∧ s.me.lid = 5 ∧ s.drained 0 none = true ∧ ready (.joinc 5) out = true ∧ out.drained 0 none = false := by
  and_intros <;> first | decide +kernel | rfl

/-- LaunchRecords: a record with a fault, and one without. -/
theorem witness_launch_records :
    let good : List Reg64 := [0x1000, 0x40000000, 1, 4, 9, r64 (256 * 2 ^ 0), 0, 0]
    let o := { op (.launch good) with off := some 40 }
    let s := flyingOf base o
    ready (.launch 8 1) base = true ∧ s.ops = [o] ∧ o.owner < 81920 ∧ o.off = some 40 ∧ s.rejectCode 0 1 false [0x1000, 0, 0, 0, 0, 0, 0, 1] = 1 ∧ s.rejectCode 0 1 false good = 0 ∧ s.launches = [] ∧ s.tokens = [] ∧ bits (good.getD 3 0) 0 32 ≠ 0 := by
  and_intros <;> first | decide +kernel | rfl

/-- TaskPlacementAndPriority: a task placed on core 0 of cluster 0 whose image is resident; a launch that ages and one that reserves. -/
theorem witness_placement :
    let s := ({ State.reset with clk := 200000, launches := [launch5] } : State).modCluster 0 (fun c => { c with pid := some 1, frames := [⟨0, 1, [5]⟩], images := [⟨5, 0, [0]⟩] })
    let a := s.reserve (launch5.age s.clk)
    let s' : State := { s with launches := [a] }
    launch5.clusters.getLsbD 0 = true ∧ s'.unplaced a = true ∧ (s'.firstFit a).map (fun p => p.1) = some 0 ∧ s'.imageFault 0 a = none ∧ (s'.loadImage 0 a).isSome = true
    ∧ launch5.eligible = some 0 ∧ launch5.next < launch5.count ∧ s.unplaced launch5 = true ∧ 180000 ≤ s.clk - launch5.waitFrom ∧ launch5.prio < 7 ∧ ({ launch5 with prio := 7 } : Launch).prio = 7 ∧ ({ launch5 with eligible := none } : Launch).eligible = none := by
  and_intros <;> first | decide +kernel | rfl

/-- TaskPlacementAndPriority: a launch that reserves and one it outranks; a saved task that could resume. -/
theorem witness_no_place :
    let low := { launch5 with lid := 6, prio := 1, eligible := none }
    let s : State := { (State.reset.modCluster 0 (fun c => { c with pid := some 1 })) with launches := [{ launch5 with reserving := true }, low] }
    let v : Saved := ⟨0, 0, { task with winSize := 256, lid := 6 }⟩
    let u : State := { (State.reset.modCluster 0 (fun c => { c with pid := some 1 })) with launches := [low], saved := [v] }
    (s.launches.any (fun r => r.reserving && s.unplaced r && r.clusters.getLsbD 0 && decide (s.effOf 6 < r.eff s.clk))) = true ∧ u.canResume v = true ∧ u.effOf 6 ≤ u.effOf v.slot.lid := by
  and_intros <;> decide +kernel

/-- RetirementAndPreemption and ResumptionOfSavedTask. -/
theorem witness_task_life :
    let r := one { task with retiring := true }
    let high := { launch5 with lid := 6, prio := 6 }
    let q : State := { base with launches := [high] }
    let t : State := { (one { task with statusQ := [(3, 5)] }) with launches := [high] }
    let p := one { task with preempt := true }
    let v : Saved := ⟨0, 0, { task with winSize := 256 }⟩
    let e : State := { (State.reset.modCluster 0 (fun c => { c with pid := some 1 })) with saved := [v] }
    (r.slot (hartOf 0 0)).retiring = true ∧ r.withdrawn 0 = none ∧ r.drained (hartOf 0 0) none = true ∧ (one { task with retiring := true, acks := 1 }).drained (hartOf 0 0) none = false ∧ (base.slot (hartOf 0 0)).retiring = false ∧ (p.slot (hartOf 0 0)).preempt = true ∧ p.ops = [] ∧ (p.slot 0).acks = 0
    ∧ base.mayPreempt 0 = false ∧ q.mayPreempt 0 = true ∧ q.takesStatus 0 = false ∧ ({ base with descheduled := [1] } : State).mayPreempt 0 = true ∧ t.mayPreempt 0 = true ∧ t.takesStatus 0 = true ∧ (t.slot 0).xvec ≠ 0 ∧ (t.slot 0).preempt = false ∧ (∀ x ∈ (t.slot 0).statusQ, x.1 ≠ 9)
    ∧ (p.slot 0).blocked = none ∧ p.taskDead (p.slot 0) = false ∧ (p.panel (panelOf 0)).committed = none ∧ e.canResume v = true ∧ e.outranked v = false ∧ e.freeWindow v.cid v.slot.winSize = some 0 ∧ v.slot.rptOn = false := by
  and_intros <;> first | decide +kernel | rfl

/-- CancellationAndClusters. -/
theorem witness_clusters :
    let w := { (one { task with waiting := some (.phaser, 0) }) with clk := 18000001 }
    let e := State.reset.modCluster 63 (fun c => { c with pid := some 1 })
    (9 : Word) ≠ 0 ∧ base.saved = [] ∧ base.launches = [] ∧ base.tokens.contains 9 = false ∧ (w.slot (hartOf 0 0)).waiting = some (.phaser, 0) ∧ w.watchdogPeriod < w.clk - 0 ∧ w.watchdog = []
    ∧ ((one { task with retiring := true, drainFrom := 4 }).slot 0).waitsIn = some (.drain, 4) ∧ ((one { task with preempt := true, drainFrom := 4 }).slot 0).waitsIn = some (.drain, 4) ∧ (w.slot 0).waitsIn = some (.phaser, 0) ∧ w.watchdog.contains (0, 0, 5, .phaser, 0) = false
    ∧ (State.reset.cluster 63).pid = none ∧ State.reset.clustersOut.contains 63 = false ∧ (e.cluster 63).pid = some 1 ∧ e.harts = [] ∧ (e.cluster 63).comb = [] ∧ e.saved = [] ∧ e.cores = [] ∧ e.ops = [] ∧ e.nibs = [] ∧ e.forwards = [] ∧ e.regions = [] ∧ (e.cluster 62).pid ≠ some 1 ∧ ((e.modCluster 62 (fun c => { c with pid := some 1 })).cluster 62).pid = some 1 := by
  and_intros <;> first | decide +kernel | rfl

/-- PhaserMembership: a member that leaves before its signal, and one of a phase another has yet to signal. -/
theorem witness_phaser_leave :
    let m : Member := ⟨1, true, true, true, 0, 3⟩
    let p : Phaser := { creator := 2, members := [m, { m with uid := 2, sig := false }] }
    let s := base.modCluster 0 (fun c => { c with phasers := [(0, p)] })
    s.phaser? 0 = some p ∧ p.member? s.me.uid = some m ∧ m.sigMode = true ∧ m.sig = true ∧ p.orphan = false ∧ (({ p with members := [m] } : Phaser).orphan = false) := by
  and_intros <;> first | decide +kernel | rfl

/-- MessagesSentAndDelivered: a part of the domain that nothing reaches, before rc.timeout and after it. -/
theorem witness_lost_message :
    let m := fun (d : Nat) => { op (.msg false 0 1 3 [1, 2, 3]) with due := d }
    let s := fun (d : Nat) => ({ flying (m d) with domSize := 4 } : State)
    (s 1001).op? 7 = some (m 1001) ∧ (s 1001).canReach 0 (2 ^ 20 + 3) = false ∧ (s 1001).earlierMsg (m 1001) = false ∧ 3 < (s 1001).domSize.toNat
    ∧ after (.messageDelivery 7) (s 1001) (fun t => t == s 1001) = true ∧ after (.messageDelivery 7) (s 1000) (fun t => t == (((s 1000).resolve (m 1000) 15 []).dropOp 7)) = true := by
  and_intros <;> first | decide +kernel | rfl

/-- TaskPlacementAndPriority, RetirementAndPreemption and ResumptionOfSavedTask: no back-edge is left, and no later place has renegotiated in this clk. -/
theorem witness_in_order :
    (base.slot 0).edge = false ∧ base.ops = [] ∧ (∀ r ∈ (base.panel 0).reneg, r.1 ≠ base.clk ∨ r.2 ≤ 4 * (0 % 8) + 0)
    ∧ (∀ r ∈ ((base.modPanel 0 (fun p => { p with reneg := some (1000, 0) })).panel 0).reneg, r.1 ≠ base.clk ∨ r.2 ≤ 4 * (0 % 8) + 0)
    ∧ (base.modPanel 0 (fun p => { p with reneg := some (1000, 5) })).renegLate 0 = true := by
  and_intros <;> first | decide +kernel | rfl

/-! ## Hypotheses: remote calls and panels -/

/-- RemoteCallIssue: entries misaligned and outside, targets out of reach, of another process, on chip and in external memory; waits. -/
theorem witness_remote_call :
    let l := [(5, 0x1000), (6, 0x10000), (10, 0x1002), (15, 0x20000), (20, 0x1000), (21, 2 ^ 60), (25, 0x1000), (26, 0x1000000), (30, 0x1000), (31, 0x40000000)]
    let s := coded (regs task l) [0x7C000004]
    let out := coded { regs task l with acks := 1 } [0x7C000004]
    let busy : State := { s with ops := List.replicate 16 { op (.value 0 []) with call := true } }
    ([5, 10, 15, 20, 25, 30] : List (BitVec 6)).all (fun f => ready (.rcall f 0 8 0) s) = true ∧ ready (.rcall 5 9 0 1) s = true ∧ (s.getG 10).toNat % 4 ≠ 0 ∧ (s.codeAt 0 5 (s.getG 15)).isSome = false ∧ s.codeOf s.cur = (0, 5) ∧ (s.codeAt 0 5 (s.getG 5)).isSome = true
    ∧ s.address (s.getG 21) = none ∧ s.address (s.getG 26) = some (0x1000000, none) ∧ s.holds (s.pidOf s.cur) 1 = false ∧ s.atomicCheck (s.getG 6) 1 = none ∧ s.atomicCheck (s.getG 31) 1 = none ∧ s.callsUsed s.cur < 16 ∧ s.ops = [] ∧ (s.core 0).bufWait = [] ∧ s.bufUsed 0 < 8
    ∧ ready (.rcall 5 9 0 1) out = true ∧ out.me.acks ≠ 0 ∧ ready (.rcall 5 9 0 0) busy = true ∧ 16 ≤ busy.callsUsed busy.cur ∧ busy.me.acks = 0 := by
  and_intros <;> first | decide +kernel | rfl

def call (stage u : Nat) (target : Reg64) : Op := { op (.rcall 0x1000 target [1, 2] 0 u) with stage := stage, call := true, off := some 40 }

/-- RemoteRoutineStart: arrivals at a handler (its cluster the caller's process's or another's, its cache full) and a nib, translated or
not, ahead of one another and on the way; copies; starts in both, the nib's for the first, the same and another process. -/
theorem witness_remote_start :
    let c := call 0 4 0x100
    let b := call 0 81920 0x40000000
    let h := flying c
    let n := flyingOf (mapped base) { b with die := 0 }
    let w := { flying (call 1 4 0x100) with replies := [⟨4, 7, none⟩] }
    let v := fun (q : BitVec 16) => { flying (call 1 81920 0x40000000) with replies := [⟨81920, 7, none⟩], nibs := [(0, { lastPid := some q })] }
    let two := { base with ops := [c, { call 1 4 0x100 with id := 6 }], replies := [⟨4, 6, none⟩, ⟨4, 7, none⟩] }
    let again := { flying { call 3 4 0x100 with reply := [1] } with replies := [⟨4, 7, some (0, [1])⟩], softErrors := [.call 7] }
    let full := { h with replies := List.replicate 4096 ⟨4, 1, none⟩ }
    h.op? 7 = some c ∧ h.unitOut 4 = false ∧ h.arrived c = true ∧ ({ base with ops := [{ c with id := 6 }, c] } : State).op? 7 = some c ∧ h.arrived { c with die := 1 } = false ∧ h.cacheFull 4 = false ∧ h.translate 1 (0x40000000 % 2 ^ 48) false false false = none
    ∧ h.holds c.pid 0 = true ∧ ({ h with clusters := [] } : State).holds c.pid 0 = false ∧ full.cacheFull 4 = true
    ∧ n.op? 7 = some b ∧ n.arrived b = true ∧ n.unitOut 81920 = false ∧ (n.translate 1 (0x40000000 % 2 ^ 48) false false false).isSome = true ∧ n.cacheFull 81920 = false
    ∧ w.op? 7 = some (call 1 4 0x100) ∧ (w.slot 4).live = false ∧ w.replies = [] ++ ⟨4, 7, none⟩ :: [] ∧ two.replies = [] ++ ⟨4, 6, none⟩ :: [⟨4, 7, none⟩] ∧ two.op? 6 = some { call 1 4 0x100 with id := 6 }
    ∧ again.op? 7 = some { call 3 4 0x100 with reply := [1] } ∧ again.replies = [⟨4, 7, some (0, [1])⟩] ∧ .call 7 ∈ again.softErrors ∧ .call 7 ∈ ({ w with softErrors := [.call 7] } : State).softErrors ∧ .call 7 ∉ w.softErrors
    ∧ after (.remoteCallArrival 7) again (fun t => t.softErrors.isEmpty && (Tab.getD t.unitTimes 0 []).length == 1) = true ∧ after (.remoteCallArrival 7) w (fun t => t == w) = true
    ∧ ((v 2).slot 81920).live = false ∧ (v 2).replies = [] ++ ⟨81920, 7, none⟩ :: [] ∧ (v 2).op? 7 = some (call 1 81920 0x40000000) ∧ ((v 2).nib 0).lastPid = some 2 ∧ ((v 1).nib 0).lastPid = some 1 ∧ (w.nib 0).lastPid = none := by
  and_intros <;> first | decide +kernel | rfl

/-- RemoteRoutineEnd: RRET in a routine, one of m = 5, one in a task; a budget spent and one not. -/
theorem witness_remote_end :
    let r : RoutineRef := ⟨7, 0x1000, 1, 5, 0, false, 9, 1000, []⟩
    let s := flyingOf { (State.reset.setSlot 4 { task with routine := some r }) with cur := 4, clk := 37000 } (call 2 4 0x100)
    s.me.routine = some r ∧ s.op? r.op = some (call 2 4 0x100) ∧ isTask s.cur = false ∧ isControl s.cur = false ∧ ready (.rret 4) s = true ∧ s.me.issues = true ∧ s.me.live = true ∧ s.harts = [(s.cur, s.me)] ∧ r.began + 36000 ≤ s.clk ∧ s.me.parts = none
    ∧ ({ s with clk := 36999 } : State).clk < r.began + 36000 ∧ isTask base.cur = true ∧ base.me.routine = none ∧ base.me.issues = true := by
  and_intros <;> first | decide +kernel | rfl

/-- RemoteReplies: a reply for a register, one behind an earlier call and one on its way; its acknowledgement; calls, atomics and RADDs
whose time is up, to a unit in service, one out of service and a part that can and that cannot be reached. -/
theorem witness_remote_reply :
    let o := { call 3 4 0x100 with reply := [1, 2] }
    let s := flying o
    let late := flying { call 1 4 0x100 with due := 1000 }
    let gone := flying { call 1 (2 ^ 20 + 3) 0x100 with due := 1000 }
    let at_ := { op (.atomic 0 8 (r64 (35 * 2 ^ 48)) 1 0 0 false .rne 0) with due := 1000 }
    let own := { op (.atomic 0 8 0x100 1 0 0 false .rne 0) with due := 1000 }
    let ra := { op (.radd (r64 (35 * 2 ^ 48)) true 3) with due := 1000 }
    let peer := fun (o : Op) => ({ flying o with domSize := 4, ports := 1, topology := peerRoute } : State)
    s.op? 7 = some o ∧ s.arrived o = true ∧ s.arrived { o with die := 1 } = false ∧ ({ base with ops := [{ call 1 4 0x100 with id := 6 }, o] } : State).op? 7 = some o ∧ (s.slot 0).live = true ∧ (s.slot 0).uid = o.task ∧ (s.slot 0).held = [] ∧ (s.slot 0).inbox.length < 16 ∧ o.reply.length < 16 ∧ o.status < 256 ∧ s.domIndex.toNat < 32
    ∧ 4 = s.callUnit 0x100 ∧ s.address 0x100 = some (0x100, none) ∧ (s.slot 0).win.wf = true ∧ o.owner < 81920
    ∧ s.op? 8 = none ∧ late.op? 7 = some { call 1 4 0x100 with due := 1000 } ∧ late.unitOut 4 = false ∧ late.canReach 0 4 = true ∧ ({ late with coresOut := [0] } : State).unitOut 4 = true ∧ gone.canReach 0 (2 ^ 20 + 3) = false
    ∧ (peer at_).callUnit (r64 (35 * 2 ^ 48)) = 2 ^ 20 + 32 * 4 + 3 ∧ ({ peer at_ with ports := 0 } : State).canReach 0 (2 ^ 20 + 3) = false ∧ ({ flying own with coresOut := [0] } : State).unitOut ((flying own).callUnit 0x100) = true
    ∧ (peer ra).address (r64 (35 * 2 ^ 48)) = some (0, some 3) ∧ (peer ra).canReach 0 (2 ^ 20 + 3) = true ∧ ({ peer ra with lostPeers := [3] } : State).canReach 0 (2 ^ 20 + 3) = false := by
  and_intros <;> first | decide +kernel | rfl

/-- A task on a core of panel 0 (6 issues to the operand slots, 7 to the matrix engine), and the panel given. -/
def onCore (c : Nat) (l : List (Nat × Nat)) (p : Panel) : State := { ((base.setSlot (5 * c) (regs task l)).modPanel 0 (fun _ => p)) with cur := 5 * c }

def claimed (n : Nat) : Panel := { slots := (List.range n).map (fun k => (k, { claim := some 1 })) }

/-- OperandSlotsAndSemaphores: enough slots and too few; a release of its own and of another's; semaphores at 0, 1 and 15. -/
theorem witness_operand_slots :
    let s := onCore 6 [(5, 3), (6, 2 ^ 16), (7, 8)] { claimed 2 with sems := [(1, 1), (2, 15)] }
    let p := panelOf s.cur
    let free := (List.range 16).filter (fun k => ((s.panel p).slot k).claim == none)
    ready (.oclaim 1 16) s = true ∧ free.length < (16 : BitVec 6).toNat ∧ ready (.oclaim 1 14) s = true ∧ (14 : BitVec 6).toNat ≤ free.length ∧ ready (.orel 5) s = true ∧ (s.getG 5).toNat < 2 ^ 16 ∧ ((s.panel p).slot 1).claim = some s.me.uid ∧ ((s.panel p).slot 1).releasing = false ∧ 2 ^ 16 ≤ (s.getG 6).toNat
    ∧ (s.getG 7).getLsbD 3 = true ∧ ((s.panel p).slot 3).claim = none ∧ (s.panel p).sem 0 = 0 ∧ (s.panel p).sem 1 = 1 ∧ (s.panel p).sem 2 = 15 ∧ s.me.acks = 0 ∧ (s.modMe (fun x => { x with acks := 1 })).me.acks ≠ 0 ∧ ready (.semv 1) (s.modMe (fun x => { x with acks := 1 })) = true ∧ ([.semp 0, .semp 1, .semv 1, .semv 2] : List Instr).all (fun i => ready i s) = true := by
  and_intros <;> first | decide +kernel | rfl

/-- OperandFills: control words wrong and right, sources misaligned, foreign, on chip and external; and the three kinds of fill. -/
theorem witness_fills :
    let s := onCore 6 [(5, 16), (6, 0x1000), (10, 1 * 2 ^ 32), (15, 16), (16, 0x1001), (20, 16), (21, 2 ^ 60), (25, 0), (26, 0x40000000), (30, 16), (31, 0x2000000), (35, 16), (36, 0xFFFFC0), (40, 3 * 16 + 1)] (claimed 2)
    let o := fun (ctl : Nat) => { op (.ofill 0 (r64 ctl) 0) with off := some 40 }
    let f := fun (ctl : Nat) => flying (o ctl)
    let e := { op (.mx 0 0 0 0 [0]) with id := 8, stage := 1 }
    ([5, 10, 15, 20, 25, 30, 35, 40] : List (BitVec 6)).all (fun r => ready (.ofill r 1) s) = true ∧ bits (s.getG 10) 32 32 ≠ 0 ∧ ((s.panel (panelOf s.cur)).slot 0).claim = some s.me.uid ∧ bits (s.getG 5) 4 4 = 1 ∧ (s.getG 16).toNat % 64 ≠ 0 ∧ s.address (s.getG 21) = none ∧ s.address (s.getG 6) = some (0x1000, none)
    ∧ s.address (s.getG 26) = some (0x40000000, none) ∧ (s.getG 31).toNat / 2 ^ 24 ≠ clusterOf s.cur ∧ (clusterOf s.cur + 1) * 2 ^ 24 < (s.getG 36).toNat + 16384 ∧ s.holds (s.pidOf s.cur) (clusterOf s.cur) = true ∧ (s.getG 41).toNat % 2 ^ 16 % 2112 = 0
    ∧ (f 16).op? 7 = some (o 16) ∧ (f 48).op? 7 = some (o 48) ∧ (f (48 + 2 ^ 8 + 64 * 2 ^ 16)).op? 7 = some (o (48 + 2 ^ 8 + 64 * 2 ^ 16)) ∧ (f 16).softErrors = [] ∧ (f 16).coresOut = [] ∧ (f 16).opMem.wf = true ∧ 0 + 2 ^ 17 ≤ 0x40000000 ∧ (f 16).holds (o 16).pid 0 = true
    ∧ ({ f 16 with ops := [o 16, e] } : State).op? 7 = some (o 16) ∧ e.stage = 1 ∧ 16 * 0 + bits (16 : Reg64) 0 4 ∈ [0] := by
  and_intros <;> first | decide +kernel | rfl

/-- The words of an FP32 operation on slots 0 and 1 into tile 0, m = n = 1, k = 2, posting psem 1. -/
def mxWord : Reg64 := r64 (7 * 2 ^ 12 + 7 * 2 ^ 16 + 2 * 2 ^ 48 + 1 * 2 ^ 4)
def mxSems : Reg64 := r64 (2 ^ 7 + 1 * 2 ^ 4)

/-- MatrixShadow: shadows good and bad, free and committed, a rectangle that is not there. -/
theorem witness_matrix_shadow :
    let s := onCore 7 [(5, mxWord.toNat), (6, mxSems.toNat), (10, 2 ^ 57)] { claimed 2 with w0 := mxWord, w1 := mxSems }
    let held := onCore 7 [(5, mxWord.toNat), (6, mxSems.toNat)] { claimed 2 with w0 := mxWord, w1 := mxSems, committed := some 8 }
    let bad := onCore 7 [] { claimed 2 with w0 := mxWord, w1 := r64 (2 ^ 8) }
    ready (.mxcfg 5) s = true ∧ ready (.mxcfg 10) s = true ∧ mxBad (s.getG 10) (s.getG 11) = true ∧ mxBad (s.getG 5) (s.getG 6) = false ∧ (s.panel (panelOf s.cur)).committed = none ∧ ready (.mxsp 15) s = true ∧ ready (.mxgo 1) s = true ∧ mxBad mxWord mxSems = false
    ∧ ([.mxcfg 5, .mxsp 0, .mxgo 0] : List Instr).all (fun i => ready i held) = true ∧ (held.panel (panelOf held.cur)).committed ≠ none ∧ ready (.mxgo 1) bad = true ∧ bits (r64 (2 ^ 8)) 8 8 ≠ 0 ∧ bad.rectOf (panelOf bad.cur) 1 = none := by
  and_intros <;> first | decide +kernel | rfl

/-- MatrixStart: conditions that hold, with sub-arrays awake and gated, and one that does not; a waking panel and an idle one. -/
theorem witness_matrix_start :
    let o := op (.mx 0 mxWord mxSems 0 [])
    let s := fun (p : Panel) => flyingOf (base.modPanel 0 (fun _ => p)) o
    let awake := s { claimed 2 with committed := some 7, awake := [0] }
    let asleep := s { claimed 2 with committed := some 7, waking := some 1000 }
    let busy := s { claimed 2 with committed := some 7, running := some 8 }
    let idle := base.modPanel 0 (fun _ => { awake := [0, 3], idle := [(3, 999)] })
    let idle' := { idle with clk := 2048 }
    (awake.panel 0).committed = some 7 ∧ awake.op? 7 = some o ∧ mxBad mxWord mxSems = false ∧ bits mxSems 8 8 = 0 ∧ awake.throttled 0 = false ∧ ({ awake with throttle := [(0, 1)], clk := 1007 } : State).throttled 0 = true ∧ (awake.panel 0).running = none ∧ bits mxSems 3 1 = 0 ∧ (∀ k ≤ 63, 16 * k < bits mxWord 32 6 + 1 → (awake.panel 0).awake.contains k = true)
    ∧ (asleep.panel 0).awake.contains 0 = false ∧ (asleep.panel 0).waking = some 1000 ∧ 1000 ≤ asleep.clk ∧ (busy.panel 0).running ≠ none ∧ (idle'.panel 0).running = none ∧ (idle'.panel 0).gateIdle ≠ 0 ∧ Tab.getD (idle'.panel 0).idle 0 0 + (idle'.panel 0).gateIdle ≤ idle'.clk
    ∧ idle'.clk < Tab.getD (idle'.panel 0).idle 3 0 + (idle'.panel 0).gateIdle := by
  and_intros <;> first | decide +kernel | rfl

theorem witness_no_fill : ∀ e ∈ (flying (op (.mx 0 mxWord mxSems 0 []))).ops, ∀ c a, e.kind = .ofill 0 c a → 16 * 0 + bits c 0 4 ∉ [0, 1] := by simp [flying, flyingOf, op]

/-- MatrixResults: before its time, at it, found right and wrong. -/
theorem witness_matrix_results :
    let o := { op (.mx 0 mxWord mxSems 0 [0, 1]) with stage := 1, due := 1000, off := some 40 }
    let s := flyingOf (base.modPanel 0 (fun _ => { claimed 2 with running := some 7 })) o
    let early := { s with clk := 999 }
    let wrong := { o with status := 1 }
    s.op? 7 = some o ∧ o.kind = .mx 0 mxWord mxSems 0 ((16 * 0 + 0) :: (16 * 0 + 1) :: []) ∧ early.clk < o.due ∧ o.due ≤ s.clk ∧ s.accMem.wf = true ∧ (s.slot 0).win.wf = true ∧ (s.slot 0).live = true ∧ o.status = 0 ∧ bits mxWord 22 2 = 0 ∧ (flying wrong).op? 7 = some wrong ∧ wrong.status ≠ 0 ∧ o.id < s.nextId ∧ s.softErrors = [] ∧ (s.slot 0).acks = 0 ∧ (s.modSlot 0 (fun x => { x with acks := 1 })).slot 0 ≠ s.slot 0 := by
  and_intros <;> first | decide +kernel | rfl

theorem witness_no_quantisation (c : Nat) : (base.cluster c).qntRun = none := by
  by_cases h : c = 0
  · subst h; rfl
  · have h' : 0 ≠ c := fun e => h e.symm
    simp [base, one, task, State.modCluster, State.setSlot, State.cluster, State.reset, Tab.getD, Tab.get?, Tab.set, h']

/-- A rectangle of two panels whose members hold operations 7 and 8 with the given control words. -/
def rectangle (w0 w1 : Reg64) (slots : Nat) : State :=
  let v := mxSems + r64 (5 * 2 ^ 8)
  let o := op (.mx 0 w0 v 0 [])
  let s := (base.modPanel 0 (fun _ => { claimed slots with committed := some 7, awake := [0, 1, 2, 3] })).modPanel 1 (fun _ => { claimed 2 with committed := some 8, awake := [0, 1, 2, 3] })
  { s.modCluster 0 (fun c => { c with rects := [(5, 1, 0, 0, 1, 2)] }) with ops := [o, { o with id := 8, kind := .mx 1 w1 v 0 [] }] }

/-- RectangleStart: members that agree, one that does not, an operand slot that is not claimed. -/
theorem witness_rectangle_start :
    let v := mxSems + r64 (5 * 2 ^ 8)
    let s := rectangle mxWord mxWord 2
    let t := rectangle mxWord (mxWord + r64 (2 ^ 32)) 2
    let u := rectangle mxWord mxWord 1
    let o := op (.mx 0 mxWord v 0 [])
    let both := fun (p : Op → Bool) (t : State) => [7, 8].all (fun i => t.ops.any (fun o => o.id == i && o.stage == 1 && p o)) && (t.panel 1).running == some 8 && (t.panel 0).committed.isNone
    Tab.get? (s.cluster 0).rects 5 = some (1, 0, 0, 1, 2) ∧ s.op? 7 = some o ∧ s.op? 8 = some { o with id := 8, kind := .mx 1 mxWord v 0 [] } ∧ (s.panel 1).committed = some 8 ∧ bits v 8 8 = 5 ∧ mxBad mxWord v = false ∧ bits v 3 1 = 0
    ∧ (s.panel 0).running = none ∧ (∀ k < 4, (s.panel 0).awake.contains k = true ∧ (s.panel 1).awake.contains k = true) ∧ s.throttled 0 = false ∧ s.throttled 8 = false ∧ mxBad (mxWord + r64 (2 ^ 32)) v = false
    ∧ ((s.panel 0).slot 0).claim ≠ none ∧ ((s.panel 1).slot 1).claim ≠ none ∧ ((u.panel 0).slot 1).claim = none
    ∧ after (.mxOperationStart 0 1) s (both (fun o => o.status == 0 && o.due == 2040)) = true ∧ after (.mxOperationStart 0 0) t (both (fun o => o.status == 6)) = true ∧ after (.mxOperationStart 0 1) u (both (fun o => o.status == 1)) = true := by
  and_intros <;> first | decide +kernel | rfl

/-- MatrixResults: the shadows of a BSR and of a CSR operation. -/
theorem witness_sparse : mxBad (mxWord + r64 (2 ^ 22 + 14 * 2 ^ 48)) mxSems = false ∧ mxBad (mxWord + r64 (2 * 2 ^ 22)) mxSems = false ∧ (op (.mx 0 mxWord mxSems 2 [0, 1, 2])).kind = .mx 0 mxWord mxSems 2 ((16 * 0 + 0) :: (16 * 0 + 1) :: [2]) := by
  and_intros <;> first | decide +kernel | rfl

/-- RemoteRoutineStart: the caller's acquire, its store still on the way to the handler's scratchpad, a cluster gone and one that stays. -/
theorem witness_start_order :
    let c := call 1 4 0x100
    let w := { flying c with replies := [⟨4, 7, none⟩] }
    let held : State := { w with ops := [{ op (.acquire 0) with id := 6 }, c] }
    let late : State := { w with ops := [{ op (.store [(0x200, 8, 5)]) with id := 6 }, c] }
    let gone : State := { w with clusters := [] }
    held.heldBack c = true ∧ held.op? 7 = some c ∧ late.heldBack c = false ∧ late.earlierOwn c (4 / 5 * 65536) 65536 = true ∧ w.heldBack c = false ∧ w.earlierOwn c 0 65536 = false ∧ w.holds c.pid 0 = true
    ∧ gone.holds c.pid 0 = false ∧ (gone.slot 4).live = false ∧ gone.heldBack c = false ∧ gone.op? 7 = some c
    ∧ after (.routineStart 7) held (fun t => t == held) = true ∧ after (.routineStart 7) late (fun t => t == late) = true ∧ after (.routineStart 7) gone (fun t => t.ops.all (fun p => p.stage == 3 && p.status == 3) && t.replies == [⟨4, 7, some (3, [0x100, 0xFFFFFFFF00000000])⟩]) = true
    ∧ after (.routineStart 7) w (fun t => (t.slot 4).live) = true := by
  and_intros <;> first | decide +kernel | rfl

/-- RemoteReplies: a reply formed that has not arrived, an atomic performed whose reply has not, and messages to a part within reach and not. -/
theorem witness_reply_lost :
    let c := { call 3 4 0x100 with die := 1, due := 1000 }
    let a := { op (.atomic 0 8 0x100 1 0 0 false .rne 0) with stage := 1, die := 1, due := 1000 }
    let m := { op (.msg false 0 1 3 [1, 2, 3]) with due := 1000, off := some 40 }
    let far : State := { flying m with domSize := 4, ports := 1, topology := peerRoute }
    (flying c).op? 7 = some c ∧ (flying c).arrived c = false ∧ (flying a).op? 7 = some a ∧ (flying a).arrived a = false ∧ (flying c).canReach 0 4 = true
    ∧ far.op? 7 = some m ∧ far.canReach 0 (2 ^ 20 + 3) = true ∧ (flying m).canReach 0 (2 ^ 20 + 3) = false ∧ 3 ≠ far.domIndex.toNat ∧ (far.slot 0).held = [] ∧ (far.slot 0).win.wf = true
    ∧ after (.rcTimeoutExpiry 7) (flying c) (fun t => t.ops.all (fun o => o.stage == 3 && o.status == 0 && o.due == 1000 + 2000 * 1800)) = true
    ∧ after (.rcTimeoutExpiry 7) (flying m) (fun t => t.ops == [] && t.me.win.get 40 == 15) = true := by
  and_intros <;> first | decide +kernel | rfl

/-! ## Hypotheses: tiles, rectangles, quantisation and vectors -/

/-- TileTransfers: MXZ on an idle tile and a busy one; MXRD and MXWR with good and bad control words, addresses and tiles. -/
theorem witness_tiles :
    let l := [(5, 0x1000), (6, 6 * 2 ^ 4), (10, 0x1000), (11, 2 ^ 48), (15, 0x1002), (16, 6 * 2 ^ 4), (20, 0x40000000), (21, 6 * 2 ^ 4), (25, 0x1000), (26, 6 * 2 ^ 4 + 1 + 2 ^ 11), (30, 0x1000), (31, 2 * 2 ^ 4 + 2), (35, 0x1000), (36, 7 * 2 ^ 4)]
    let s := onCore 7 l { tiles := [(1, { tag := .i32, invalid := true }), (2, { tag := .fp64 })] }
    let o := op (.mx 0 mxWord mxSems 0 [])
    ready (.mxz 1 6) s = true ∧ ready (.mxz 2 0) s = true ∧ s.ops = [] ∧ (flyingOf s o).ops = [o] ∧ o.stage ≠ 9 ∧ mxBad mxWord mxSems = false ∧ bits mxWord 8 3 = (0 : BitVec 3).toNat ∧ ready (.mxz 0 0) (flyingOf s o) = true
    ∧ ([5, 10, 15, 20, 25, 30, 35] : List (BitVec 6)).all (fun r => ready (.mxrd r 1) s && ready (.mxwr r) s) = true ∧ bits (s.getG 11) 48 16 ≠ 0 ∧ (s.getG 15).toNat % 4 ≠ 0 ∧ s.inScratchpads (s.getG 20) (63 * 256 + 256) = false ∧ s.inScratchpads (s.getG 5) (63 * 256 + 256) = true
    ∧ s.ownBusy ((s.getG 5).toNat % 2 ^ 48) (63 * 256 + 256) = false ∧ ((s.panel 0).tile 0).invalid = false ∧ ((s.panel 0).tile 1).invalid = true ∧ ((s.panel 0).tile 2).tag = .fp64 ∧ s.accMem.wf = true ∧ s.me.watch = false ∧ s.softErrors = [] := by
  and_intros <;> first | decide +kernel | rfl

/-- TileTransfers: an FP32 tile whose element 0 is an infinity, checked. -/
theorem witness_tile_not_finite :
    let s : State := { onCore 7 [(5, 0x1000), (6, 6 * 2 ^ 4 + 2 ^ 11)] {} with accMem := Mem.write [] 0 4 0x7F800000 }
    ready (.mxrd 5 1) s = true ∧ bits (s.getG 6) 11 1 = 1 ∧ ((s.panel 0).tile 0).tag = .fp32 ∧ fp32.nonFinite (fp32.round .rne false 0 (fp32.decode (Mem.read s.accMem 0 4))).bits = true := by
  and_intros <;> first | decide +kernel | rfl

/-- Rectangles: each answer of FORM, and FREE of none, of one's own, and with other bits. -/
theorem witness_rectangles :
    let v := fun (b a c0 r0 id : Nat) => (b - 1) * 2 ^ 20 + (a - 1) * 2 ^ 16 + c0 * 2 ^ 12 + r0 * 2 ^ 8 + id
    let s := (onCore 7 [(5, v 2 2 0 0 1), (6, 2 ^ 23), (7, v 1 1 0 0 0), (8, v 2 1 7 0 3), (9, v 8 1 0 0 4), (10, 2), (11, 256)] {}).modCluster 0 (fun c => { c with rects := [(2, (1, 0, 7, 1, 1))] })
    let out : State := { s with panelsOut := [1] }
    ([5, 6, 7, 8, 9] : List (BitVec 6)).all (fun r => ready (.mxrectForm r 1) s) = true ∧ bits (s.getG 6) 23 41 ≠ 0 ∧ bits (s.getG 7) 0 8 = 0 ∧ ¬ (7 + 2 ≤ 8) ∧ (s.cluster 0).rects = [(2, (1, 0, 7, 1, 1))] ∧ out.panelsOut = [1] ∧ Tab.get? (s.cluster 0).rects 1 = none
    ∧ ready (.mxrectFree 10 1) s = true ∧ Tab.get? (s.cluster 0).rects 2 = some (1, 0, 7, 1, 1) ∧ s.rectBusy 0 2 = false ∧ ready (.mxrectFree 11 1) s = true ∧ 2 ^ 8 ≤ (s.getG 11).toNat ∧ ready (.mxrectFree 5 1) s = true ∧ s.panelsOut = []
    ∧ (flyingOf s (op (.mx 0 mxWord (r64 (2 * 2 ^ 8)) 0 []))).rectBusy 0 2 = true ∧ after (.mxrectForm 9 1) s (fun t => t.getG 1 == 2) = true ∧ after (.mxrectForm 5 1) out (fun t => t.getG 1 == 3) = true ∧ after (.mxrectForm 5 1) s (fun t => t.getG 1 == 0) = true := by
  and_intros <;> first | decide +kernel | rfl

/-- QuantisationQueue: a block misaligned, outside and good; a queue that runs, one that is halted, .RESTART; a command that starts, and one with a reserved bit. -/
theorem witness_quantisation_queue :
    let s := given [(5, 0x100), (6, 0x101), (7, 0x40000000)]
    let o := { op (.qnt 0x100 false [] []) with off := some 40 }
    let f := flying o
    let halted := f.modCluster 0 (fun c => { c with qntHalt := true })
    let again := { op (.qnt 0x100 true [] []) with off := some 40 }
    let r := { op (.qnt 0x100 false [r64 (2 ^ 48), 0, 0, 0, 0, 0, 0, 0] []) with stage := 1, off := some 40 }
    let w := (flying r).modCluster 0 (fun c => { c with qntQ := [7] })
    let g := (flying r).modCluster 0 (fun c => { c with qntRun := some 7 })
    ([5, 6, 7] : List (BitVec 6)).all (fun q => ready (.qnt q 1 0) s) = true ∧ s.inScratchpads (s.getG 5) 64 = true ∧ (s.getG 6).toNat % 64 ≠ 0 ∧ s.inScratchpads (s.getG 7) 64 = false ∧ f.op? 7 = some o ∧ f.ops = [o] ∧ o.stage = 0 ∧ (f.cluster 0).qntQ.length < 32 ∧ (f.cluster 0).qntHalt = false
    ∧ (halted.cluster 0).qntHalt = true ∧ (flying again).ops = [again] ∧ (w.cluster 0).qntRun = none ∧ (w.cluster 0).qntQ = 7 :: [] ∧ w.op? 7 = some r ∧ (g.cluster 0).qntRun = some 7 ∧ bits (r64 (2 ^ 48)) 48 16 ≠ 0 ∧ bits (r64 (2 ^ 48)) 0 1 = 0 ∧ g.panelsOut = [] ∧ g.softErrors = [] ∧ g.ops = [r] ∧ (g.cluster 0).qntQ = [] ∧ w.ops = [r] ∧ w.panelsOut = [] := by
  and_intros <;> first | decide +kernel | rfl

/-- QuantisationResults: one block of 32 FP32 elements at 0x1000, its run at 2112 of core 1. -/
theorem witness_quantisation :
    let c := r64 (1 + 7 * 2 ^ 4 + 3 * 2 ^ 8 + 1 * 2 ^ 32 + 32 * 2 ^ 40)
    let w : List Reg64 := [c, 0x1000, 128, r64 (65536 + 2112), 0, 0, 0, 0]
    let o := { op (.qnt 0x100 false w []) with stage := 1, off := some 40 }
    let s := (flying o).modCluster 0 (fun x => { x with qntRun := some 7 })
    let dst := 65536 + 2112
    s.op? 7 = some o ∧ s.ops = [o] ∧ (s.cluster 0).qntRun = some 7 ∧ s.softErrors = [] ∧ s.coresOut = [] ∧ s.spm.wf = true ∧ w.length = 8 ∧ bits c 48 16 = 0 ∧ bits c 27 5 = 0 ∧ bits c 21 3 = 0 ∧ bits c 15 1 = 0 ∧ bits c 1 3 = 0 ∧ bits c 0 1 = 1 ∧ bits c 8 4 = 3 ∧ bits c 12 3 < 5 ∧ bits c 4 4 = 7 ∧ bits c 40 8 = 32
    ∧ bits c 32 8 = 1 ∧ s.address 0x1000 = some (0x1000, none) ∧ s.address (r64 dst) = some (dst, none) ∧ 0x1000 + 128 ≤ 2 ^ 24 ∧ s.holds 1 0 = true ∧ dst % 2 ^ 16 % 2112 = 0 ∧ dst % 2 ^ 16 < 65472 ∧ onChip dst = true ∧ (s.slot 0).win.wf = true := by
  and_intros <;> first | decide +kernel | rfl

/-- VectorElementWrites: elements 0 and 31 of 64 bits, at both ends of the view, and the ports of core 0 and core 255. -/
theorem witness_vector_writes :
    (∀ p ∈ ([(0, 5), (31, 2 ^ 64 - 1)] : List (Nat × Nat)), p.1 < 2048 / 64 ∧ p.2 < 2 ^ 64) ∧ (([(0, 5), (31, 2 ^ 64 - 1)] : List (Nat × Nat)).map (fun p => p.1)).Nodup ∧ base.me.win.wf = true ∧ base.cur = (0 * 256 + 0) * 5 + 0 := by
  and_intros <;> first | decide +kernel | rfl

/-- VectorIntegerResults, VectorFloatResults and ComparesAndMasks: every instruction is ready. -/
theorem witness_vector_alu : ([.vadd 27 2 3 7 0 1, .vsub 1 2 3 0 1 0, .vmul 1 2 3 0 2 0, .vabs 1 2 0 3 1, .vmulh 1 2 3 0 0, .vmin 1 2 3 0 0, .vmax 1 2 3 0 0, .vminn 1 2 3 0 0, .vmaxn 1 2 3 0 0, .vand 0 2 3 0 0, .vor 1 2 3 0 0, .vxor 1 2 3 0 0, .vshl 1 2 3 0 3, .vshr 1 2 3 0 3, .vsar 1 2 3 0 3,
    .vfadd 1 2 3 0 4 0, .vfsub 1 2 3 0 5 1, .vfmul 1 2 3 0 6 0, .vfdiv 1 2 3 0 7 0, .vfsqrt 1 2 0 6 0, .vfma 1 2 3 0 6 0, .vfms 1 2 3 0 6 0, .vfnma 1 2 3 0 6 0, .vfmin 1 2 3 0 6, .vfmax 1 2 3 0 6, .vfabs 1 2 0 6, .vfneg 1 2 0 6, .vfclass 1 2 0 6,
    .vceq 1 2 3 0 0, .vcne 0 2 3 0 0, .vclt 1 2 3 0 0, .vcle 1 2 3 0 0, .vfceq 1 2 3 0 6, .vfclt 1 2 3 0 6, .vfcle 7 2 3 0 7, .kand 1 2 3, .kor 0 2 3, .kxor 7 2 3, .knot 1 2, .kmovK 1 2, .kmovKg 1 2, .kmovG 1 2, .kpop 31 2, .kfirst 1 2] : List Instr).all (fun i => ready i base) = true := by decide +kernel

/-- VectorFloatResults: a watched launch whose first result is an infinity. -/
theorem witness_vector_watch :
    let s := one { task with watch := true, grant := 4, win := Mem.write [] (512 + 512) 4 0x7F800000 }
    ready (.vfadd 1 2 3 0 6 0) s = true ∧ s.me.watch = true ∧ s.me.routine = none ∧ traps (.vfadd 1 2 3 0 6 0) s 0x09 0 = true := by
  and_intros <;> first | decide +kernel | rfl

/-- RoundingOfRepresentable: the largest finite number, the smallest subnormal and an infinity of FP32. -/
theorem witness_representable : ([0x7F7FFFFF, 1, 0x7F800000, 0x80000000] : List Nat).all (fun x => decide (x < 2 ^ fp32.width) && !(fp32.decode x).isNan) = true := by decide +kernel

/-- TileTransfers: the rows of an MXRD home, and a store of the slot to them on its way; every rounding code that is allowed. -/
theorem witness_tile_rows :
    let s := onCore 7 [(5, 0x1000), (6, 6 * 2 ^ 4), (7, 0x1000), (8, 5 * 2 ^ 4 + 7 * 2 ^ 8), (9, 0x1000), (10, 4 * 2 ^ 4 + 4 * 2 ^ 8)] {}
    let w : Op := { op (.store [(0x3FFF, 1, 5)]) with owner := 35 }
    let u := flyingOf s w
    ([5, 7, 9] : List (BitVec 6)).all (fun r => ready (.mxrd r 1) s) = true ∧ (List.range 64).all (fun k => !s.ownInFlight (0x1000 + k * 256) 256) = true ∧ s.spm.wf = true ∧ (Rnd.ofCode 4).isSome = true ∧ bits (s.getG 8) 8 3 = 7 ∧ bits s.me.fcr 0 3 = 0
    ∧ ready (.mxrd 5 1) u = true ∧ u.ownInFlight (0x1000 + 47 * 256) 256 = true ∧ after (.mxrd 5 1) u (fun t => t == u.mark .pending) = true := by
  and_intros <;> first | decide +kernel | rfl

/-- QuantisationQueue: a block that was read whole; QuantisationResults: a command that took FP32 tile 0 of panel 0, for BS8 and for PEF8. -/
theorem witness_quantisation_tile :
    let c := fun (f : Nat) => r64 (f * 2 ^ 8 + 2 * 2 ^ 32 + 64 * 2 ^ 40)
    let w := fun (f d : Nat) => ([c f, 0, 0, r64 d, 0, 0, 0, 0] : List Reg64)
    let o := fun (f d : Nat) => { op (.qnt 0x100 false (w f d) []) with stage := 1, off := some 40, reply := [0, 0x3F800000] }
    let s := fun (f d : Nat) => (flying (o f d)).modCluster 0 (fun x => { x with qntRun := some 7 })
    (s 3 0).op? 7 = some (o 3 0) ∧ (o 3 0).status ≠ 7 ∧ (s 3 0).panelsOut = [] ∧ (w 3 0).length = 8 ∧ bits (c 3) 0 1 = 0 ∧ bits (c 3) 4 4 = 0 ∧ bits (c 3) 8 4 = 3 ∧ bits (c 4) 8 4 = 4 ∧ bits (c 4) 40 8 = 64 ∧ bits (c 4) 32 8 = 2 ∧ (o 3 0).reply.getD 0 0 = 0
    ∧ (s 4 64).op? 7 = some (o 4 64) ∧ (s 4 64).address 64 = some (64, none) ∧ (s 3 0).address 0 = some (0, none) ∧ (s 4 64).softErrors = [] ∧ (s 4 64).coresOut = [] ∧ ((s 4 64).cluster 0).qntRun = some 7 ∧ (s 4 64).holds 1 0 = true ∧ (s 4 64).spm.wf = true ∧ 64 + 64 * 2 ≤ (0 + 1) * 2 ^ 24 := by
  and_intros <;> first | decide +kernel | rfl

/-- ComparesAndMasks: a quiet NaN raises nothing under VFCEQ and NV under VFCLT, a signalling one NV under both. -/
theorem witness_compare_flags :
    let s := fun (x : Nat) => one { task with grant := 4, win := Mem.write [] (512 + 512) 4 x }
    (fp32.decode 0x7FC00000).isNan = true ∧ fp32.decode 0x7F800001 = .nan true
    ∧ ([(0x7FC00000, Instr.vfceq 1 2 3 0 6, 0), (0x7FC00000, .vfclt 1 2 3 0 6, 0x1000), (0x7F800001, .vfceq 1 2 3 0 6, 0x1000), (0x3F800000, .vfcle 1 2 3 0 6, 0)] : List (Nat × Instr × Nat)).all (fun p => after p.2.1 (s p.1) (fun t => t.me.fcr == r64 p.2.2)) = true := by
  and_intros <;> first | decide +kernel | rfl

/-! ## Hypotheses: vector moves and memory, delta queues -/

/-- VectorMoves, VectorReductions and VectorConversions: every instruction is ready; reductions over none and over some elements. -/
theorem witness_vector_moves :
    ([.vbcast 1 2 0 2, .vbcastConstant 1 31 3 0, .vbcastConstant 1 31 0 6, .vbcastConstant 1 61 0 7, .vslideup 1 2 3 0 2, .vslidedn 1 2 3 0 2, .vperm 1 2 3 0 2, .vcomp 1 2 7 2, .vexpd 1 2 0 2, .vmerge 1 2 3 0 2, .vmov 1 2 0 2, .vins 1 2 3 0 2, .visect 1 2 3 0 2, .vextr 1 2 3 2, .vextr 0 2 3 6,
      .vrsum 1 2 0 2, .vrtsum 1 2 0 6, .vrmax 1 2 0 3, .vrmin 1 2 0 7, .vcvt 1 2 1 0 0 2 0, .vcvt 1 2 1 9 0 2 0, .vcvt 1 2 0 5 0 2 7, .vcvt 1 2 1 12 0 6 0, .vcvt 1 2 0 2 0 6 1, .vpack 1 2 3 0 2 0, .vpack 1 2 3 0 5 7, .vunpk 1 2 0 1 1 0 2, .vunpk 1 2 1 0 0 0 0, .vunpk 1 2 2 0 1 0 0, .vunpk 1 2 0 0 1 0 6] : List Instr).all (fun i => ready i base) = true
    ∧ Claims.active base 1 32 = [] ∧ Claims.active base 0 64 = List.range 32 := by decide +kernel

/-- VectorMemoryAccesses: a core and a nib, with loads and stores that are let through and refused, and strides aligned and not. -/
theorem witness_vector_memory :
    let l := [(5, 0x1000), (6, 4), (7, 0x1000000), (9, 2)]
    let s := (one { regs task l with grant := 8 })
    Claims.unheld s ∧ Claims.unheld nibBase ∧ s.softErrors = [] ∧ (s.getG 5).toNat % 4 = 0 ∧ isNib s.cur = false ∧ ([.vld 1 5 0 0 2, .vld 1 5 6 0 2, .vlds 1 5 6 0 2, .vldx 1 5 6 0 2, .vst 1 5 0 0 2, .vsts 1 5 6 0 2, .vstx 1 5 6 0 2, .vstxc 1 5 6 7 2, .vld 1 7 0 0 2, .vst 1 7 0 0 2, .vlds 1 5 9 0 2, .vsts 1 5 9 0 2] : List Instr).all (fun i => ready i s) = true
    ∧ (Claims.contiguous s 0 0 32 (s.getG 5)).all (fun p => s.check p.2 4 true false == none && s.ownBusy (p.2.toNat % 2 ^ 48) 4 == false) = true ∧ (Claims.stridden s 6 0 32 (s.getG 5)).all (fun p => s.check p.2 4 false true == none) = true ∧ (Claims.scattered s 6 0 32 (s.getG 5)).all (fun p => s.check p.2 4 false true == none) = true
    ∧ s.check (s.getG 7) 4 true false = some 3 ∧ (Claims.contiguous s 0 0 32 (s.getG 7)).any (fun p => s.check p.2 4 false true != none) = true ∧ isTask s.cur = true ∧ (s.getG 9).toNat % 4 ≠ 0
    ∧ ready (.vld 1 5 0 0 2) nibBase = true ∧ isNib nibBase.cur = true ∧ (Claims.contiguous nibBase 0 0 32 (nibBase.getG 5)).all (fun p => decide (p.2.toNat < 0x10000) && p.2.toNat % 4 == 0) = true := by
  and_intros <;> first | exact unheld_of_no_ops _ rfl | decide +kernel

/-- VectorBasesAndTables: a base not aligned; VTILD of 16 bytes at the table's end; VTI with a header of one segment. -/
theorem witness_tables :
    let l := [(5, 0x1002), (1, 16), (2, 0x1000), (3, 4080), (4, 0)]
    let s : State := { (one { regs task l with grant := 8 }) with tblMem := Mem.write [] 8 8 1 }
    (s.getG 5).toNat % (Claims.elemBits 2 / 8) ≠ 0 ∧ ([.vld 1 5 0 0 2, .vst 1 5 0 0 2, .vlds 1 5 6 0 2, .vsts 1 5 6 0 2, .vldx 1 5 6 0 2, .vstx 1 5 6 0 2, .vstxc 1 5 6 7 2] : List Instr).all (fun i => ready i s) = true
    ∧ ready (.vtild 1 2 3) s = true ∧ Claims.unheld s ∧ (s.getG 1).toNat = 16 ∧ (s.getG 2).toNat % 16 = 0 ∧ (s.getG 3).toNat + 16 ≤ 4096 ∧ (∀ j < 2, s.check (s.getG 2 + r64 (8 * j)) 8 true false = none) ∧ s.ownBusy ((s.getG 2).toNat % 2 ^ 48) 16 = false ∧ s.tblWrites = [] ∧ s.softErrors = []
    ∧ ready (.vti 1 2 4 0 6) s = true ∧ (s.getG 4).toNat = 0 ∧ bits (r64 (Mem.read s.tables 8 8)) 0 16 = 1 ∧ bits (r64 (Mem.read s.tables 8 8)) 20 44 = 0 ∧ bits (r64 (Mem.read s.tables 8 8)) 16 2 ≠ 3 ∧ 0 + 16 + 8 * 1 ≤ 4096 := by
  and_intros <;> first | exact unheld_of_no_ops _ rfl | decide +kernel | rfl

/-- A queue of 64 records with one producer and one consumer. -/
def queue : DQueue := { lid := 5, pid := 1, cap := 64, consumers := 1, blot := false, arrCap := 0, closes := [0] }
def rec0 : Rec := ⟨1, 2, 3, 1, 0⟩
/-- Cluster 0 with the queue as number 0, its handle in g9 (0), and a record of round 0 in g20 to g23. -/
def queued (q : DQueue) : State := (given [(20, 1), (21, 2), (22, 3), (23, 1), (30, 1), (31, 5)]).modCluster 0 (fun c => { c with dqs := [(0, q)] })

/-- DeltaQueueDeclarationAndPush, the declaration: fields good, out of range, and too large for the pool. -/
theorem witness_queue_declaration :
    let block := fun (w : Nat) => { given [(5, 0x100)] with spm := Mem.write [] 0x100 8 w }
    let s := block 63
    let w := fun (s : State) => r64 (Mem.read (s.view s.cur) ((s.getG 5).toNat % 2 ^ 48) 8)
    ready (.dqdecl 5 1) s = true ∧ Claims.unheld s ∧ (s.getG 5).toNat % 64 = 0 ∧ s.inScratchpads (s.getG 5) 64 = true ∧ s.ownBusy ((s.getG 5).toNat % 2 ^ 48) 64 = false ∧ Mem.read (s.view s.cur) ((s.getG 5).toNat % 2 ^ 48 + 8) 56 = 0 ∧ bits (w s) 29 3 = 0 ∧ bits (w s) 32 32 ≤ 65536 ∧ bits (w s) 0 16 + 1 = 64
    ∧ 32 * 64 + 64 * 0 ≤ (s.cluster 0).pool ∧ Tab.get? (s.cluster 0).dqs 0 = none ∧ bits (w (block (2 ^ 29))) 29 3 ≠ 0 ∧ bits (w (block (65536 * 2 ^ 32))) 32 32 = 65536 ∧ ((block (65536 * 2 ^ 32)).cluster 0).pool < 32 * 1 + 64 * 65536 ∧ s.softErrors = [] := by
  and_intros <;> first | exact unheld_of_no_ops _ rfl | decide +kernel | rfl

/-- DeltaQueueDeclarationAndPush, pushes: with room, full with chunks left and none, a closed round, a halted queue. -/
theorem witness_queue_push :
    let full := { queue with cap := 1, recs := [rec0] }
    let wide := { queue with recs := List.replicate 64 rec0 }
    let s := queued queue
    (queued queue).dqHandle 9 true false = .ok 0 ∧ s.dq? 0 0 = some queue ∧ (s.cluster 0).pipes = [] ∧ s.ops = [] ∧ s.softErrors = [] ∧ ready (.dqpush 20 1 9) s = true ∧ ready (.dqpush 20 0 9) s = true ∧ queue.halted = false ∧ queue.front = 0 ∧ (Claims.record s 20).round.toNat = 0 ∧ queue.recs.length < queue.cap + 64 * queue.chunks
    ∧ ({ queue with closes := [1] } : DQueue).front = 1 ∧ full.recs.length = full.cap + 64 * full.chunks ∧ 3 * full.cap / 64 ≤ full.chunks ∧ wide.recs.length = wide.cap + 64 * wide.chunks ∧ wide.chunks < 3 * wide.cap / 64 ∧ 2048 ≤ ((queued wide).cluster 0).pool := by
  and_intros <;> first | decide +kernel | rfl

/-- DeltaQueuePopAndClose: a record to take, a round's end, nothing released; closes of its round, of another, and out of range. -/
theorem witness_queue_pop :
    let q := { queue with closes := [1], recs := [rec0] }
    let e := { queue with closes := [1] }
    let s := queued q
    s.dqHandle 9 true false = .ok 0 ∧ s.dq? 0 0 = some q ∧ q.halted = false ∧ ready (.dqpop 20 1 9) s = true ∧ s.me.stage = none ∧ q.drained < q.front ∧ q.recs.find? (fun r => r.round.toNat == q.drained) = some rec0 ∧ e.drained < e.front ∧ e.recs = [] ∧ e.holders = [] ∧ queue.front ≤ queue.drained ∧ s.softErrors = []
    ∧ ready (.dqclose 10 1 9) s = true ∧ s.me.acks = 0 ∧ q.closes[0]? = some 1 ∧ (s.getG 10).toNat = 0 ∧ (s.getG 11).toNat % 2 ^ 32 ≠ 1 ∧ queue.closes[0]? = some ((s.getG 11).toNat % 2 ^ 32) ∧ ready (.dqclose 30 1 9) s = true ∧ q.closes.length ≤ (s.getG 30).toNat := by
  and_intros <;> first | decide +kernel | rfl

/-- DeltaQueuePopAndClose: a waiting push and a waiting pop that can go on. -/
theorem witness_queue_service :
    let q := { queue with closes := [1], recs := [rec0] }
    let p := op (.dqpush 0 { rec0 with round := 1 })
    let o := op (.dqpop 0 20)
    let s := flyingOf (queued q) p
    let r := flyingOf (queued q) o
    s.op? 7 = some p ∧ s.ops.find? (fun p => match p.kind with | .dqpush _ _ => true | _ => false) = some p ∧ (s.slot 0).loops = [] ∧ q.front ≤ 1 ∧ q.recs.length < q.cap + 64 * q.chunks ∧ r.op? 7 = some o ∧ r.ops.find? (fun p => match p.kind with | .dqpop _ _ => true | _ => false) = some o ∧ (r.slot 0).stage = none := by
  and_intros <;> first | decide +kernel | rfl

/-- Consolidation: records whose sums fit; a queue declared for it. -/
theorem witness_consolidation :
    let l : List Rec := [rec0, { rec0 with mult := 0xFFFFFFFF }, { rec0 with key := 9, mult := 0x7FFFFFFF }]
    let q := { queue with blot := true, recs := l }
    (∀ g ∈ l, -(2 ^ 31) ≤ Claims.total l g ∧ Claims.total l g < 2 ^ 31) ∧ (queued q).dqHandle 9 false false = .ok 0 ∧ (queued q).dq? 0 0 = some q ∧ q.blot = true ∧ (consolidate (q.recs.filter (fun r => q.front ≤ r.round.toNat))).2 = false ∧ ready (.dqcons 1 9) (queued q) = true := by
  and_intros <;> first | decide +kernel | rfl

/-- Arrangements: an entry that is there, a new one, one without room; DQLOOK at an entry and past the last; DQJOIN of an empty batch; DQFRONT. -/
theorem witness_arrangements :
    let q := { queue with arrCap := 1, arr := [⟨1, 3#64 ++ 2#64, 1⟩] }
    let s := (queued q).modSlot 0 (fun x => regs x [(25, 9), (28, 1), (40, 0x200), (42, 0x400), (43, 4)])
    s.dqHandle 9 false true = .ok 0 ∧ s.dq? 0 0 = some q ∧ ready (.dqarr 20 1 9) s = true ∧ ((q.arr.find? (fun e => e.key == (Claims.record s 20).key && e.val == ((Claims.record s 20).vhi ++ (Claims.record s 20).vlo : BitVec 128))).map (fun e => e.mult)).getD 0 = 1
    ∧ ready (.dqarr 25 0 9) s = true ∧ (Claims.record s 25).key = 9 ∧ (Claims.record s 25).mult = 1 ∧ q.arrCap ≤ q.arr.length ∧ ready (.dqlook 30 9) s = true ∧ s.getG 30 = 1 ∧ ((q.arr.filter (fun e => e.key == s.getG 30))[0]?).isSome = true ∧ (s.getG 31).toNat = 5
    ∧ ready (.dqjoin 40 1 9) s = true ∧ (s.getG 40).toNat % 32 = 0 ∧ (s.getG 42).toNat % 64 = 0 ∧ s.inScratchpads (s.getG 40) (32 * 0) = true ∧ s.inScratchpads (s.getG 42) (64 * 4) = true ∧ s.ownBusy ((s.getG 40).toNat % 2 ^ 48) 0 = false ∧ ready (.dqfront 1 9) s = true ∧ s.softErrors = [] := by
  and_intros <;> first | decide +kernel | rfl

/-- Arrangements, DQJOIN of a batch of one record: what the slot sees before it, and what it writes. -/
theorem witness_join_records :
    let q := { queue with arrCap := 1, arr := [⟨1, 3#64 ++ 2#64, 5⟩] }
    let s : State := { (queued q).modSlot 0 (fun x => regs x [(40, 0x200), (41, 1), (42, 0x400), (43, 4)]) with spm := wordEls 0x200 [1, 2, 3, 1] |>.foldl (fun m w => Mem.write m w.1 w.2.1 w.2.2) [] }
    let out := wordEls 0x400 [1, 2, 3, 2, 3, 5, 0, 0]
    ready (.dqjoin 40 1 9) s = true ∧ s.dqHandle 9 false true = .ok 0 ∧ (recIn (s.view s.cur) 0x200).mult = 1 ∧ (recIn (s.view s.cur) 0x200).key = 1 ∧ s.inScratchpads (s.getG 40) 32 = true ∧ s.ownBusy 0x200 32 = false
    ∧ ([(s.view s.cur), out.foldl (fun m w => Mem.write m w.1 w.2.1 w.2.2) (s.view s.cur)] : List Mem).length = 2
    ∧ wordEls (0x400 + 64 * 0) ([(recIn (s.view s.cur) 0x200).key, (recIn (s.view s.cur) 0x200).vlo, (recIn (s.view s.cur) 0x200).vhi, ((3#64 ++ 2#64 : BitVec 128)).setWidth 64, ((3#64 ++ 2#64 : BitVec 128) >>> 64).setWidth 64, (recIn (s.view s.cur) 0x200).mult.signExtend 64 * 5, 0, 0] : List Reg64) = out := by
  and_intros <;> first | decide +kernel | rfl

/-- DeltaQueueDeclarationAndPush and Consolidation: a full queue whose records sum up and whose chunk goes back, and one with a sum past an i32. -/
theorem witness_queue_chunks :
    let q := { queue with blot := true, cap := 2, chunks := 1, recs := List.replicate 66 rec0 }
    let past := { queue with blot := true, cap := 1, chunks := 1, recs := [{ rec0 with mult := 0x7FFFFFFF }, rec0] }
    let s := queued q
    let t := queued past
    q.recs.length = q.cap + 64 * q.chunks ∧ (consolidate (q.recs.filter (fun x => q.front ≤ x.round.toNat))).2 = false ∧ ready (.dqpush 20 1 9) s = true ∧ Claims.quiet s 0 ∧ s.softErrors = []
    ∧ after (.dqpush 20 1 9) s (fun u => (u.dq? 0 0).any (fun p => p.chunks == 0 && p.recs.length == 2) && u.me.getG 1 == 0) = true
    ∧ (consolidate (past.recs.filter (fun x => past.front ≤ x.round.toNat))).2 = true ∧ t.dqHandle 9 false false = .ok 0 ∧ t.dq? 0 0 = some past ∧ ready (.dqcons 1 9) t = true ∧ past.halted = false
    ∧ after (.dqcons 1 9) t (fun u => (u.dq? 0 0).any (fun p => p.halted && p.chunks == 1) && u.me.getG 1 == 0x1010) = true := by
  and_intros <;> first | decide +kernel | (intro o h; cases h) | rfl

/-! ## Hypotheses: pipelines and copies -/

/-- A block at 0x100: one stage that consumes a plain queue of 4 records, on core 0, no done phaser. -/
def pipeBytes (head cores : Nat) : Mem :=
  [(0x100, head), (0x108, cores), (0x100 + 40, 1 + 15 * 2 ^ 4 + 0 * 2 ^ 8 + 4 * 2 ^ 16), (0x200, 0x1000), (0x208, 77), (0x228, 256), (0x230, 2)].foldl (fun m (p : Nat × Nat) => Mem.write m p.1 8 p.2) []

def pipeHead : Nat := 1 + 0xFFFF * 2 ^ 16

/-- PipelineInstructions, PIPEDECL: a block misaligned, outside, with a reserved bit, malformed, without cores, and good. -/
theorem witness_pipeline_declaration :
    let s := fun (head cores : Nat) => { given [(5, 0x100), (6, 0x101), (7, 0x40000000)] with spm := pipeBytes head cores }
    let b := fun (s : State) => pipeBlock (s.view s.cur) ((s.getG 5).toNat % 2 ^ 48)
    let g := s pipeHead 1
    ([5, 6, 7] : List (BitVec 6)).all (fun r => ready (.pipedecl r 1) g) = true ∧ g.softErrors = [] ∧ Claims.unheld g ∧ (let h : State := { g with ops := [op (.acquire 0)] }; h.accessesHeld = true ∧ ready (.pipedecl 5 1) h = true) ∧ (g.getG 5).toNat % 64 = 0 ∧ (g.getG 6).toNat % 64 ≠ 0 ∧ g.inScratchpads (g.getG 7) 256 = false ∧ g.inScratchpads (g.getG 5) 256 = true ∧ g.inScratchpads (g.getG 5) 320 = true ∧ g.ownBusy ((g.getG 5).toNat % 2 ^ 48) 320 = false
    ∧ (b (s (pipeHead + 2 ^ 32) 1)).reserved = true ∧ (b (s (pipeHead + 16) 1)).reserved = false ∧ (s (pipeHead + 16) 1).blockOk (b (s (pipeHead + 16) 1)) = false ∧ (b (s pipeHead 0)).cores = [] ∧ (s pipeHead 0).blockOk (b (s pipeHead 0)) = true
    ∧ (b g).reserved = false ∧ g.blockOk (b g) = true ∧ (b g).cores = [0] ∧ (b g).cores.any (fun c => !g.coreIn (0 * 256 + c)) = false ∧ (b g).k ≤ 4 * (b g).cores.length ∧ freeNumber (g.cluster 0).pipes 16 = some 0 ∧ (g.allocPlain 0 0 ((b g).descs.take (b g).nq)).isSome = true := by
  and_intros <;> first | exact unheld_of_no_ops _ rfl | decide +kernel

/-- A pipeline of one stage on core 1 whose input is the queue of `queued`. -/
def pipe0 : Pipe := { lid := 5, token := 9, pid := 1, owner := 5, cores := [1], done := 0xFFFF, queues := [⟨0, 15, 0, 0⟩], stages := [⟨0x1000, 77, 256, 0, 0, false, false⟩] }

def piped (q : DQueue) (p : Pipe) : State :=
  (queued q).modCluster 0 (fun c => { c with pipes := [(0, p)], phasers := [(3, { creator := 1 })], frames := [⟨0, 1, [5]⟩], images := [⟨5, 0, [0]⟩] })

/-- PipelineInstructions, PIPEGO and PIPEWAIT: no pipeline, one started, one declared, one with a done phaser, and an idle one. -/
theorem witness_pipeline_start :
    let s := piped queue pipe0
    let d := { pipe0 with done := 3 }
    let started := { pipe0 with started := true, shares := [4] }
    let idle := { started with queues := [] }
    ready (.pipego 31 1) s = true ∧ s.pipe? (s.getG 31) = none ∧ ready (.pipego 9 1) s = true ∧ s.pipe? (s.getG 9) = some pipe0 ∧ pipe0.started = false ∧ pipe0.done = 0xFFFF ∧ s.ops = [] ∧ (piped queue started).pipe? 0 = some started ∧ (piped queue d).pipe? 0 = some d ∧ d.done < 2 ^ 15 ∧ s.holds d.pid (d.done / 512) = true
    ∧ (piped queue d).phaser? d.done = some { creator := 1 } ∧ ({ creator := 1 } : Phaser).members.length < 1024 ∧ ready (.pipewait 31 1 0) s = true ∧ ready (.pipewait 9 1 1) s = true ∧ (piped queue idle).pipe? 0 = some idle ∧ idle.joined = false ∧ (piped queue idle).stageTasks 0 0 none = 0 := by
  and_intros <;> first | decide +kernel | rfl

/-- PipelineController: a stage that may start on core 1; a check too early and one that is due. -/
theorem witness_pipeline_controller :
    let p := { pipe0 with started := true, shares := [4], nextCheck := 1000 }
    let q := { queue with closes := [1], recs := [rec0] }
    let s : State := { piped q p with launches := [launch5] }
    let t := p.stages.headD ⟨0, 0, 0, 0, 0, false, false⟩
    Tab.get? (s.cluster 0).pipes 0 = some p ∧ p.started = true ∧ p.stages[0]? = some t ∧ p.queues.find? (fun q => q.cons == 0) = some ⟨0, 15, 0, 0⟩ ∧ s.stageTasks 0 0 (some 0) < p.shares.getD 0 0 ∧ s.queueReady 0 0 = true ∧ s.stageBlocked 0 p 0 = false ∧ (s.stageImage 0 p).isSome = true
    ∧ (((s.stageImage 0 p).getD s).placeFor p.lid (0 * 256 + 1) t.window t.scratch t.phasers).isSome = true ∧ 256 ≤ t.window ∧ p.nextCheck ≤ s.clk ∧ ({ s with clk := 999 } : State).clk < p.nextCheck ∧ p.move = none := by
  and_intros <;> first | decide +kernel | rfl

/-- PipelineController: two stages whose queues are filled unlike, one alone, and a move that is pending. -/
theorem witness_pipeline_balance :
    let st : StageTemplate := ⟨0x1000, 77, 256, 0, 0, false, false⟩
    let p := { pipe0 with started := true, shares := [2, 2], nextCheck := 1000, queues := [⟨0, 15, 0, 0⟩, ⟨1, 0, 1, 0⟩], stages := [st, st] }
    let s := (piped { queue with recs := [rec0] } p).modCluster 0 (fun c => { c with dqs := c.dqs ++ [(1, queue)] })
    s.stageOccupancy 0 p 0 = (1, 64) ∧ s.stageOccupancy 0 p 1 = (0, 64) ∧ s.stageBlocked 0 p 0 = false ∧ s.stageBlocked 0 p 1 = false ∧ p.shares = [2, 2] ∧ p.stages.length = 2 ∧ p.move = none ∧ p.nextCheck ≤ s.clk
    ∧ ({ p with shares := [4] } : Pipe).shares.getD 0 0 = 4 ∧ ({ p with move := some (1, 0) } : Pipe).move ≠ none := by
  and_intros <;> first | decide +kernel | rfl

/-- CopyInstructions, CPY and CPYS: sizes and ranges good and bad, and nothing to copy. -/
theorem witness_copies :
    let s := given [(1, 0x1000), (2, 0x2000), (3, 262144), (8, 0x1000), (9, 0x2000), (10, 262145)]
    let t := given [(15, 2 ^ 60), (16, 0x2000), (17, 8), (20, 0x1000), (21, 2 ^ 60), (22, 8)]
    let r := given [(1, 0x1000), (2, 0x2000), (3, 64), (4, 2), (5, 64), (6, 64)]
    let b := given [(3, 262144), (4, 64)]
    Claims.unheld s ∧ (s.core 0).bufWait = [] ∧ s.bufUsed 0 < 8 ∧ ready (.cpy 1 7) s = true ∧ ready (.cpy 8 0) s = true ∧ 262144 < (s.getG 10).toNat ∧ (s.getG 3).toNat ≤ 262144 ∧ s.regionBase (s.getG 1) 262144 ≠ none ∧ s.regionBase (s.getG 2) 262144 ≠ none
    ∧ ready (.cpy 15 7) t = true ∧ t.regionBase (t.getG 15) 8 = none ∧ ready (.cpy 20 7) t = true ∧ t.regionBase (t.getG 20) 8 ≠ none ∧ t.regionBase (t.getG 21) 8 = none ∧ ready (.cpy 30 7) t = true ∧ t.getG 32 = 0
    ∧ ready (.cpys 1 7) r = true ∧ (r.getG 3).toNat * (r.getG 4).toNat ≤ 262144 ∧ (∀ k < 2, r.regionBase (r.getG 1 + r64 k * r.getG 5) 64 ≠ none ∧ r.regionBase (r.getG 2 + r64 k * r.getG 6) 64 ≠ none) ∧ ready (.cpys 1 7) b = true ∧ 262144 < (b.getG 3).toNat * (b.getG 4).toNat ∧ ready (.cpys 20 7) r = true ∧ r.getG 22 = 0 := by
  and_intros <;> first | exact unheld_of_no_ops _ rfl | decide +kernel

/-- CopyInstructions, CPYD, CPYT and CPYT.SET: alignments and ranges good and bad. -/
theorem witness_copies_decoding :
    let s := given [(25, 0x1000), (26, 0x2000), (27, 8), (28, 7), (30, 0x1001), (31, 0x2000), (32, 8), (33, 7), (50, 0x1000), (51, 0x2002), (52, 8), (53, 7)]
    let t := given [(35, 0x1000), (36, 0x40000000), (38, 2 ^ 32 + 1), (40, 0x40000000), (41, 0x40000000), (43, 2 ^ 32 + 1), (45, 0x1000), (46, 0x1000), (48, 2 ^ 32 + 1), (50, 0x1000), (51, 0x40000000), (53, 2 ^ 32 + 262145)]
    let u : State := { t with patterns := [(63, ⟨3 * 16 + 32 * 2 ^ 64 + 2 ^ 96, 1⟩)] }
    ([25, 30, 50] : List (BitVec 6)).all (fun r => ready (.cpyd r 7 6) s) = true ∧ s.address (s.getG 26) = some (0x2000, none) ∧ (s.getG 28).toNat % 64 ∈ [1, 2, 5, 6, 7, 8, 9] ∧ (s.getG 30).toNat % 4 ≠ 0 ∧ (s.getG 51).toNat % 2 ^ 48 % 2 ^ (codeLog 7).getD 0 ≠ 0 ∧ s.regionBase (s.getG 25) 32 ≠ none
    ∧ ([35, 40, 45] : List (BitVec 6)).all (fun r => ready (.cpyt r 7 63) t) = true ∧ ready (.cpyt 50 7 63) t = true ∧ bits (t.getG 53) 0 32 * bits (t.getG 53) 32 32 = 262145 ∧ ready (.cpyt 30 7 63) t = true ∧ t.getG 33 = 0 ∧ (Stride.ofDesc 0).fmt ≠ 3 ∧ (Tab.get? u.patterns 63).map (fun q => (q.pid, (Stride.ofDesc q.desc).fmt)) = some (1, 3) ∧ bits (u.getG 38) 32 32 % 32 ≠ 0 ∧ t.regionBase (t.getG 35) 1 ≠ none ∧ onChip ((t.getG 36).toNat % 2 ^ 48) = false ∧ t.regionBase (t.getG 36) 1 ≠ none ∧ onChip ((t.getG 40).toNat % 2 ^ 48) = false ∧ onChip ((t.getG 46).toNat % 2 ^ 48) = true
    ∧ ([25, 30] : List (BitVec 6)).all (fun r => ready (.cpytSet r 7 3) s) = true ∧ (s.getG 25).toNat % 32 = 0 ∧ s.regionBase (s.getG 25) 32 ≠ none ∧ (s.getG 30).toNat % 32 ≠ 0 := by
  and_intros <;> first | exact unheld_of_no_ops _ rfl | decide +kernel

/-- CopyEngine: a command taken, a copy, a decoding copy, and a descriptor. -/
theorem witness_copy_engine :
    let o := fun (c : CopyCmd) (n : Nat) => { op (.copy c) with stage := n, off := some 40 }
    let a := o (.cpy 0x1000 0x2000 64) 0
    let b := o (.cpy 0x1000 0x2000 64) 1
    let c := o (.cpyd 0x1000 0x2000 8 1 7) 1
    let d := o (.cpytSet 0x100 3) 1
    (flying a).op? 7 = some a ∧ (flying b).op? 7 = some b ∧ (flying c).op? 7 = some c ∧ (flying d).op? 7 = some d ∧ (flying b).ops = [b] ∧ (flying b).softErrors = [] ∧ (flying b).coresOut = [] ∧ (flying b).address 0x1000 = some (0x1000, none) ∧ (flying b).address 0x2000 = some (0x2000, none) ∧ (flying b).holds 1 0 = true
    ∧ ((flying b).slot 0).win.wf = true ∧ (flying b).spm.wf = true ∧ strideOk (1 * 2 ^ 96 + 1 * 2 ^ 64) = true ∧ Mem.read (Mem.write [] 0x100 32 (1 * 2 ^ 96 + 1 * 2 ^ 64)) 0x100 32 = 1 * 2 ^ 96 + 1 * 2 ^ 64 ∧ (⟨64, 2, 2, 0, 3⟩ : Stride).fmt ≠ 3 := by
  and_intros <;> first | decide +kernel | rfl

/-- CopyEngine: copies whose bytes all lie within reach, on chip and in an external page, of every kind; the place of each byte. -/
theorem witness_copy_kinds :
    let s := fun (c : CopyCmd) => flyingOf (mapped base) { op (.copy c) with stage := 1, off := some 40 }
    let t := s (.cpy 0x40000010 0x1000 4)
    let d := s (.cpyd 0x1000 4224 32 0x13 6)
    let p := Stride.ofDesc (4 * 2 ^ 128 + 2 * 2 ^ 96 + 2 * 2 ^ 64 + 1)
    t.ops = [{ op (.copy (.cpy 0x40000010 0x1000 4)) with stage := 1, off := some 40 }] ∧ t.address 0x40000010 = some (0x40000010, none) ∧ t.translate 1 0x40000010 false true false = some (0x1000010, 0x1000007) ∧ t.holds 1 0 = true
    ∧ t.stacksOut = [] ∧ t.nibs = [] ∧ t.ext.wf = true ∧ t.spm.wf = true ∧ Claims.home t 1 0x40000010 = (false, 0x1000010) ∧ Claims.home t 1 0x40000011 = (false, 0x1000011) ∧ Claims.home t 1 0x1000 = (true, 0x1000) ∧ t.op? 7 = some { op (.copy (.cpy 0x40000010 0x1000 4)) with stage := 1, off := some 40 }
    ∧ (∀ r < 2, t.address (0x1000 + r64 r * 64) = some (0x1000 + r * 64, none)) ∧ d.address 4224 = some (4224, none) ∧ 0x13 % 16 = 3 ∧ fmtGeomOk 3 (0x13 / 16 % 4) = true ∧ 4224 % 2 ^ 16 % 2112 = 0 ∧ (t.leaf 1 0x40000000).isSome = true ∧ fmtGeomOk 7 0 = true ∧ fmtGeomOk 4 2 = true
    ∧ p.fmt ≠ 3 ∧ p.esz = 1 ∧ (Stride.ofDesc (3 * 16 + 32 * 2 ^ 64 + 2 ^ 96)).fmt = 3 ∧ Tab.get? ({ t with patterns := [(5, ⟨3 * 16 + 32 * 2 ^ 64 + 2 ^ 96, 1⟩)] } : State).patterns 5 = some ⟨3 * 16 + 32 * 2 ^ 64 + 2 ^ 96, 1⟩ := by
  and_intros <;> first | decide +kernel | rfl

/-! ## Hypotheses: learning -/

/-- A region of four pairs at 0x2000 in set 3, and one of set 5 of another process. -/
def region0 : Region := { base := 0x2000, count := 4, set := 3, pid := 1, lid := 5 }
def learning (x : Slot) : State := { one x with regions := [region0, { region0 with base := 0x3000, set := 5, pid := 2 }] }

/-- PlasticRegions: every answer and trap of PLREG and PLDROP. -/
theorem witness_regions :
    let s := learning (regs task [(5, 0x4000), (6, 16384), (8, 16385), (10, 0x4002), (11, 1), (15, 0x1FFFC), (16, 2), (20, 0x2000), (21, 1), (25, 0x3000), (30, 0x2004)])
    let full : State := { s with regions := (List.range 8).map (fun k => { region0 with base := 0x8000 + 64 * k }) }
    let busy : State := { s with regions := [{ region0 with running := some 8 }] }
    ([5, 7, 10, 15, 20] : List (BitVec 6)).all (fun r => ready (.plreg r 1 3) s && ready (.pldrop r 0 3) s) = true ∧ (s.getG 6).toNat ≤ 16384 ∧ 16384 < (s.getG 8).toNat ∧ (s.getG 10).toNat % 4 ≠ 0 ∧ s.inOneCore (s.getG 15) 8 = none ∧ s.inOneCore (s.getG 5) 4 = some 0x4000 ∧ s.inOneCore (s.getG 20) 4 = some 0x2000
    ∧ s.setPid 3 = some 1 ∧ s.setPid 5 = some 2 ∧ (2 : BitVec 16) ≠ s.pidOf s.cur ∧ 8 ≤ (full.regions.filter (fun r => decide (r.base / 2 ^ 16 = 0x4000 / 2 ^ 16))).length ∧ s.regions.length < 8 ∧ region0.running = none ∧ busy.regions = [{ region0 with running := some 8 }] ∧ ready (.pldrop 20 1 3) busy = true
    ∧ s.inOneCore (s.getG 25) 4 = some 0x3000 ∧ ready (.plreg 25 1 3) s = true ∧ ready (.pldrop 30 1 3) s = true ∧ s.inOneCore (s.getG 30) 4 = some 0x2004 ∧ s.getG 7 = 0 := by
  and_intros <;> first | decide +kernel | rfl

/-- Traces, TRC: a wrong shape, a misaligned base, a base outside; blocks outside regions, in one, and partly in one. -/
theorem witness_trace :
    let l := fun (base : Nat) => [(5, base), (6, 0x100), (7, 0x200), (8, 2 + 2 * 2 ^ 16 + 2 * 2 ^ 32)]
    let s := fun (base : Nat) => learning (regs task (l base))
    let a := s 0x5000
    ready (.trc 5 12 0) a = true ∧ a.spm.wf = true ∧ bits (a.getG 8) 0 16 = 2 ∧ ready (.trc 6 0 0) a = true ∧ bits (a.getG 9) 0 16 = 0 ∧ ((s 0x5002).getG 5).toNat % 4 ≠ 0 ∧ ready (.trc 5 0 0) (s 0x5002) = true ∧ (s 0x10000).inOwnCore ((s 0x10000).getG 5) 16 = none ∧ ready (.trc 5 0 0) (s 0x10000) = true
    ∧ a.inOwnCore (a.getG 5) 16 = some 0x5000 ∧ a.inOwnCore (a.getG 6) 4 = some 0x100 ∧ a.inOwnCore (a.getG 7) 4 = some 0x200 ∧ (∀ g ∈ a.regions, 0 < g.count) ∧ Claims.unheld a ∧ a.softErrors = [] ∧ a.ops = [] ∧ (∀ g ∈ a.regions, ∀ k < 2, g.base + 4 * g.count ≤ 0x5000 + 4 * (k * 2)) ∧ a.me.mode ≠ .rsto ∧ a.me.watch = false
    ∧ ready (.trc 5 0 0) (s 0x2000) = true ∧ (s 0x2000).inOwnCore ((s 0x2000).getG 5) 16 = some 0x2000 ∧ (∀ k < 2, 0x2000 ≤ 0x2000 + 4 * (k * 2) ∧ 0x2000 + 4 * (k * 2) + 4 * 2 ≤ 0x2000 + 4 * 4) ∧ ready (.trc 5 0 0) (s 0x2008) = true := by
  and_intros <;> first | exact unheld_of_no_ops _ rfl | decide +kernel | rfl

/-- Traces: a watched launch whose first trace is an infinity. -/
theorem witness_trace_watch :
    let s : State := { one { regs task [(5, 0x5000), (6, 0x100), (7, 0x200), (8, 1 + 1 * 2 ^ 16 + 1 * 2 ^ 32)] with watch := true } with spm := Mem.write (Mem.write [] 0x100 2 0x7C00) 0x200 2 0x3C00 }
    ready (.trc 5 12 0) s = true ∧ s.me.watch = true ∧ traps (.trc 5 12 0) s 0x09 0 = true := by
  and_intros <;> first | decide +kernel | rfl

/-- Traces, the gate: a TRC that is admitted, one behind a running pass, and one behind an armed reward of a lower stamp. -/
theorem witness_trace_gate :
    let o := op (.trc 0x2000 0x100 0x200 (r64 (2 + 2 * 2 ^ 16 + 2 * 2 ^ 32)) 12 .rne 4 0x2000)
    let w := { op (.reward 3 false 0 3 []) with id := 6 }
    let s : State := { learning { task with blocked := some 7 } with ops := [o] }
    let g := { region0 with armed := [6] }
    s.op? 7 = some o ∧ s.admits 0x2000 7 = true ∧ (s.slot 0).blocked = some 7 ∧ (s.slot 0).watch = false ∧ s.softErrors = [] ∧ (s.slot 0).loops = [] ∧ ({ s with regions := [{ region0 with running := some 6 }] } : State).admits 0x2000 7 = false
    ∧ ({ s with ops := [w, o], regions := [g] } : State).region? 0x2000 = some g ∧ ({ s with ops := [w, o], regions := [g] } : State).armedAt g = [(6, 3)] ∧ ({ s with ops := [w, o], regions := [g] } : State).admits 0x2000 7 = false := by
  and_intros <;> first | decide +kernel | rfl

theorem witness_no_waitw : ∀ p ∈ (flying (op (.trc 0x2000 0x100 0x200 0 12 .rne 4 0x2000))).ops, ∀ b w e, p.kind ≠ .waitw b w e := by simp [flying, flyingOf, op]

/-- Rewards: of one's own set and another's; arming, a pass that begins, one that ends, and completion. -/
theorem witness_rewards :
    let r := fun (l : List Nat) => { op (.reward 3 true 0x3F800000 4 l) with off := some 40 }
    let at' := fun (g : Region) (l : List Nat) => ({ learning task with regions := [g], ops := [r l] } : State)
    let a := at' region0 [0x2000]
    let b := at' { region0 with armed := [7] } []
    let c := at' { region0 with armed := [7], running := some 7 } []
    let d := at' region0 []
    ready (.reward 5 1 3 1) (learning task) = true ∧ ready (.reward 5 0 5 0) (learning task) = true ∧ (learning task).setPid 5 = some 2 ∧ a.op? 7 = some (r [0x2000]) ∧ a.region? 0x2000 = some region0 ∧ region0.set = 3 ∧ region0.pid = (r []).pid ∧ a.dropping 0x2000 = false
    ∧ b.region? 0x2000 = some { region0 with armed := [7] } ∧ c.region? 0x2000 = some { region0 with armed := [7], running := some 7 } ∧ c.spm.wf = true ∧ d.op? 7 = some (r []) ∧ (∀ g ∈ d.regions, 7 ∉ g.armed) ∧ (d.slot 0).win.wf = true ∧ c.softErrors = [] ∧ (∀ p ∈ b.ops, p.owner = 0 → p.task = 1 → 7 ≤ p.id) ∧ (∀ p ∈ a.ops, p.owner = 0 → p = r [0x2000]) ∧ (∀ k ∈ a.regions, k = region0 ∨ (k.base ≠ 0x2000 ∧ ((0x2000 + 4 * region0.count - 1) / 64 < k.base / 64 ∨ (k.base + 4 * k.count - 1) / 64 < 0x2000 / 64))) ∧ (let st := { op (.store [(0x2000, 4, 5)]) with id := 6 }; let w : State := { b with ops := [st, r []] }; w.op? 7 = some (r []) ∧ st.owner = 0 ∧ st.task = 1 ∧ 0x2000 < 0x2000 + 4 * region0.count ∧ 0x2000 < 0x2000 + 4) ∧ (∃ g ∈ b.regions, 7 ∈ g.armed) ∧ (∀ c ∈ d.clusters, c.2.phasers = []) := by
  and_intros <;> first | decide +kernel | rfl

/-- A task in phaser 0 of a step group of period per, in phase ph. -/
def stepping (x : Slot) (members : List Member) (per ph : Nat) : State :=
  (one x).modCluster 0 (fun c => { c with phasers := [(0, { phase := ph, creator := 1, members := members, group := some { period := per, nextTick := 1000, words := [(1, 77)] } })] })

/-- StepAdvance: the last to signal, one of two, a deadline group, one that has signalled, before and after the step; a tick. -/
theorem witness_steps :
    let m : Member := ⟨1, true, true, false, 0, 3⟩
    let a := stepping task [m] 0 0
    let b := stepping task [m, { m with uid := 2 }] 0 0
    let c := stepping task [m] 1000 0
    let d := stepping { task with midway := some (0x1000, 0) } [m] 0 1
    (a.phaser? 0).map (fun p => p.members) = some [m] ∧ a.named (a.getG 0) = .ok (0, (a.phaser? 0).getD { creator := 0 }) ∧ ready (.stepadv 5 1) a = true ∧ m.sigMode = true ∧ m.waitMode = true ∧ a.me.midway = none ∧ a.me.acks = 0 ∧ a.ops = [] ∧ (b.phaser? 0).isSome = true ∧ (c.phaser? 0).map (fun p => p.group.map (fun g => g.period)) = some (some 1000)
    ∧ 1000 ≤ c.clk ∧ ({ c with clk := 999 } : State).clk < 1000 ∧ d.me.midway = some (d.me.pc, 0) ∧ (d.phaser? 0).map (fun p => p.phase) = some 1 ∧ (stepping task [{ m with sigMode := false }] 0 0).me.uid = 1 := by
  and_intros <;> first | decide +kernel | rfl

/-- A ring of 16 neurons and 2 steps at 0x4000 on core 0, bound to phaser 0. -/
def ring0 : Ring := { base := 0x4000, n := 16, d := 2, fade := 0, theta := 0x3C00, vreset := 0, ph := 0, lid := 5 }
def ringed (x : Slot) : State := (stepping x [⟨1, true, true, false, 0, 3⟩] 0 0).modCore 0 (fun c => { c with ring := some ring0 })

/-- RingsAndNeurons: DRING's traps and answers; NRN with no ring, out of range, of none and of several neurons. -/
theorem witness_rings :
    let cfg := 16 + 2 * 2 ^ 16
    let s := ringed (regs task [(5, 0x4000), (6, cfg), (10, 0x4001), (11, cfg), (15, 0x10000), (16, cfg), (20, 0x4000), (21, cfg), (22, 1), (25, 0x4000), (26, cfg), (27, 2 ^ 32 * 256), (30, 0x4000), (31, 2 ^ 28 + cfg), (35, 0), (40, 0), (41, 16), (45, 16), (46, 1), (48, 4)])
    ([5, 10, 15, 20, 25, 30, 35] : List (BitVec 6)).all (fun r => ready (.dring r 1) s) = true ∧ bits (s.getG 31) 28 4 ≠ 0 ∧ (s.getG 10).toNat % 64 ≠ 0 ∧ s.inOwnCore (s.getG 15) 192 = none ∧ s.inOwnCore (s.getG 5) 192 = some 0x4000 ∧ s.phaser? 1 = none ∧ bits (s.getG 22) 0 15 = 1 ∧ bits (s.getG 27) 32 32 = 256 ∧ s.holds (s.pidOf s.cur) 0 = true ∧ s.getG 36 = 0
    ∧ ([40, 45, 48] : List (BitVec 6)).all (fun r => ready (.nrn r) s) = true ∧ (s.core (cidOf s.cur)).ring = some ring0 ∧ s.softErrors = [] ∧ s.spm.wf = true ∧ s.ops = [] ∧ Claims.unheld s ∧ (s.phaser? 0).isSome = true ∧ base.me.issues = true ∧ ready (.nrn 1) base = true ∧ (base.core (cidOf base.cur)).ring = none ∧ (s.getG 40).toNat + (s.getG 41).toNat ≤ ring0.n ∧ ring0.n < (s.getG 45).toNat + (s.getG 46).toNat ∧ s.getG 49 = 0
    ∧ 0 < ring0.d ∧ ring0.vreset < 2 ^ 16 ∧ s.me.mode ≠ .rsto ∧ s.me.watch = false := by
  and_intros <;> first | exact unheld_of_no_ops _ rfl | decide +kernel | rfl

/-- Events: EVSEND wrong, without a target, and good; a deposit at a ring and none; WAITEV with a notice and without; a wake by a notice and by a step. -/
theorem witness_events :
    let s := ringed (regs task [(5, 3 * 2 ^ 16), (6, 0x3C00 + 1 * 2 ^ 16), (10, 256), (11, 2 ^ 16), (15, 0), (16, 0)])
    let e := op (.event 0 3 0x3C00 1 true (some 0) 0 [])
    let f : State := { s with ops := [e] }
    let n := s.modCore 0 (fun c => { c with notices := [77] })
    let w := { op (.waitev (some 0) 0) with off := some 40 }
    let b := { ringed { task with blocked := some 7 } with ops := [w] }
    let full := f.modCore 0 (fun c => { c with notices := List.replicate 64 1 })
    ([5, 10, 15] : List (BitVec 6)).all (fun r => ready (.evsend r 1) s) = true ∧ bits (s.getG 6) 16 6 = 1 ∧ s.holds (s.pidOf s.cur) 0 = true ∧ s.coresOut.contains 0 = false ∧ s.clustersOut.contains 0 = false ∧ s.holds (s.pidOf s.cur) (256 / 256) = false ∧ bits (s.getG 16) 16 6 = 0 ∧ f.op? 7 = some e ∧ (f.core 0).ring = some ring0 ∧ (f.phaser? ring0.ph).isSome = true ∧ 3 < ring0.n ∧ 1 < ring0.d
    ∧ (f.core 0).notices.length < 64 ∧ (full.core 0).notices.length = 64 ∧ ((flying e).core 0).ring = none ∧ isTask s.cur = true ∧ ready (.waitev 1) s = true ∧ s.lowerWaits s.cur = 0 ∧ (n.core (cidOf n.cur)).notices = [77] ∧ (s.core (cidOf s.cur)).notices = []
    ∧ (b.slot (hartOf 0 0)).blocked = some w.id ∧ b.op? w.id = some w ∧ w.owner = hartOf 0 0 ∧ b.lowerWaits (hartOf 0 0) = 0 ∧ (b.slot 0).win.wf = true ∧ (b.phaser? 0).map (fun p => p.phase) = some 0 := by
  and_intros <;> first | decide +kernel | rfl

/-- Rewards: an armed reward whose slot still has an acquire outstanding, or a load that one holds. -/
theorem witness_reward_held :
    let r := op (.reward 3 true 0x3F800000 4 [])
    let g := { region0 with armed := [7] }
    let s := fun (k : OpKind) => ({ learning task with regions := [g], ops := [{ op k with id := 6 }, r] } : State)
    (s (.acquire 0)).op? 7 = some r ∧ (s (.acquire 0)).region? 0x2000 = some g ∧ (s (.acquire 0)).heldBack r = true ∧ (s (.load [(0x2000, 4, 0)] 0 0)).heldBack r = true ∧ ({ learning task with regions := [g], ops := [r] } : State).heldBack r = false
    ∧ after (.rewardPassStart 0x2000) (s (.load [(0x2000, 4, 0)] 0 0)) (fun t => t == s (.load [(0x2000, 4, 0)] 0 0)) = true := by
  and_intros <;> first | decide +kernel | rfl

/-- Events: a cluster the sender's process holds and one it does not; two notices, and a waiting slot of a lower number before the reader. -/
theorem witness_event_turns :
    let e := op (.event 0 3 0x3C00 1 true (some 0) 0 [])
    let f : State := { ringed task with ops := [e] }
    let low := op (.waitev (some 0) 0)
    let s : State := { ((ringed { task with blocked := some 7, waiting := some (.event, 0) }).setSlot 1 { task with uid := 2 }) with cur := 1, ops := [low] }
    let n := fun (l : List Reg64) => s.modCore 0 (fun c => { c with notices := l })
    let before := fun (s : State) (h : Nat) => ((List.range (h % 5)).filter (fun i => let x := s.slot (h / 5 * 5 + i); x.live && x.blocked.isSome && (x.waiting.map (fun w => w.1)) == some .event)).length
    f.holds e.pid 0 = true ∧ f.softErrors = [] ∧ ({ f with clusters := [] } : State).holds e.pid 0 = false ∧ ({ f with clusters := [] } : State).op? 7 = some e
    ∧ before s 1 = 1 ∧ before s 0 = 0 ∧ isTask s.cur = true ∧ ready (.waitev 1) (n [77, 78]) = true ∧ ((n [77, 78]).core 0).notices[1]? = some 78 ∧ ((n [77]).core 0).notices.length ≤ 1
    ∧ after (.waitev 1) (n [77, 78]) (fun t => t.me.getG 1 == 78 && (t.core 0).notices == [77]) = true ∧ after (.waitev 1) (n [77]) (fun t => t.me.blocked.isSome && (t.core 0).notices == [77]) = true := by
  and_intros <;> first | decide +kernel | rfl

/-! ## Hypotheses: the outside -/

/-- RequestsAndLinks: operations that hold a request buffer slot; a packet on its way before and after the escape wait, one that has
arrived and one on a link. -/
theorem witness_requests :
    let b := fun (k : OpKind) => { op k with buf := true, since := 800 }
    let a := b (.atomic 0 8 0x40000000 1 0 0 false .rne 0)
    let f := b (.fullEmpty 0 0x40000000 1)
    let q := b (.qsend 256 0 (r64 1))
    let s := flying a
    let way := flying { a with die := 3 }
    s.op? 7 = some a ∧ a.buf = true ∧ s.heldBack a = false ∧ (flying f).op? 7 = some f ∧ (flying f).heldBack f = false ∧ (flying q).op? 7 = some q ∧ (flying q).heldBack q = false ∧ s.arrived a = true ∧ way.arrived { a with die := 3 } = false ∧ way.onLink 7 = false
    ∧ a.since + s.escapeWait ≤ s.clk ∧ ({ s with clk := 927 } : State).clk < a.since + s.escapeWait ∧ ({ way with links := [(0, { chans := [(0, { unacked := [⟨0, 1, some 7⟩] })] })] } : State).onLink 7 = true := by
  and_intros <;> first | decide +kernel | rfl

/-- RequestsAndLinks: a link with a packet in flight, with none, one sent again that was delivered, one acknowledged, one whose replays have failed
16 times, one in training, and one whose packet carries an operation to the die it is for. -/
theorem witness_links :
    let ch := fun (c : Channel) => ({ base with links := [(63, { chans := [(7, c)] })] } : State)
    let p3 : Packet := ⟨3, 1, none⟩
    let p4 : Packet := ⟨4, 1, none⟩
    let a := ch { nextSend := 5, unacked := [p3, p4], flight := [p3, p4], expect := 3, failed := 15 }
    let b := ch { nextSend := 5, unacked := [p3, p4], flight := [p3, p4], expect := 5 }
    let t : State := { base with links := [(63, { training := true, chans := [(7, { unacked := [p3, p4] })] })] }
    let o := op (.msg false 4096 1 0 [1])
    let m : State := { flying o with links := [(0, { chans := [(0, { nextSend := 1, unacked := [⟨0, 1, some 7⟩], flight := [⟨0, 1, some 7⟩] })] })] }
    (a.link 63).training = false ∧ (a.link 63).down = false ∧ ((a.link 63).chan 7).failed < 16 ∧ ((a.link 63).chan 7).flight = p3 :: [p4] ∧ p3.seq = ((a.link 63).chan 7).expect ∧ ((a.link 63).chan 0).flight = [] ∧ ((b.link 63).chan 7).flight = p3 :: [p4] ∧ p3.seq ≠ ((b.link 63).chan 7).expect ∧ p3.op = none
    ∧ ((b.link 63).chan 7).unacked = p3 :: [p4] ∧ p3.seq < ((b.link 63).chan 7).expect ∧ (t.link 63).training = true ∧ 16 ≤ (((ch { failed := 16 }).link 63).chan 7).failed
    ∧ m.op? 7 = some o ∧ ((m.link 0).chan 0).flight = ⟨0, 1, some o.id⟩ :: [] ∧ m.hop o 0 0 = some 1 ∧ ((m.link 0).chan 0).expect = 0 := by
  and_intros <;> first | decide +kernel | rfl

/-- RequestsAndLinks: a replay buffer with room for the next packet, an empty one, and one without. -/
theorem witness_replay_buffer :
    (([] : List Packet).map (fun p => p.flits)).sum + Config.packetFlits 0 ≤ Config.replayFlits ∧ ¬ ((([⟨0, Config.replayFlits + 1, none⟩] : List Packet).map (fun p => p.flits)).sum + Config.packetFlits 1 ≤ Config.replayFlits) := by
  have := Config.packetFlits_le 0
  constructor <;> simp <;> omega

/-- HostAccessesAndRings: a byte that translates and one that does not, and the station's entry a write meets. -/
theorem witness_host_accesses :
    let s := (mapped base).modStation 0 (fun t => { t with cache := [⟨1, 16384, 0, 0x1000007⟩] })
    s.nibs = [] ∧ s.ext.wf = true ∧ (0x40000000 : Reg64).toNat + 1 ≤ 2 ^ 48 ∧ (s.translate 1 (0x40000000 + 0) true false false).map (fun p => p.1) = some 0x1000000 ∧ (s.translate 1 (0x40000000 + 0) false true false).map (fun p => p.1) = some 0x1000000 ∧ (s.cached 1 (0x40000000 + 0)).isSome = true
    ∧ base.nibs = [] ∧ base.translate 1 (0x40000000 + 0) true false false = none ∧ base.translate 1 (0x40000000 : Reg64).toNat false true false = none ∧ base.ext.wf = true ∧ (0x3FFFFFFF : Reg64).toNat < 0x40000000 ∧ 2 ^ 48 < (0xFFFFFFFFFFFF : Reg64).toNat + 2 ∧ 4096 < 4097 := by
  and_intros <;> first | decide +kernel | rfl

/-- A ring of 16 records at 0x4000_0000. -/
def lring : LaunchRing := { die := 3, n := 0, base := 0x40000000, stat := 0x40000800, pid := 1, s := 4, vec := 9, tail := 15, stopped := false }

/-- HostAccessesAndRings: a descriptor, and head writes to rings that run, have stopped, lie in mapped and in unmapped memory. -/
theorem witness_launch_rings :
    let d : BitVec 256 := BitVec.ofNat 256 (0x40000800 * 2 ^ 192 + 0x40000000 * 2 ^ 128 + 1 * 2 ^ 112 + 12 * 2 ^ 108 + 9 * 2 ^ 96)
    let s : State := { mapped base with rings := [lring] }
    base.ring? 3 0 = none ∧ s.ring? 3 0 = some lring ∧ s.ring? 3 1 = none ∧ (∀ k < 1, s.ring? 3 k ≠ none) ∧ d.toNat % 2 ^ 96 = 0 ∧ 4 ≤ d.toNat / 2 ^ 108 % 16 ∧ d.toNat / 2 ^ 108 % 16 ≤ 12 ∧ (d.toNat / 2 ^ 128 % 2 ^ 64) % 64 = 0 ∧ (d.toNat / 2 ^ 192 % 2 ^ 64) % 8 = 0
    ∧ lring.stopped = false ∧ (15 : Reg64).toNat = lring.tail ∧ (14 : Reg64).toNat < lring.tail ∧ lring.tail + 2 ^ lring.s < (32 : Reg64).toNat ∧ (16 : Reg64).toNat = lring.tail + 1 ∧ s.nibs = []
    ∧ (s.readVirt lring.pid (lring.base.toNat + 64 * (lring.tail % 2 ^ lring.s)) 64).2 = true ∧ (({ base with rings := [lring] } : State).readVirt lring.pid (lring.base.toNat + 64 * (lring.tail % 2 ^ lring.s)) 64).2 = false
    ∧ ({ base with rings := [{ lring with stopped := true }] } : State).ring? 3 0 = some { lring with stopped := true } := by
  and_intros <;> first | decide +kernel | rfl

/-- Management: images at and below the counter, settings at their bounds, throttle levels early and late, a part in reset, bring-up. -/
theorem witness_management :
    let s : State := { base with rollback := 5, throttleAt := [(3, 900)], clk := 180900 }
    let r : State := { State.reset with powered := true, agenda := [.event (.telemetryRead 0 0)] }
    let images := (List.range 5).map (fun u => (⟨u, 1, 7⟩ : FwImage))
    let up : State := { State.reset with firmware := images, topology := peerRoute }
    s.rollback ≤ 5 ∧ ¬ s.rollback ≤ 4 ∧ Tab.get? s.throttleAt 0 = none ∧ Tab.get? s.throttleAt 3 = some 900 ∧ 900 + 180000 ≤ s.clk ∧ ({ s with clk := 180899 } : State).clk < 900 + 180000
    ∧ r.powered = true ∧ r.ready = false ∧ r.agenda = .event (.telemetryRead 0 0) :: [] ∧ isEvent (.telemetryRead 0 0) = true ∧ inReset (.telemetryRead 0 0) = true ∧ inReset (.clusterAssignment 0 1) = false
    ∧ up.ready = false ∧ (∀ u < 5, ∃ m ∈ up.firmware, m.unit = u) ∧ up.refused = [] ∧ up.selfTest = [] ∧ up.modulesOut = [] ∧ peerRoute.sigOk = true ∧ (1 : BitVec 16) ≠ 0 ∧ (0 : BitVec 5).toNat < (4 : BitVec 8).toNat ∧ (4 : BitVec 8).toNat ≤ 32
    ∧ (∀ r ∈ peerRoute.routes, r.part < 4 ∧ r.part ≠ 0 ∧ (1 : BitVec 16).getLsbD r.port = true ∧ r.via.length ≤ 2) := by
  and_intros <;> first | decide +kernel | rfl

/-- RequestsAndLinks: a request that is held has left its buffer once accepted. -/
theorem test_acceptance : after (.requestAcceptance 7) (flying { op (.fullEmpty 0 0x40000000 1) with buf := true }) (fun t => t.ops.all (fun o => !o.buf)) = true := by decide +kernel

/-- RequestsAndLinks: a request that has not left the issuer's die, and an operation that took the escape channel and is there. -/
theorem witness_escaped :
    let a := { op (.atomic 0 8 0x40000000 1 0 0 false .rne 0) with buf := true, die := 3 }
    let m := op (.msg false 4096 1 0 [1])
    let s : State := { flying m with escaped := [7], links := [(0, { chans := [(2, { nextSend := 1, unacked := [⟨0, 1, some 7⟩], flight := [⟨0, 1, some 7⟩], replays := 1 })] })] }
    (flying a).op? 7 = some a ∧ (flying a).arrived a = false ∧ after (.requestAcceptance 7) (flying a) (fun t => t == flying a) = true
    ∧ s.hop m 0 2 = some 1 ∧ s.packetTo m = 1 ∧ ((s.link 0).chan 2).replays = 1 ∧ after (.packetReceipt 0 2 true) s (fun t => t.escaped == [] && t.ops.all (fun o => o.die == 1) && ((t.link 0).chan 2).replays == 0) = true
    ∧ after (.packetReceipt 0 2 false) s (fun t => ((t.link 0).chan 2).failed == 1) = true := by
  and_intros <;> first | decide +kernel | rfl

/-- Management: bring-up with a port of the domain whose link has left service. -/
theorem witness_port_down :
    let s : State := { State.reset with links := [(48, { down := true })] }
    Claims.ofBits 16 (fun w => (3 : BitVec 16).getLsbD w && !(s.link (48 + w)).down) = 2 := by decide +kernel

/-! ## Hypotheses of further clauses -/

/-- Every link between the dies is down. -/
def apart (s : State) : State := { s with links := (List.range 48).map (fun l => (l, { down := true })) }

/-- OperandFills, QuantisationResults and CopyEngine: every die is joined to the issuer's; and one that is not. -/
theorem witness_joined : (∀ d < 4, base.joined (dieOf (op (.value 0 [])).owner) d = true) ∧ (apart base).joined 0 1 = false := by decide +kernel

/-- IssueTrapOrder: a FORK of no iterations, one of some, and one whose count has not arrived. -/
theorem witness_fork_refs :
    let s := given [(11, 1)]
    let late := s.modMe (fun x => { x with pend := [(88, 7)] })
    (s.refs (.fork 20)).length = 7 ∧ (s.refs (.fork 10)).length = 12 ∧ (late.refs (.fork 10)).length = 7 ∧ (s.refs (.fork 10))[4]? = some ⟨.g 4, false, false⟩ := by
  and_intros <;> first | decide +kernel | rfl

/-- ReplayCapture: a body whose second word may not be replayed, a step from g0, one that ends beyond g55, and with a constant of index 31 and 32, the latter
a reserved encoding, which falls under the clause of the words that are not allowed alone. -/
theorem witness_capture_rows :
    let i := Instr.rpt 1 0 1 1 0 0
    let s := coded task [i.word.toNat, 0x04310C40, 0x7C000004]
    let j := Instr.rpt 0 9 1 1 0 0
    let z := coded task [j.word.toNat, (Instr.add 0 4 5 0 0).word.toNat]
    let p := coded task [j.word.toNat, (Instr.add 47 4 5 0 0).word.toNat]
    ready i s = true ∧ (s.wordAt 0 0x1004).isSome = true ∧ s.wordAt 0 0x1008 = some 0x7C000004 ∧ s.capture 0 s.me.pc i.word = some (1, 0x7C000004, 0x1000)
    ∧ ready j z = true ∧ z.wordAt 0 0x1004 = some (Instr.add 0 4 5 0 0).word ∧ (z.capture 0 z.me.pc j.word).map (fun e => e.1) = some 1
    ∧ (0 : BitVec 1) ≠ 1 ∧ p.wordAt 0 0x1004 = some (Instr.add 47 4 5 0 0).word ∧ (p.capture 0 p.me.pc j.word).map (fun e => e.1) = some 0x0B ∧ 56 ≤ (47 : BitVec 6).toNat + (9 : BitVec 8).toNat * (1 : BitVec 4).toNat
    ∧ (let k := fun (b0 : BitVec 6) => coded task [j.word.toNat, (Instr.add 55 4 b0 0 1).word.toNat]
       ((k 31).capture 0 0x1000 j.word).map (fun e => e.1) = some 0x0B ∧ ((k 32).capture 0 0x1000 j.word).map (fun e => e.1) = some 1 ∧ legal (.add 55 4 32 0 1) = false) := by
  and_intros <;> first | decide +kernel | rfl

/-- AtomicIssue: FAADD under RSTO. -/
theorem witness_atomic_draw :
    let s := one { regs task memRegs with fcr := 5, srs := 1 }
    s.me.mode = .rsto ∧ ready (.faadd 1 5 9 0 0 0) s = true ∧ Claims.buffered s ∧ s.atomicBroken (s.getG 5) 8 = false ∧ s.atomicCheck (s.getG 5) 8 = none
    ∧ after (.faadd 1 5 9 0 0 0) s (fun t => t.me.srs == 0x40822041) = true ∧ after (.famin 1 5 9 0 0 0) s (fun t => t.me.srs == 1) = true := by
  and_intros <;> first | decide +kernel | rfl

/-- AtomicAtOwner: an external word, and FAMAX of 1.0 with a NaN there. -/
theorem witness_atomic_external :
    let o := op (.atomic 0 8 0x40000000 1 0 0 false .rne 0)
    let s := flyingOf (mapped base) o
    let m := op (.atomic 12 4 0x40000000 0x3F800000 0 0 false .rne 0)
    let v : State := { flyingOf (mapped base) m with ext := Mem.write (mapped base).ext 0x1000000 4 0x7FC00000 }
    s.op? 7 = some o ∧ s.address 0x40000000 = some (0x40000000, none) ∧ s.arrived o = true ∧ s.callWaits 81920 = false ∧ (s.slot 81920).live = false ∧ s.cacheFull 81920 = false ∧ s.heldBack o = false ∧ s.earlierOwn o 0x40000000 8 = false ∧ s.earlierCall o 81920 = false
    ∧ (s.translate 1 0x40000000 true true false).map (fun p => p.1) = some 0x1000000 ∧ s.nibsOut.contains 0 = false ∧ (s.foldAt 0x1000000 8).ext.wf = true ∧ s.softErrors = [] ∧ s.spm.wf = true ∧ s.nibs = []
    ∧ after (.atomicAtOwner 7) s (fun t => Mem.read t.ext 0x1000000 8 == 1 && t.ops.any (fun p => p.reply == [0])) = true
    ∧ after (.atomicAtOwner 7) v (fun t => Mem.read t.ext 0x1000000 4 == (Claims.extreme fp32 true 0x7FC00000 0x3F800000).1 && t.ops.any (fun p => p.reply == [0x7FC00000])) = true := by
  and_intros <;> first | decide +kernel | rfl

/-- ReductionAtMemory: the first RADD to an address, on a reduction page and on another, and over links that are down. -/
theorem witness_first_reduction :
    let o := op (.radd 0x40000000 false 0x3F800000)
    let red : State := { flyingOf (mapped base) o with ext := Mem.write (mapped base).ext 0x203000 8 (0x1000007 + 2 ^ 5 + 7 * 2 ^ 6) }
    let s := flyingOf (mapped base) o
    let far := op (.radd 0x40400000 false 0x3F800000)
    s.op? 7 = some o ∧ s.heldBack o = false ∧ s.address 0x40000000 = some (0x40000000, none) ∧ (s.cluster 0).comb = [] ∧ s.canReach 0 (81920 + 0x40000000 / 65536 % 256) = true
    ∧ (red.translate 1 0x40000000 false true false).map (fun p => (p.1, pteRed p.2, pteFmt p.2)) = some (0x1000000, true, 7) ∧ (s.translate 1 0x40000000 false true false).map (fun p => pteRed p.2) = some false
    ∧ (apart (flying far)).op? 7 = some far ∧ (apart (flying far)).canReach 0 (81920 + 0x40400000 / 65536 % 256) = false
    ∧ after (.raddAtCombiner 7) red (fun t => (t.cluster 0).comb == [⟨0x40000000, some 0x1000000, false, [(0, 0x3F800000)]⟩]) = true ∧ after (.raddAtCombiner 7) (apart (flying far)) (fun t => t == apart (flying far)) = true := by
  and_intros <;> first | decide +kernel | rfl

/-- RemoteReplies: the time-out of a RADD of this part that its channel's links cut off, and of one whose entry is there. -/
theorem witness_reduction_time_out :
    let o := { op (.radd 0x40400000 false 0x3F800000) with due := 1000 }
    let s := apart (flying o)
    s.op? 7 = some o ∧ s.address 0x40400000 ≠ none ∧ o.due ≤ s.clk ∧ s.combHolds o 0x40400000 = false ∧ s.canReach 0 (s.callUnit 0x40400000) = false
    ∧ (s.modCluster 0 (fun c => { c with comb := [⟨0x40400000, some 0, false, []⟩] })).combHolds o 0x40400000 = true ∧ after (.rcTimeoutExpiry 7) s (fun t => t.ops == []) = true := by
  and_intros <;> first | decide +kernel | rfl

/-- FenceCompletion: FENCE.RED while a RADD of the task is held by a full combiner. -/
theorem witness_fence_held :
    let l := (List.range 32).map (fun k => (⟨0x40000000 + 8 * k, some (0x1000000 + 8 * k), false, [(0, 0)]⟩ : CombEntry))
    let s := (flyingOf (one { task with acks := 1 }) (op (.radd 0x40001000 false 0))).modCluster 0 (fun c => { c with comb := l })
    ready (.fence 1 5) s = true ∧ s.me.acks ≠ 0 ∧ 32 ≤ (s.cluster (clusterOf s.cur)).comb.length ∧ s.ops = [op (.radd 0x40001000 false 0)]
    ∧ after (.fence 1 5) s (fun t => (t.cluster 0).comb.isEmpty && t.forwards.length == 32 && t.me.pc == 0x1000) = true := by
  and_intros <;> first | decide +kernel | rfl

/-- AcquireAndRelease: an atomic marked .ACQ whose reply is on its way from another die, and one whose reply is back. -/
theorem witness_acquire_atomic :
    let a := { op (.atomic 0 8 0x100 1 0 1 false .rne 0) with stage := 1 }
    let far := { a with die := 3 }
    (flying a).op? 7 = some a ∧ (flying a).arrived a = true ∧ (flying a).earlierReply a ((flying a).callUnit 0x100) = false ∧ (flying far).op? 7 = some far ∧ (flying far).arrived far = false
    ∧ far.holding = true ∧ after (.acquireCompletion 7) (flying far) (fun t => t == flying far) = true ∧ after (.acquireCompletion 7) (flying a) (fun t => t.ops.all (fun o => !o.holding)) = true := by
  and_intros <;> first | decide +kernel | rfl

/-- HeldAccesses: a VTILD behind an acquire; a vector load of two elements with nothing before it, and the element its next turn writes. -/
theorem witness_held_elements :
    let a := op (.acquire 0)
    let t := { op (.table 0 16 0x100) with id := 8 }
    let l := { op (.load [(0x100, 4, 0), (0x104, 4, 32)] 0 0) with off := some 512 }
    let s : State := { flying l with spm := Mem.write [] 0x100 8 0x0000000500000003 }
    ({ base with ops := [a, t] } : State).op? 8 = some t ∧ a.owner = t.owner ∧ a.task = t.task ∧ a.id < t.id ∧ s.op? 7 = some l ∧ l.off = some 512 ∧ l.port = 0 ∧ (s.slot 0).live = true ∧ (s.slot 0).uid = l.task
    ∧ after (.pendingValueArrival 7) s (fun u => Mem.read (u.slot 0).win 512 8 == 3 && u.ops.length == 1) = true := by
  and_intros <;> first | decide +kernel | rfl

/-- QueueSendAndPeek and MessagesSentAndDelivered: a control core's QSEND, and a message to a number that no core has. -/
theorem witness_no_core :
    let o := { op (.qsend 0 0 5) with owner := ctlHart 3, task := 0, cluster := 64 }
    let m := op (.msg false 16384 0 0 [1])
    (flying o).op? 7 = some o ∧ (flying o).earlierMsg o = false ∧ 16384 ≤ o.cluster * 256 + 0 ∧ after (.qsendDelivery 7) (flying o) (fun t => t.ops == [] && t.nibs == base.nibs) = true
    ∧ (flying m).op? 7 = some m ∧ ¬ 16384 < 16384 ∧ (0 : BitVec 5).toNat = (flying m).domIndex.toNat := by
  and_intros <;> first | decide +kernel | rfl

/-- QuantisationQueue: a bad command with one behind it. -/
theorem witness_quantisation_behind :
    let r := { op (.qnt 0x100 false [r64 (2 ^ 48), 0, 0, 0, 0, 0, 0, 0] []) with stage := 1, off := some 40 }
    let b := { op (.qnt 0x200 false [0, 0, 0, 0, 0, 0, 0, 0] []) with id := 8, stage := 1, off := some 48 }
    let s := ({ base with ops := [r, b] } : State).modCluster 0 (fun c => { c with qntRun := some 7, qntQ := [8] })
    s.op? 7 = some r ∧ (s.cluster 0).qntRun = some 7 ∧ (s.cluster 0).qntQ = [b].map (fun x => x.id) ∧ (s.ops.map (fun x => x.id)).Nodup ∧ 40 + 8 ≤ 48 ∧ (s.slot 0).live = true ∧ (s.slot 0).uid = b.task ∧ (s.slot 0).win.wf = true ∧ s.panelsOut = []
    ∧ after (.qntCommandCompletion 0) s (fun t => t.ops == [] && Mem.read (t.slot 0).win 40 8 == 0x810 && Mem.read (t.slot 0).win 48 8 == 0xC10 && (t.cluster 0).qntHalt) = true := by
  and_intros <;> first | decide +kernel | rfl

/-- VectorMemoryAccesses: a turn whose task's load is read an element at a time. VectorBasesAndTables: a VTILD held back, and a VTI whose table waits. -/
theorem witness_split_loads :
    let x := { regs task [(5, 0x1000), (1, 16), (2, 0x1000), (3, 4080), (4, 0)] with grant := 8 }
    let v : State := { one x with agenda := [.event (.pendingValueArrival 100)] }
    let h : State := { one x with ops := [op (.acquire 0)] }
    let w : State := { one x with ops := [op (.table 0 16 0x100)] }
    ready (.vld 1 5 0 0 2) v = true ∧ Claims.unheld v ∧ v.me.grant ≤ 64 ∧ v.agenda.head? = some (.event (.pendingValueArrival v.nextId)) ∧ after (.vld 1 5 0 0 2) v (fun t => !t.ops.isEmpty && t.me.pc == 0x1004 && t.me.pend.length == t.ops.length) = true
    ∧ ready (.vtild 1 2 3) h = true ∧ h.accessesHeld = true ∧ h.softErrors = [] ∧ after (.vtild 1 2 3) h (fun t => t.ops.length == 2 && t.me.pc == 0x1004 && t.tables == h.tables) = true
    ∧ ready (.vti 1 2 4 0 6) w = true ∧ (w.getG 4).toNat % 16 = 0 ∧ (op (.table 0 16 0x100)).born < w.clk ∧ after (.vti 1 2 4 0 6) w (fun t => t.me.pc == 0x1000) = true := by
  and_intros <;> first | exact unheld_of_no_ops _ rfl | decide +kernel | rfl

/-- DeltaQueuePopAndClose: a DQCLOSE that releases a round of a queue declared for consolidation, in order, and one whose sum does not fit. -/
theorem witness_queue_release :
    let q := { queue with blot := true, recs := [{ rec0 with key := 7 }, { rec0 with key := 3 }, { rec0 with key := 7, mult := 0xFFFFFFFF }, { rec0 with key := 3, mult := 2 }, { rec0 with key := 3, vlo := 1 }] }
    let past := { queue with blot := true, recs := [{ rec0 with mult := 0x7FFFFFFF }, rec0] }
    let s := queued q
    s.dq? 0 0 = some q ∧ q.halted = false ∧ Claims.quiet s 0 ∧ s.dqHandle 9 true false = .ok 0 ∧ ready (.dqclose 10 1 9) s = true ∧ s.me.acks = 0 ∧ q.closes[(s.getG 10).toNat]? = some 0 ∧ (s.getG 11).toNat % 2 ^ 32 = 0 ∧ q.front < ({ q with closes := [1] } : DQueue).front
    ∧ (consolidate (q.recs.filter (fun x => x.round.toNat = q.front))).2 = false ∧ (consolidate (past.recs.filter (fun x => x.round.toNat = past.front))).2 = true ∧ ready (.dqclose 10 1 9) (queued past) = true
    ∧ after (.dqclose 10 1 9) s (fun u => (u.dq? 0 0).any (fun p => p.recs == [{ rec0 with key := 3, vlo := 1 }, { rec0 with key := 3, mult := 3 }]) && u.me.getG 1 == 0) = true
    ∧ after (.dqclose 10 1 9) (queued past) (fun u => (u.dq? 0 0).any (fun p => p.halted) && u.me.getG 1 == 0x1010) = true := by
  and_intros <;> first | decide +kernel | (intro o h; cases h) | rfl

/-- Consolidation: DQCONS on a halted queue and on one not declared for it. Arrangements: DQJOIN of a record whose pairs do not fit, and of a key
below the one before it. -/
theorem witness_queue_ends :
    let halted := { queue with halted := true }
    let q := { queue with arrCap := 2, arr := [⟨1, 3, 1⟩, ⟨1, 4, 1⟩] }
    let batch := fun (k cap : Nat) (w : List Reg64) => ({ (queued q).modSlot 0 (fun x => regs x [(40, 0x200), (41, k), (42, 0x400), (43, cap)]) with spm := wordEls 0x200 w |>.foldl (fun m w => Mem.write m w.1 w.2.1 w.2.2) [] } : State)
    let small := batch 1 1 [1, 2, 3, 1]
    let down := batch 2 4 [2, 2, 3, 1, 1, 2, 3, 1]
    ready (.dqcons 1 9) (queued halted) = true ∧ (queued halted).dqHandle 9 false false = .ok 0 ∧ Claims.quiet (queued halted) 0 ∧ ready (.dqcons 1 9) (queued queue) = true ∧ queue.blot = false
    ∧ ready (.dqjoin 40 1 9) small = true ∧ small.dqHandle 9 false true = .ok 0 ∧ (recIn (small.view small.cur) 0x200).key = 1 ∧ (q.arr.filter (fun x => x.key == 1)).length = 2 ∧ after (.dqjoin 40 1 9) small (fun t => t.getG 1 == r64 (2 ^ 62) && t.ops == []) = true
    ∧ ready (.dqjoin 40 1 9) down = true ∧ (recIn (down.view down.cur) 0x220).key.ult (recIn (down.view down.cur) 0x200).key = true ∧ after (.dqjoin 40 1 9) down (fun t => t.getG 1 == r64 (2 * 2 ^ 62 + 2 ^ 32)) = true := by
  and_intros <;> first | decide +kernel | (intro o h; cases h) | rfl

/-- PipelineInstructions: plain queues the buffer cannot hold, and every handle in use. -/
theorem witness_pipeline_codes :
    let s := { given [(5, 0x100)] with spm := pipeBytes pipeHead 1 }
    let b := pipeBlock (s.view s.cur) ((s.getG 5).toNat % 2 ^ 48)
    let full := s.modCluster 0 (fun c => { c with dqs := [(0, { queue with cap := 65536 }), (1, { queue with cap := 65536 })] })
    let used := s.modCluster 0 (fun c => { c with pipes := (List.range 16).map (fun n => (n, pipe0)) })
    b.reserved = false ∧ full.blockOk b = true ∧ used.blockOk b = true ∧ b.cores.any (fun c => !full.coreIn (0 * 256 + c)) = false ∧ (full.cluster 0).pool < 32 * (((b.descs.take b.nq).filter (fun d => bits d 0 2 == 1)).map (fun d => bits d 16 16)).sum
    ∧ freeNumber (used.cluster 0).pipes 16 = none ∧ (used.allocPlain 0 16 (b.descs.take b.nq)).isSome = true ∧ ready (.pipedecl 5 1) full = true ∧ ready (.pipedecl 5 1) used = true
    ∧ after (.pipedecl 5 1) full (fun t => t.ops.map (fun o => o.kind) == [.value (r64 (2 ^ 63 + 4)) []]) = true ∧ after (.pipedecl 5 1) used (fun t => t.ops.map (fun o => o.kind) == [.value (r64 (2 ^ 63 + 5)) []]) = true := by
  and_intros <;> first | decide +kernel | rfl

/-- Events and RingsAndNeurons: the process holds the group's cluster, and does not; a phaser that has signals becomes a step group. -/
theorem witness_groups :
    let e := op (.event 0 3 0x3C00 1 false (some 0) 0 [])
    let s := flyingOf (ringed task) e
    let gone := { e with kind := .event 0 3 0x3C00 1 false (some 512) 0 [] }
    s.holds 1 (0 / 512) = true ∧ s.holds 1 (512 / 512) = false ∧ (flyingOf (ringed task) gone).op? 7 = some gone ∧ after (.eventDeposit 7) s (fun t => t.ops == [] && t.spm != s.spm) = true ∧ after (.eventDeposit 7) (flyingOf (ringed task) gone) (fun t => t.ops == [] && t.spm == s.spm) = true := by
  and_intros <;> first | decide +kernel | rfl

/-- RequestsAndLinks: an atomic its unit accepts, one to a core out of service, and one to a part that cannot be reached. -/
theorem witness_atomic_acceptance :
    let a := { op (.atomic 0 8 0x100 1 0 0 false .rne 0) with buf := true }
    let p := { op (.atomic 0 8 (r64 (35 * 2 ^ 48)) 1 0 0 false .rne 0) with buf := true, die := 7 }
    let q : State := { flying p with domSize := 4 }
    (flying a).op? 7 = some a ∧ (flying a).arrived a = true ∧ (flying a).heldBack a = false ∧ (flying a).unitOut 4 = false ∧ (flying a).cacheFull 4 = false ∧ (flying a).callUnit 0x100 = 4 ∧ ({ flying a with coresOut := [0] } : State).unitOut 4 = true
    ∧ q.arrived p = true ∧ q.callUnit (r64 (35 * 2 ^ 48)) = 2 ^ 20 + 32 * 4 + 3 ∧ q.peerIn 3 = false
    ∧ after (.requestAcceptance 7) (flying a) (fun t => t.replies.length == 1 && t.ops.all (fun o => !o.buf)) = true ∧ after (.requestAcceptance 7) { flying a with coresOut := [0] } (fun t => t.replies.isEmpty && t.ops.all (fun o => o.buf)) = true
    ∧ after (.requestAcceptance 7) q (fun t => t == q) = true := by
  and_intros <;> first | decide +kernel | rfl

/-- Management: a command processor's image before the management controller's, and the management controller's with a stack that failed. -/
theorem witness_firmware_order :
    let r : State := { State.reset with powered := true, selfTest := [21088, 21096] }
    r.ready = false ∧ (∀ m ∈ r.firmware, m.unit ≠ 0) ∧ after (.firmwareImage 1 1 true 7) r (fun t => t == r) = true
    ∧ after (.firmwareImage 0 1 true 7) r (fun t => t.stacksOut == [0] && t.selfTest == [21096] && t.firmware.length == 1) = true := by
  and_intros <;> first | decide +kernel | rfl

/-! ## Later hypotheses and rules: transfers, rejections, turns, elements read, parts of a vector access, and what ends with a queue -/

/-- TransfersOfControl: a branch that reads two ports, and a jump that reads ib, whose message has another word. -/
theorem witness_transfers :
    let s := one { task with q0 := [7, 8], q1 := [9], inbox := [[0x40, 1], [2]], loops := [{ start := 0x900, last := 0x1000, left := 3, ren := false, chk := false }] }
    let reads := fun (i : Instr) (r : RegName) => ((opds i).filter (fun o => o.inbound && o.reg == r)).length
    reads (.beq 56 57 3) (.g 56) = 1 ∧ reads (.beq 56 57 3) (.g 57) = 1 ∧ reads (.jr 63) (.g 63) = 1 ∧ reads (.jr 5) (.g 63) = 0
    ∧ (s.commitJump (.beq 56 57 3) 0x100C).me.q0 = [8] ∧ (s.commitJump (.beq 56 57 3) 0x100C).me.q1 = [] ∧ (s.commitJump (.beq 56 57 3) 0x100C).me.pc = 0x100C ∧ (s.commitJump (.jr 63) 0x40).me.inbox = [[1], [2]] ∧ (s.commitJump (.jr 63) 0x40).me.loops = s.me.loops := by
  and_intros <;> decide +kernel

/-- LaunchRecords: a record for every code of R93, each without a reason of a lower code, at the ends of the ranges. -/
theorem witness_reject_codes :
    let rec_ := fun (entry clusters count w5 w6 w7 : Nat) => ([entry, 0, clusters, count, 0, w5, w6, w7].map r64 : List Reg64)
    let code := fun (fw : Bool) (w : List Reg64) => base.rejectCode 0 1 fw w
    let full : State := { base with launches := List.replicate 4096 { launch5 with prio := 0 } }
    code false (rec_ 0x1000 1 4 65536 0 0) = 0 ∧ code false (rec_ 0x1000 1 4 (16 * 2 ^ 32) 0 0) = 0 ∧ code true (rec_ 0x1000 1 4 (7 * 2 ^ 56) 0 0) = 0 ∧ code false (rec_ 0x1000 2 0 256 0 0) = 0
    ∧ code false (rec_ 0x1002 2 4 (2 ^ 50 + 7 * 2 ^ 56) 2 0) = 1 ∧ code false (rec_ 0x1002 2 4 (2 ^ 59) 18 0) = 1 ∧ code false (rec_ 0x1000 1 4 0 0 1) = 1 ∧ code false (rec_ 0x1000 1 4 0 16 0) = 1
    ∧ code false (rec_ 0x1002 2 4 (1 + 7 * 2 ^ 56) 2 0) = 2 ∧ code true (rec_ 0x1002 2 4 (1 + 7 * 2 ^ 56) 2 0) = 3 ∧ code false (rec_ 0x1002 2 4 65792 2 0) = 3 ∧ code false (rec_ 0x1002 2 4 (17 * 2 ^ 32) 2 0) = 3
    ∧ code false (rec_ 0x1002 2 4 256 2 0) = 4 ∧ code false (rec_ (2 ^ 48) 2 4 256 2 0) = 4 ∧ code false (rec_ 0x1000 2 4 256 2 0) = 5 ∧ ({ base with clustersOut := [0] } : State).rejectCode 0 1 false (rec_ 0x1000 1 4 256 2 0) = 5 ∧ code false (rec_ 0x1000 1 4 256 2 0) = 6
    ∧ full.rejectCode 0 1 false (rec_ 0x1000 1 4 256 0 0) = 7 ∧ full.rejectCode 1 1 false (rec_ 0x1000 1 4 256 0 0) = 0 ∧ full.rejectCode 0 1 false (rec_ 0x1000 1 4 (2 ^ 56) 0 0) = 0 := by
  and_intros <;> decide +kernel

/-- StepRunsDecoded: the turn of a control core; a residue mismatch that it meets twice keeps its instruction from running (R289). -/
theorem witness_control_turn :
    let s : State := { base with agenda := [.control 3 (.addi 1 0 5)] }
    let got := fun (s : State) (p : State → Bool) => match step s with | .next t => p t | _ => false
    (s.slot (82176 + 3)).bad = [] ∧ s.softErrors = [] ∧ got s (fun t => (t.slot 82179).getG 1 == 5) = true
    ∧ got { s with softErrors := [.residue 82179 0 false true] } (fun t => (t.slot 82179).getG 1 == 5 && t.mgmtErrs.length == 1 && t.softErrors.isEmpty) = true
    ∧ got { s with softErrors := [.residue 82179 0 true true] } (fun t => (t.slot 82179).getG 1 == 0 && t.mgmtErrs.map (fun r => r.kind) == [1, 4]) = true := by
  and_intros <;> decide +kernel

/-- R181, R183, R289: under 8 lanes a bad word of v2 in byte 28 is read, and one in byte 32 or in an element that is not active is not. -/
theorem test_elements_read :
    let s := fun (off k1 : Nat) => one { task with grant := 8, bad := [512 + 2 * 256 + off], win := Mem.write [] 456 8 k1 }
    let reads := fun (i : Instr) (off k1 : Nat) => ((s off k1).readCheck i ((s off k1).touched i)).2.isSome
    reads (.vadd 1 2 3 0 2 0) 28 0 = true ∧ reads (.vadd 1 2 3 0 2 0) 32 0 = false ∧ reads (.vadd 1 2 3 1 2 0) 28 0x7F = false ∧ reads (.vadd 1 2 3 1 2 0) 28 0x80 = true
    ∧ reads (.vmerge 1 3 2 1 2) 28 0x7F = true ∧ reads (.vunpk 1 2 0 0 1 0 1) 12 0 = false ∧ reads (.vunpk 1 2 0 0 1 0 1) 16 0 = true ∧ reads (.vslidedn 1 2 0 1 2) 28 0x80 = true ∧ reads (.vst 2 0 0 0 2) 28 0 = true := by
  and_intros <;> decide +kernel

/-- VectorMemoryAccesses, StepRunsDecoded and RemoteRoutineEnd, a nib: before an event VLD and VST begin a run of turns of their own, one element each
before an event, which a budget that is used up does not stop; else all that remain at one turn. -/
theorem witness_vector_parts :
    let s : State := { nibBase with agenda := [.event (.storeAtHome 0)], nibMem := Mem.write [] 0x100 8 0x200000001 }
    let l := Claims.contiguous s 0 0 32 (s.getG 5)
    let q : Parts := ⟨some (1, 32), 4, [(0, 0x100, 0), (1, 0x104, 0)]⟩
    let mid := fun (q : Parts) => s.modMe (fun x => { x with parts := some q })
    let late := fun (s : State) => ({ s with clk := 40000, harts := [(81920, s.me)] } : State)
    let turn := fun (s : State) => ({ s with agenda := [.nib 0] } : State)
    isNib s.cur = true ∧ ready (.vld 1 5 0 0 2) s = true ∧ ready (.vst 1 5 0 0 2) s = true ∧ s.nibMem.wf = true ∧ l.all (fun p => decide (p.2.toNat < 0x10000) && p.2.toNat % 4 == 0) = true ∧ l.length = 16 ∧ (Claims.contiguous s 6 0 32 (s.getG 5)).length ≤ 16
    ∧ after (.vld 1 5 0 0 2) s (fun t => t.getV 1 == 0 && t.me.parts.map (fun q => q.left.length) == some 16 && t.me.pc == s.me.pc) = true ∧ after (.vld 1 5 0 0 2) { s with agenda := [] } (fun t => t.getV 1 == 0x200000001 && t.me.parts.isNone && t.me.pc == s.me.pc + 4) = true
    ∧ (mid q).me.parts = some q ∧ (mid q).eventNext = true ∧ ((mid q).nextParts.getV 1 == 1 && ((mid q).nextParts.me.parts == some { q with left := [(1, 0x104, 0)] })) = true
    ∧ (let u := (mid { q with dst := none, left := [(1, 0x104, 9)] }).nextParts; Mem.read u.nibMem 0x100 8 = 0x900000001 ∧ u.me.parts = none ∧ u.me.pc = s.me.pc + 4)
    ∧ (turn (mid q)).mayIssue 81920 = true ∧ (match step (turn (mid q)) with | .next t => t.getV 1 == 0x200000001 && t.me.pc == s.me.pc + 4 | _ => false) = true
    ∧ (late (mid q)).harts = [((late (mid q)).cur, (late (mid q)).me)] ∧ (late (mid q)).me.live = true ∧ (late (mid q)).me.parts ≠ none ∧ after (.routineBudgetExpiry 6) (late (mid q)) (fun t => t.me.live) = true ∧ after (.routineBudgetExpiry 6) (late s) (fun t => t.me.live) = false := by
  and_intros <;> decide +kernel

/-- VectorBasesAndTables: a VTI of the slot waits for its held VTILD, another slot's does not (R106). -/
theorem witness_table_waits :
    let x := { regs task [(4, 0)] with grant := 8 }
    let s : State := { one x with tblMem := Mem.write [] 8 8 1, ops := [op (.table 0 16 0x1000)] }
    let other : State := { s.setSlot 1 { x with uid := 2 } with cur := 1 }
    ready (.vti 1 2 4 0 6) s = true ∧ ready (.vti 1 2 4 0 6) other = true ∧ s.ops.any (fun q => q.owner == s.cur && q.task == s.me.uid) = true ∧ other.ops.any (fun q => q.owner == other.cur && q.task == other.me.uid) = false
    ∧ after (.vti 1 2 4 0 6) s (fun t => t == s.mark .pending) = true ∧ after (.vti 1 2 4 0 6) other (fun t => t.me.pc == 0x1004) = true := by
  and_intros <;> decide +kernel

/-- R234: what a running routine has written stands when a copy ends; CopyEngine, QuantisationResults and Rewards: none runs. -/
theorem witness_unwritten :
    let s := base.setSlot 4 { routine with routine := some ⟨6, 0x1000, 1, 5, 0, false, 9, 990, [(0x200, 8)]⟩ }
    let m : Move := ⟨0x207, [], 9, none, none⟩
    Claims.unwritten base ∧ s.routineWrote 1 [0x1FF, 0x207] = true ∧ s.routineWrote 1 [0x1FF, 0x208] = false
    ∧ ((s.writeMoves 0 1 (fun _ => false) [m, { m with dst := 0x208 }] 2).spm.get 0x207) = 0 ∧ ((s.writeMoves 0 1 (fun _ => false) [m, { m with dst := 0x208 }] 2).spm.get 0x208) = 9 := by
  and_intros <;> decide +kernel

/-- Rewards: a pass that ends alone; and one that waits for the pass over the region that shares its granule, with which it ends. -/
theorem witness_reward_kin :
    let g := fun (base : Nat) (run : Option Nat) => { region0 with base := base, count := 2, armed := [7], running := run }
    let s := fun (a b : Region) => ({ learning task with regions := [a, b], ops := [op (.reward 3 true 0x3F800000 4 [])], spm := Mem.write [] 0x2008 4 0x3C003C00 } : State)
    let far := s (g 0x2000 (some 7)) (g 0x2040 none)
    let waits := s (g 0x2000 (some 7)) (g 0x2008 none)
    let both := s (g 0x2000 (some 7)) (g 0x2008 (some 7))
    far.region? 0x2000 = some (g 0x2000 (some 7)) ∧ (∀ k ∈ far.regions, k = g 0x2000 (some 7) ∨ (k.base ≠ 0x2000 ∧ ((0x2000 + 4 * 2 - 1) / 64 < k.base / 64 ∨ (k.base + 4 * k.count - 1) / 64 < 0x2000 / 64)))
    ∧ after (.rewardPassEnd 0x2000) far (fun t => (t.regions.map (fun r => r.running)) == [none, none] && t.ops.map (fun o => o.done) == [1]) = true
    ∧ after (.rewardPassEnd 0x2000) waits (fun t => t == waits) = true ∧ (g 0x2008 none).armed = [7] ∧ 0x2008 / 64 ≤ (0x2000 + 4 * 2 - 1) / 64
    ∧ after (.rewardPassEnd 0x2000) both (fun t => t.ops.map (fun o => o.done) == [2] && Mem.read t.spm 0x2008 4 == 0x40000000) = true := by
  and_intros <;> decide +kernel

/-- R69, R72: a jump to 0 that reads a port takes its entry as the task's retirement begins. R97: a launch whose next task fits a core of the cluster is
the cluster's choice. R404: a peer address lies in no storage of this part. -/
theorem test_jump_choice_and_peer :
    let s := one { task with q0 := [0, 8], inbox := [[0], [5]] }
    let p := ({ State.reset with launches := [launch5] } : State).modCluster 0 (fun c => { c with pid := some 1, frames := [⟨0, 1, [5]⟩], images := [⟨5, 0, [0]⟩] })
    after (.jr 56) s (fun t => t.me.retiring && t.me.q0 == [8]) = true ∧ after (.jr 63) s (fun t => t.me.retiring && t.me.inbox == [[5]]) = true
    ∧ p.taskFits launch5 3 ≠ none ∧ (mapped base).scAt 1 (2 ^ 53 + 0x40000000) = false := by
  and_intros <;> decide +kernel

/-- R97, R100: a launch whose task fits cluster 0 and first fits in cluster 1 is cluster 0's choice, and no lower launch comes instead. R99, R225, R286: a
second page whose leaf has x and a reserved bit faults at its address; one without x ends the image. -/
theorem test_choice_and_image :
    let c : Cluster := { pid := some 1, frames := [⟨0, 1, [5, 6]⟩], images := [⟨5, 0, [0]⟩, ⟨6, 0, [0]⟩] }
    let s : State := { State.reset with ready := true, clusters := [(0, c), (1, c)], launches := [{ launch5 with clusters := 3, walk := 256 }, { launch5 with lid := 6, prio := 1 }] }
    let m := fun (leaf : Nat) => { mapped base with ext := Mem.write (Mem.write (mapped base).ext 0x203000 8 0x100000F) 0x203008 8 leaf }
    (s.fitsIn 0 { launch5 with clusters := 3, walk := 256 } && after (.taskPlacement 0) s (fun t => t.harts == s.harts) && after (.taskPlacement 1) s (fun t => (t.slot 1280).live)) = true
    ∧ (m 0x101100F).imagePages 1 16 0x4000 = [0x100] ∧ (m 0x101100F).imageFault 0 { launch5 with pid := 1, entry := 0x40000000 } = some 0x40010000 ∧ (m 0x1010007).imageFault 0 { launch5 with pid := 1, entry := 0x40000000 } = none := by
  and_intros <;> decide +kernel

/-- R83, R334: LDM g40 of 20 words in a handler slot names no port; its first register outside the window gives status 3 with the window offset, and LD of
g56 status 1. R403: a slot that is entered among the waits but waits no more holds none of them up. -/
theorem test_ports_and_buffer :
    let h := { handlerBase with harts := [(4, { (handlerBase.slot 4) with winSize := 256 })] }
    let s := fun (w : Option (Wait × Nat)) => ((one { task with waiting := some (.request, 5) }).setSlot 1 { task with uid := 2, waiting := w }).modCore 0 (fun c => { c with bufWait := [1, 0] })
    issueTrap (.ldm 40 5 19 0) h = some (3, 320) ∧ (issueTrap (.ld 56 5 0 0 0) h).map (fun t => t.1) = some 1
    ∧ (s (some (.request, 6))).wantsBuffer 0 1 = true ∧ (s none).wantsBuffer 0 1 = false ∧ (s (some (.port, 6))).wantsBuffer 0 1 = false ∧ (s none).wantsBuffer 0 0 = true := by
  and_intros <;> decide +kernel

/-- R289, R290, R292: of several listed errors an instruction or operation meets the first, and the others stay; a panel error that is not replayed leaves no
record. R165: a freed pipeline leaves no stage task. -/
theorem test_one_error_each :
    let s : State := { base with softErrors := [.residue 0 8 false true, .residue 0 16 true true, .panel 0 false, .panel 0 true, .buffer 0 false, .buffer 0 true, .walk 0, .walk 0] }
    let p : State := { base with softErrors := [.panel 0 true] }
    let st := (piped queue pipe0).setSlot 0 { task with stage := some ⟨0, 0, 0⟩ }
    (s.readCheck (.add 1 2 3 0 0) []).2 = none ∧ ((s.readCheck (.add 1 2 3 0 0) []).1.readCheck (.add 1 2 3 0 0) []).2 = some 16
    ∧ (s.panelError 0 true).2 = false ∧ ((s.panelError 0 true).1.panelError 0 true).2 = true ∧ (s.bufferError 0 0 0).2 = false ∧ ((s.bufferError 0 0 0).1.bufferError 0 0 0).2 = true ∧ (s.walkError 0).softErrors.contains (.walk 0) = true
    ∧ ((p.panelError 0 false).1.cluster 0).errs = [] ∧ ((p.panelError 0 true).1.cluster 0).errs.length = 1 ∧ st.stageTasks 0 0 none = 1 ∧ (st.freePipe 0 0 1).stageTasks 0 0 none = 0 := by
  and_intros <;> decide +kernel

/-- R320: with N = 0 a DRING waits for no pending base, and with another N it does. R290: STF of a word that cannot be read takes cause 0x08. -/
theorem test_bases_and_words :
    let s := fun (n : Nat) => one { regs task [(11, n)] with pend := [(80, 3)] }
    let t : State := { given [(5, 0x100), (6, 9)] with softErrors := [.storage 0x100 true] }
    issueWait (.dring 10 0) (s 0) = none ∧ issueWait (.dring 10 0) (s 1) = some .pending ∧ traps (.stf 6 5 0) t 8 0x100 = true := by
  and_intros <;> decide +kernel

/-- R380, R392: a DQPUSH that has waited is held when its round is released, a new one is not; a record of the round keeps it open. R165, R377: a
pipeline that names a freed queue goes with it. -/
theorem test_rounds_and_queues :
    let q := { queue with closes := [1], drained := 1 }
    let s := piped queue pipe0
    ({ queue with closes := [1] } : DQueue).push 0 false true rec0 = ({ queue with closes := [1], recs := [rec0] }, some (0, false)) ∧ ({ queue with closes := [1] } : DQueue).push 0 false false rec0 = ({ queue with closes := [1] }, some (3, false))
    ∧ q.roundDone 0 = true ∧ ({ q with recs := [rec0] } : DQueue).roundDone 0 = false ∧ (s.cluster 0).pipes ≠ [] ∧ ((s.freeQueue 0 0).cluster 0).pipes = [] ∧ ((s.freeQueue 0 0).cluster 0).dqs = [] := by
  and_intros <;> decide +kernel

/-- R234, R312: two REWARDs of different slots that each have begun at linked regions and share one: the one that began first is armed there, then the other. -/
theorem test_reward_order :
    let g := fun (base : Nat) (l : List Nat) => { region0 with base := base, count := 2, armed := l }
    let r := fun (id owner due : Nat) => { op (.reward 3 true 0x3F800000 4 [0x2008]) with id := id, owner := owner, due := due }
    let s : State := { learning task with regions := [g 0x2000 [7], g 0x2008 [], g 0x2010 [8]], ops := [r 7 0 3, r 8 1 4] }
    after (.rewardArming 8 0x2008) s (fun t => t == s) = true
    ∧ after (.rewardArming 7 0x2008) s (fun t => t.regions.map (fun r => r.armed) == [[7], [7], [8]] && after (.rewardArming 8 0x2008) t (fun u => u.regions.map (fun r => r.armed) == [[7], [7, 8], [8]])) = true
    ∧ after (.rewardArming 7 0x2008) { s with regions := [g 0x2000 [7], g 0x2008 []], ops := [r 7 0 0] } (fun t => t.ops.map (fun o => o.due) == [s.nextId]) = true := by
  and_intros <;> decide +kernel

end Sys2Proof.Tests
end

section
/-! The laws of a hart's turn without soft errors (O1): the word it fetches and holds, what comes before its next instruction, the
issue order of a core, and the step that runs the decoded instruction. -/

namespace Sys2Proof.Machine

/-! ## The bytes of a fetched word (R8, R138, R327) -/

/-- Each byte of a value read is the byte of the memory at its place. -/
theorem Mem.byteOf_read (m : Mem) (a n k : Nat) (hk : k < n) : Claims.byteOf (m.read a n) k = m.get (a + k) := by
  induction n generalizing a k with
  | zero => omega
  | succ n ih =>
    have hb := (m.get a).isLt
    cases k with
    | zero => apply BitVec.eq_of_toNat_eq; simp [Claims.byteOf, Mem.read, Nat.mod_eq_of_lt hb]
    | succ k =>
      have hdiv : ((m.get a).toNat + 256 * Mem.read m (a + 1) n) / 256 ^ (k + 1) = Mem.read m (a + 1) n / 256 ^ k := by
        rw [Nat.pow_succ', ← Nat.div_div_eq_div_mul]
        congr 1
        omega
      have hrest := ih (a + 1) k (by omega)
      simp only [Claims.byteOf] at hrest ⊢
      rw [Mem.read, hdiv, hrest]
      congr 1
      omega

/-- A word that the unit does not hold comes from the instruction store. -/
theorem State.wordAt_of_codeAt (s : State) (h p : Nat) (a : Reg64) (hheld : (s.slot h).heldWord a = none)
    (hp : s.codeAt (s.codeOf h).1 (s.codeOf h).2 a = some p) : s.wordAt h a = some (BitVec.ofNat 32 (Mem.read s.imem p 4)) := by
  simp only [State.wordAt, hheld, hp, Option.map_some]

/-- The fetched word consists of the four bytes of the instruction store at its place. -/
theorem State.wordAt_bytes (s : State) (h p : Nat) (a : Reg64) (hheld : (s.slot h).heldWord a = none)
    (hp : s.codeAt (s.codeOf h).1 (s.codeOf h).2 a = some p) :
    ∃ v, s.wordAt h a = some v ∧ ∀ k < 4, Claims.byteOf v.toNat k = s.imem.get (p + k) := by
  refine ⟨_, s.wordAt_of_codeAt h p a hheld hp, fun k hk => ?_⟩
  have hlt : Mem.read s.imem p 4 < 2 ^ 32 := Mem.read_lt s.imem p 4
  rw [BitVec.toNat_ofNat, Nat.mod_eq_of_lt hlt, Mem.byteOf_read _ _ _ _ hk]

/-- Holding the fetched word changes at most the words of the hart's unit. -/
theorem State.holdWord_eq (s : State) (h : Nat) : ∃ l, s.holdWord h = s ∨ s.holdWord h = s.setSlot h { s.slot h with words := l } := by
  simp only [State.holdWord]
  split
  · exact ⟨_, .inr rfl⟩
  · exact ⟨[], .inl rfl⟩

@[simp] theorem State.holdWord_cur (s : State) (h : Nat) : (s.holdWord h).cur = s.cur := by
  obtain ⟨l, e | e⟩ := s.holdWord_eq h
  · rw [e]
  · rw [e, State.setSlot_cur]

@[simp] theorem State.holdWord_softErrors (s : State) (h : Nat) : (s.holdWord h).softErrors = s.softErrors := by
  obtain ⟨l, e | e⟩ := s.holdWord_eq h
  · rw [e]
  · rw [e, State.setSlot_softErrors]

@[simp] theorem State.holdWord_slot_bad (s : State) (h : Nat) : ((s.holdWord h).slot h).bad = (s.slot h).bad := by
  obtain ⟨l, e | e⟩ := s.holdWord_eq h
  · rw [e]
  · rw [e, State.slot_setSlot_self]

/-! ## The instruction that is fetched (R78, R138, R147, log 15) -/

/-- What a word decodes to with the word after it, or the illegal instruction (R82). -/
def decodedOrIllegal (w : Word) (second : Option Word) : Instr :=
  match decodeWords w second with
  | .ok d => d.instr
  | .error _ => .illegalInstruction w

theorem decodedOrIllegal_of_ok {w : Word} {second : Option Word} {d : Decoded} (hd : decodeWords w second = .ok d) : decodedOrIllegal w second = d.instr := by
  rw [decodedOrIllegal, hd]

theorem decodedOrIllegal_of_not_ok {w : Word} {second : Option Word} (hd : ∀ d, decodeWords w second ≠ .ok d) : decodedOrIllegal w second = .illegalInstruction w := by
  rw [decodedOrIllegal]
  split
  · next d e => exact absurd e (hd d)
  · rfl

section Fetched
variable {s : State} {h : Nat} {w : Word}

theorem sel_major (w : Word) : sel 26 6 w = w.toNat / 2 ^ 26 := by
  have hw := w.isLt
  simp only [sel]
  omega

/-- Outside an RPT frame the word of the body is the word fetched. -/
theorem State.bodyWord_of_not_rptOn (hr : (s.slot h).rptOn = false) : s.bodyWord h w = w := by
  simp [State.bodyWord, hr]

/-- An X word without a second word decodes to nothing. -/
theorem decodeWords_X_none (hx : w.toNat / 2 ^ 26 = 0x3E) : decodeWords w none = .error (.misplacedX w) := by
  simp only [decodeWords, sel_major, hx, if_true, Option.bind_none]

variable (hw : s.wordAt h (s.slot h).pc = some w) (hr : (s.slot h).rptOn = false) (hpc : (s.slot h).pc.toNat % 4 = 0)
  (inner : w.toNat / 2 ^ 26 = 0x3E → ∀ e ∈ (s.slot h).loops, e.last ≠ (s.slot h).pc)

include hw hr hpc

/-- What is fetched where the pc names a word, outside an RPT frame. -/
theorem State.fetched_of_word :
    s.fetched h = if w.toNat / 2 ^ 26 = 0x3E ∧ (s.slot h).loops.any (fun e => e.last == (s.slot h).pc) = true then .illegalInstruction w
      else if w.toNat / 2 ^ 26 = 0x3E ∧ (s.wordAt h ((s.slot h).pc + 4)).isNone = true then .instructionFetchOutsideImage ((s.slot h).pc + 4)
      else decodedOrIllegal w (s.wordAt h ((s.slot h).pc + 4)) := by
  simp only [State.fetched, hpc, hw, State.bodyWord_of_not_rptOn hr, sel_major, ne_eq, not_true_eq_false, if_false]
  rfl

/-- A word that decodes to nothing, its second word in the image, is fetched as the illegal instruction. -/
theorem State.fetched_of_not_decodes (hd : ∀ d, decodeWords w (s.wordAt h ((s.slot h).pc + 4)) ≠ .ok d)
    (h2 : w.toNat / 2 ^ 26 = 0x3E → s.wordAt h ((s.slot h).pc + 4) ≠ none) : s.fetched h = .illegalInstruction w := by
  rw [State.fetched_of_word hw hr hpc]
  split
  · rfl
  · rw [if_neg (fun hx => h2 hx.1 (Option.isNone_iff_eq_none.1 hx.2)), decodedOrIllegal_of_not_ok hd]

include inner

/-- An X word is not taken for the last word of a loop's body where no loop ends at it. -/
theorem State.fetched_of_inner :
    s.fetched h = if w.toNat / 2 ^ 26 = 0x3E ∧ (s.wordAt h ((s.slot h).pc + 4)).isNone = true then .instructionFetchOutsideImage ((s.slot h).pc + 4)
      else decodedOrIllegal w (s.wordAt h ((s.slot h).pc + 4)) := by
  have hin : ¬ (w.toNat / 2 ^ 26 = 0x3E ∧ (s.slot h).loops.any (fun e => e.last == (s.slot h).pc) = true) := by
    rintro ⟨hx, ha⟩
    obtain ⟨e, he, hl⟩ := List.any_eq_true.1 ha
    exact inner hx e he (beq_iff_eq.1 hl)
  rw [State.fetched_of_word hw hr hpc, if_neg hin]

/-- A word that decodes, with the word after it, is fetched as what it decodes to. -/
theorem State.fetched_of_decodes {d : Decoded} (hd : decodeWords w (s.wordAt h ((s.slot h).pc + 4)) = .ok d) : s.fetched h = d.instr := by
  have h2 : ¬ (w.toNat / 2 ^ 26 = 0x3E ∧ (s.wordAt h ((s.slot h).pc + 4)).isNone = true) := by
    rintro ⟨hx, hn⟩
    rw [Option.isNone_iff_eq_none.1 hn, decodeWords_X_none hx] at hd
    cases hd
  rw [State.fetched_of_inner hw hr hpc inner, if_neg h2, decodedOrIllegal_of_ok hd]

/-- An X word whose second word lies outside the image is fetched as that word's absence. -/
theorem State.fetched_of_X_outside (hx : w.toNat / 2 ^ 26 = 0x3E) (h2 : s.wordAt h ((s.slot h).pc + 4) = none) :
    s.fetched h = .instructionFetchOutsideImage ((s.slot h).pc + 4) := by
  rw [State.fetched_of_inner hw hr hpc inner, if_pos ⟨hx, Option.isNone_iff_eq_none.2 h2⟩]

end Fetched

/-! ## Before the next instruction, without soft errors (R289, R290, R364) -/

/-- A state whose current hart is h already. -/
theorem State.setCur_of_eq {s : State} {h : Nat} (hcur : s.cur = h) : ({ s with cur := h } : State) = s := by
  subst hcur
  rfl

section NoSoftErrors
variable {s : State} (he : s.softErrors = [])
include he

theorem State.residue_of_no_softErrors (h : Nat) : s.residue h = none := by
  simp [State.residue, he]

theorem State.engineEvents_of_no_softErrors (cl : Nat) : s.engineEvents cl = s := by
  have hs : ({ s with softErrors := [] } : State) = s := by rw [← he]
  simp only [State.engineEvents, he, List.filter_nil, List.foldl_nil, hs]

theorem State.fetchError_of_no_softErrors (h : Nat) : s.fetchError h = (s, true) := by
  simp [State.fetchError, he]

/-- Without soft errors, and with no bad register word, an instruction is executed. -/
theorem State.readOf_of_no_softErrors (i : Instr) (hb : s.me.bad = []) : s.readOf i = (s, true) := by
  rw [State.readOf, if_pos (.inl ⟨by rw [State.residue_of_no_softErrors he]; rfl, hb⟩)]

/-- Without soft errors, bad register words and a shadow to commit again, only the word fetched is held before the instruction. -/
theorem State.prelude_of_no_softErrors (h : Nat) (hcur : s.cur = h) (hwd : s.withdrawn h = none) (hb : (s.slot h).bad = []) :
    s.prelude h = (s.holdWord h, true) := by
  have hlost : s.shadowLost h = none := by simp [State.shadowLost, hwd]
  have hre : s.recommit h = some s := by simp [State.recommit, hwd]
  have heng : (if isCore h then s.engineEvents (clusterOf h) else s) = s := by
    rw [State.engineEvents_of_no_softErrors he, ite_self]
  have hc : ({ s.holdWord h with cur := h } : State) = s.holdWord h := State.setCur_of_eq (by rw [State.holdWord_cur, hcur])
  have hread : (s.holdWord h).readNext = (s.holdWord h, true) :=
    State.readOf_of_no_softErrors (by simpa using he) _ (by rw [State.me, State.holdWord_cur, hcur, State.holdWord_slot_bad]; exact hb)
  simp only [State.prelude, hlost, hre, heng, State.fetchError_of_no_softErrors he, not_true_eq_false, if_false]
  rw [hc, hread]

end NoSoftErrors

/-! ## A hart's turn -/

/-- A hart whose word is held and which may issue executes what it fetches. -/
theorem hartTurn_of_mayIssue (ex : Exec) (s : State) (h : Nat) (he : s.softErrors = []) (hm : s.mayIssue h = true) (hst : s.takesStatus h = false)
    (hwd : s.withdrawn h = none) (hb : (s.slot h).bad = []) (hp : (s.slot h).parts = none) :
    hartTurn ex s h = ex ((({ s with cur := h } : State).holdWord h).fetched h) (({ s with cur := h } : State).holdWord h) := by
  have hm' : ({ s with cur := h } : State).mayIssue h = true := hm
  have hst' : ({ s with cur := h } : State).takesStatus h = false := hst
  have hp' : (({ s with cur := h } : State).slot h).parts = none := hp
  have hpre : ({ s with cur := h } : State).prelude h = (({ s with cur := h } : State).holdWord h, true) :=
    State.prelude_of_no_softErrors (s := { s with cur := h }) he h rfl hwd hb
  simp [hartTurn, hm', hst', hp', hpre, State.fetch]

/-- A nib in the middle of a vector access goes on with it (R185). -/
theorem hartTurn_of_parts (ex : Exec) (s : State) (h : Nat) (hm : s.mayIssue h = true) (hst : s.takesStatus h = false) (hp : (s.slot h).parts ≠ none) :
    hartTurn ex s h = .next ({ s with cur := h } : State).nextParts := by
  have hm' : ({ s with cur := h } : State).mayIssue h = true := hm
  have hst' : ({ s with cur := h } : State).takesStatus h = false := hst
  have hp' : (({ s with cur := h } : State).slot h).parts.isSome = true := Option.isSome_iff_ne_none.2 hp
  simp [hartTurn, hm', hst', hp']

/-- Only a task slot takes a status trap. -/
theorem State.takesStatus_of_not_isTask (s : State) (h : Nat) (ht : isTask h = false) : s.takesStatus h = false := by
  simp [State.takesStatus, ht]

theorem isTask_nibHart (n : Nat) : isTask (nibHart n) = false := by
  rw [isTask, nibHart, decide_eq_false (by omega)]

/-! ## The issue slot of a core (R24, R105) -/

/-- The slots that can do nothing are passed over. -/
theorem issueGo_append (ex : Exec) (before l : List Nat) (s : State) (hb : ∀ k ∈ before, s.mayIssue k = false ∧ s.takesStatus k = false) :
    issueGo ex (before ++ l) s = issueGo ex l s := by
  induction before with
  | nil => rfl
  | cons k before ih =>
    obtain ⟨hm, hst⟩ := hb k List.mem_cons_self
    rw [List.cons_append, issueGo, if_pos (by simp [hm, hst]), ih (fun j hj => hb j (List.mem_cons_of_mem k hj))]

/-- A slot that may issue, and does not wait after its turn, is the one that has issued. -/
theorem issueGo_cons (ex : Exec) (h : Nat) (l : List Nat) (s t : State) (hm : s.mayIssue h = true) (ht : hartTurn ex s h = .next t)
    (hwait : t.waits s h = false) : issueGo ex (h :: l) s = .next (t.noteIssue h) := by
  simp [issueGo, hm, ht, hwait]

/-- A core whose issue slot is free and which owes no back-edge tries its slots in order. -/
theorem coreTurn_of_free (ex : Exec) (s : State) (c : Nat) (hc : c < 16384) (ht : s.throttled c = false) (hg : s.issueGone c = false)
    (hedge : ∀ k < 4, (s.slot (c * 5 + k)).edge = false) : coreTurn ex s c = issueGo ex (s.issueOrder c) s := by
  have hdue : s.edgeDue c = false := by
    simp only [State.edgeDue, List.any_eq_false, List.mem_range]
    intro k hk
    rw [hartOf, hedge k hk]
    exact Bool.false_ne_true
  simp [coreTurn, Nat.not_le.2 hc, ht, hg, hdue]

/-! ## The turns of a step -/

section Turns
variable {s : State} (hpow : s.powered = true)
include hpow

/-- With an empty agenda one clk passes and the current core has its turn (log 6). -/
theorem step_of_agenda_nil (ha : s.agenda = []) : step s = turn exec (s.tickClk 1) (.core (cidOf s.cur)) := by
  simp [step, stepWith, ha, hpow]

/-- Otherwise the agenda's first turn is taken (log 6). -/
theorem step_of_agenda_cons {t : Turn} {rest : List Turn} (ha : s.agenda = t :: rest) : step s = turn exec { s with agenda := rest } t := by
  simp [step, stepWith, ha, hpow]

variable (hrd : s.ready = true)
include hrd

theorem step_core (ha : s.agenda = []) : step s = coreTurn exec (s.tickClk 1) (cidOf s.cur) := by
  have hrd' : (s.tickClk 1).ready = true := hrd
  rw [step_of_agenda_nil hpow ha, turn, if_pos hrd']

theorem step_nib {n : Nat} {rest : List Turn} (ha : s.agenda = .nib n :: rest) (hn : n < 256) :
    step s = hartTurn exec { s with agenda := rest } (nibHart n) := by
  rw [step_of_agenda_cons hpow ha, turn, if_pos ⟨hrd, hn⟩]

theorem step_event {i : Instr} {rest : List Turn} (ha : s.agenda = .event i :: rest) (hi : isEvent i = true) :
    step s = exec i { s with agenda := rest } := by
  rw [step_of_agenda_cons hpow ha, turn, if_pos ⟨hi, .inl hrd⟩]

theorem step_control {n : Nat} {i : Instr} {rest : List Turn} (ha : s.agenda = .control n i :: rest) (hn : n < 16) (he : s.softErrors = [])
    (hb : (s.slot (ctlHart n)).bad = []) : step s = exec i { s with agenda := rest, cur := ctlHart n } := by
  have hread : ({ s with agenda := rest, cur := ctlHart n } : State).readOf i = ({ s with agenda := rest, cur := ctlHart n }, true) :=
    State.readOf_of_no_softErrors (s := { s with agenda := rest, cur := ctlHart n }) he i hb
  rw [step_of_agenda_cons hpow ha, turn, if_pos ⟨hrd, hn⟩, hread]
  rfl

end Turns

/-! ## A step runs what is decoded (O1) -/

/-- What the statement of O1 calls the instruction a hart runs: that of the word at its pc, with its second word, once the word is held. -/
def State.Runs (s : State) (h : Nat) (w : Word) (i : Instr) : Prop :=
  let v := ({ s with cur := h } : State).holdWord h
  let second := v.wordAt h ((v.slot h).pc + 4)
  let inner := w.toNat / 2 ^ 26 = 0x3E → ∀ e ∈ (v.slot h).loops, e.last ≠ (v.slot h).pc
  v.wordAt h (v.slot h).pc = some w ∧ (v.slot h).rptOn = false ∧ (v.slot h).pc.toNat % 4 = 0 ∧ s.mayIssue h = true ∧ s.takesStatus h = false ∧ s.withdrawn h = none ∧ (s.slot h).bad = [] ∧ (s.slot h).parts = none
  ∧ ((∃ n, decodeWords w second = .ok ⟨i, n⟩ ∧ inner) ∨ ((∀ d, decodeWords w second ≠ .ok d) ∧ (w.toNat / 2 ^ 26 = 0x3E → second ≠ none) ∧ i = .illegalInstruction w)
    ∨ (w.toNat / 2 ^ 26 = 0x3E ∧ inner ∧ second = none ∧ i = .instructionFetchOutsideImage ((v.slot h).pc + 4)))

/-- A hart's turn executes the instruction it runs: one that decodes, an illegal word, or an X word cut off by the image's end. -/
theorem hartTurn_of_runs (ex : Exec) {s : State} {h : Nat} {w : Word} {i : Instr} (he : s.softErrors = []) (hr : s.Runs h w i) :
    hartTurn ex s h = ex i (({ s with cur := h } : State).holdWord h) := by
  obtain ⟨hw, hrpt, hpc, hm, hst, hwd, hb, hp, hcase⟩ := hr
  rw [hartTurn_of_mayIssue ex s h he hm hst hwd hb hp]
  congr 1
  obtain ⟨n, hd, inner⟩ | ⟨hd, h2, rfl⟩ | ⟨hx, inner, h2, rfl⟩ := hcase
  · exact State.fetched_of_decodes hw hrpt hpc inner hd
  · exact State.fetched_of_not_decodes hw hrpt hpc hd h2
  · exact State.fetched_of_X_outside hw hrpt hpc inner hx h2

/-- A hart that runs an instruction may issue. -/
theorem State.Runs.mayIssue {s : State} {h : Nat} {w : Word} {i : Instr} (hr : s.Runs h w i) : s.mayIssue h = true := by
  obtain ⟨_, _, _, hm, _⟩ := hr
  exact hm

/-- The first slot of a core's order that can do anything issues what it runs. -/
theorem coreTurn_of_runs (ex : Exec) {s t : State} {c h : Nat} {w : Word} {i : Instr} {before after : List Nat} (he : s.softErrors = []) (hc : c < 16384)
    (hedge : ∀ k < 4, (s.slot (c * 5 + k)).edge = false) (hord : s.issueOrder c = before ++ h :: after)
    (hbefore : ∀ k ∈ before, s.mayIssue k = false ∧ s.takesStatus k = false) (hthr : s.throttled c = false) (hgone : s.issueGone c = false)
    (hr : s.Runs h w i) (hex : ex i (({ s with cur := h } : State).holdWord h) = .next t) (hwait : t.waits s h = false) :
    coreTurn ex s c = .next (t.noteIssue h) := by
  have hturn : hartTurn ex s h = .next t := by rw [hartTurn_of_runs ex he hr, hex]
  rw [coreTurn_of_free ex s c hc hthr hgone hedge, hord, issueGo_append ex before _ s hbefore, issueGo_cons ex h after s t hr.mayIssue hturn hwait]

/-- Settles O1: each kind of turn reduces to `hartTurn_of_runs` or to the meaning itself. -/
theorem stepRunsDecoded : Obligations.StepRunsDecoded := by
  intro s h w t hpow hrd he
  refine ⟨?core, ?nib, ?parts, ?event, ?control, ?bytes⟩
  case core =>
    intro i ha u c hc hedge before after hord hbefore hthr hgone hr hex hwait
    rw [step_core hpow hrd ha]
    exact coreTurn_of_runs exec he hc hedge hord hbefore hthr hgone hr hex hwait
  case nib =>
    rintro i n rest ha hn rfl u hr hex
    rw [step_nib hpow hrd ha hn, ← hex]
    exact hartTurn_of_runs exec he hr
  case parts =>
    rintro n rest ha hn rfl hm hp
    rw [step_nib hpow hrd ha hn]
    exact hartTurn_of_parts exec _ (nibHart n) hm (State.takesStatus_of_not_isTask _ _ (isTask_nibHart n)) hp
  case event => exact fun i rest ha hi => step_event hpow hrd ha hi
  case control => exact fun i n rest ha hn hb => step_control hpow hrd ha hn he hb
  case bytes => exact fun p hheld hp => s.wordAt_bytes h p _ hheld hp

end Sys2Proof.Machine
end

section
/-! The system registers (O17): what SYSR reads of each, the capability masks of the units in service, and what SYSW writes. -/

namespace Sys2Proof.Machine

/-! ## Masks of units in service (R26 to R28) -/

theorem getLsbD_r64_two_pow (n i : Nat) (hi : i < 64) : (r64 (2 ^ n)).getLsbD i = decide (n = i) := by
  rw [r64, BitVec.getLsbD_ofNat, Nat.testBit_two_pow, decide_eq_true hi, Bool.true_and]

theorem serviceMask_succ (n : Nat) (out : Nat → Bool) : serviceMask (n + 1) out = if out n then serviceMask n out else serviceMask n out ||| r64 (2 ^ n) := by
  rw [serviceMask, List.range_succ, List.foldl_append, List.foldl_cons, List.foldl_nil, serviceMask]

/-- Bit i of a mask is set where i is below its size and unit i is in service. -/
theorem getLsbD_serviceMask (n : Nat) (out : Nat → Bool) (i : Nat) (hi : i < 64) : (serviceMask n out).getLsbD i = (decide (i < n) && !out i) := by
  induction n with
  | zero => simp [serviceMask]
  | succ n ih =>
    rw [serviceMask_succ]
    by_cases hin : i = n
    · subst hin
      cases ho : out i
      · rw [if_neg (by simp), BitVec.getLsbD_or, getLsbD_r64_two_pow i i hi]
        simp
      · rw [if_pos rfl, ih, ho]
        simp
    · have hlt : i < n + 1 ↔ i < n := by omega
      cases ho : out n
      · rw [if_neg (by simp), BitVec.getLsbD_or, getLsbD_r64_two_pow n i hi, ih, decide_eq_false (Ne.symm hin), Bool.or_false, decide_eq_decide.2 hlt]
      · rw [if_pos rfl, ih, decide_eq_decide.2 hlt]

/-! ## SYSR (R177) -/

section Reads
variable {s : State} {d : BitVec 6} {n : BitVec 12}

/-- A ready SYSR of a register that reads v writes v to its destination. -/
theorem exec_sysr_of_sysRead {v : Reg64} (hv : s.sysRead n.toNat = some v) (hr : ready (.sysr d n) s = true) :
    exec (.sysr d n) s = .next ((s.putG d.toNat v).commit (.sysr d n)) := by
  have hrun := run_ready (.sysr d n) s (fun s => match s.sysRead n.toNat with | some v => .done (s.putG d.toNat v) | none => .trap 1 (n.zeroExtend 64)) hr
  rw [hv] at hrun
  exact hrun

/-- A ready SYSR of a capability mask writes the mask of the units in service. -/
theorem exec_sysr_of_serviceMask {size : Nat} {out : Nat → Bool} (hv : s.sysRead n.toNat = some (serviceMask size out)) (hr : ready (.sysr d n) s = true) :
    ∃ v : Reg64, exec (.sysr d n) s = .next ((s.putG d.toNat v).commit (.sysr d n)) ∧ ∀ i < 64, v.getLsbD i = (decide (i < size) && !out i) :=
  ⟨_, exec_sysr_of_sysRead hv hr, getLsbD_serviceMask size out⟩

end Reads

/-- A word whose register number is not for it is illegal, with the number as value, before anything else is looked at (R30, R83). -/
theorem issueTrap_of_badNumber {i : Instr} {s : State} {v : Reg64} (hroutine : s.me.routine = none) (hlegal : legal i = true) (hhere : s.me.illegalHere i = false)
    (hbad : badNumber i = some v) : issueTrap i s = some (1, v) := by
  simp [issueTrap, hroutine, hlegal, hhere, hbad]

theorem exec_sysr_of_not_listed {s : State} {d : BitVec 6} {n : BitVec 12} (hn : sysListed n.toNat = false) (hi : s.me.issues = true) (hroutine : s.me.routine = none) :
    exec (.sysr d n) s = .next (s.trapMe (.sysr d n) 0x01 (n.zeroExtend 64)) :=
  run_trap _ s _ _ _ hi (issueTrap_of_badNumber hroutine rfl rfl (by simp [badNumber, hn]))

theorem exec_sysw_of_not_writable {s : State} {d : BitVec 6} {n : BitVec 12} (hn : sysWritable n.toNat = false) (hi : s.me.issues = true) (hroutine : s.me.routine = none) :
    exec (.sysw d n) s = .next (s.trapMe (.sysw d n) 0x01 (n.zeroExtend 64)) :=
  run_trap _ s _ _ _ hi (issueTrap_of_badNumber hroutine rfl rfl (by simp [badNumber, hn]))

theorem systemRegisterReads : Claims.SystemRegisterReads := by
  intro s d reads mask cl
  refine ⟨exec_sysr_of_sysRead rfl, exec_sysr_of_sysRead rfl, exec_sysr_of_sysRead rfl, exec_sysr_of_sysRead rfl, exec_sysr_of_sysRead rfl,
    fun hc => ⟨exec_sysr_of_sysRead rfl, exec_sysr_of_sysRead ?slot⟩, fun hc => exec_sysr_of_sysRead ?noSlot, exec_sysr_of_sysRead rfl, exec_sysr_of_sysRead rfl,
    exec_sysr_of_sysRead rfl, exec_sysr_of_sysRead rfl, exec_sysr_of_sysRead rfl, exec_sysr_of_sysRead rfl, exec_sysr_of_sysRead rfl, exec_sysr_of_sysRead rfl,
    exec_sysr_of_sysRead rfl, exec_sysr_of_sysRead rfl, exec_sysr_of_sysRead rfl, exec_sysr_of_sysRead rfl,
    fun _ => ⟨exec_sysr_of_serviceMask rfl, exec_sysr_of_serviceMask rfl, exec_sysr_of_serviceMask rfl, exec_sysr_of_serviceMask rfl, exec_sysr_of_serviceMask rfl⟩,
    exec_sysr_of_serviceMask rfl, exec_sysr_of_serviceMask rfl, exec_sysr_of_serviceMask rfl, exec_sysr_of_serviceMask rfl, exec_sysr_of_serviceMask rfl,
    exec_sysr_of_serviceMask rfl, exec_sysr_of_serviceMask rfl, exec_sysr_of_sysRead rfl, exec_sysr_of_sysRead rfl, exec_sysr_of_sysRead rfl, ?unlisted⟩
  case slot => simp [State.sysRead, hc, slOf]
  case noSlot => simp [State.sysRead, hc, r64]
  case unlisted =>
    intro n hn
    have hlist : ([0x007, 0x009, 0x011, 0x024, 0x032, 0x0FF, 0x112, 0x1FF, 0x201, 0x2FF, 0x301, 0x3FF] : List (BitVec 12)).all (fun k => !sysListed k.toNat) = true := by decide
    exact exec_sysr_of_not_listed (by simpa using List.all_eq_true.1 hlist n hn)

/-! ## SYSW (R177, R178) -/

section Writes
variable {s : State} {d : BitVec 6} {n : BitVec 12} {v : Reg64}

/-- A ready SYSW has the effect its register gives it. -/
theorem exec_sysw_of_sysWrite {a : Act} (ha : sysWrite d n (s.getG d.toNat) s = a) (hr : ready (.sysw d n) s = true) : exec (.sysw d n) s = .next (s.take (.sysw d n) a) := by
  subst ha
  exact run_ready (.sysw d n) s (fun s => sysWrite d n (s.getG d.toNat) s) hr

theorem sysWrite_xstat_reserved (h : bits v 43 8 ≠ 0 ∨ bits v 8 24 ≠ 0 ∨ bits v 2 4 ≠ 0) : sysWrite d 0x000 v s = .trap 1 ((Instr.sysw d 0x000).word.zeroExtend 64) := by
  have hres : xstatReserved v = true := by simpa [xstatReserved, or_assoc] using h
  simp [sysWrite, hres]

theorem xstatReserved_eq_false (h : ¬ (bits v 43 8 ≠ 0 ∨ bits v 8 24 ≠ 0 ∨ bits v 2 4 ≠ 0)) : xstatReserved v = false := by
  simpa [xstatReserved, not_or, and_assoc] using h

theorem sysWrite_xstat_priv (h : ¬ (bits v 43 8 ≠ 0 ∨ bits v 8 24 ≠ 0 ∨ bits v 2 4 ≠ 0)) (hp : bits v 0 2 ≠ bits s.me.xstat 0 2) : sysWrite d 0x000 v s = .trap 5 0x000 := by
  simp [sysWrite, xstatReserved_eq_false h, Slot.priv, hp]

theorem sysWrite_xstat (h : ¬ (bits v 43 8 ≠ 0 ∨ bits v 8 24 ≠ 0 ∨ bits v 2 4 ≠ 0)) (hp : bits v 0 2 = bits s.me.xstat 0 2) :
    sysWrite d 0x000 v s = .done (s.modMe (fun x => { x with xstat := v })) := by
  simp [sysWrite, xstatReserved_eq_false h, Slot.priv, hp]

theorem bits_eq_zero_iff_of_top (v : Reg64) (lo : Nat) (hlo : lo ≤ 64) : bits v lo (64 - lo) = 0 ↔ v.toNat / 2 ^ lo = 0 := by
  have hlt : v.toNat / 2 ^ lo < 2 ^ (64 - lo) := by
    rw [Nat.div_lt_iff_lt_mul (Nat.two_pow_pos lo), ← Nat.pow_add, Nat.sub_add_cancel hlo]
    exact v.isLt
  rw [bits, Nat.mod_eq_of_lt hlt]

theorem fcrOk_iff (v : Reg64) : fcrOk v = true ↔ v.toNat / 2 ^ 13 = 0 ∧ bits v 3 5 = 0 ∧ bits v 0 3 < 6 := by
  have htop := bits_eq_zero_iff_of_top v 13 (by omega)
  simp only [fcrOk, Bool.and_eq_true, beq_iff_eq, decide_eq_true_eq, and_assoc, ← htop]

theorem sysWrite_fcr (h : v.toNat / 2 ^ 13 = 0 ∧ bits v 3 5 = 0 ∧ bits v 0 3 < 6) : sysWrite d 0x001 v s = .done (s.modMe (fun x => { x with fcr := v })) := by
  simp [sysWrite, (fcrOk_iff v).2 h]

theorem sysWrite_fcr_reserved (h : v.toNat / 2 ^ 13 ≠ 0 ∨ bits v 3 5 ≠ 0 ∨ 6 ≤ bits v 0 3) : sysWrite d 0x001 v s = .trap 1 ((Instr.sysw d 0x001).word.zeroExtend 64) := by
  have hbad : ¬ fcrOk v = true := by
    rw [fcrOk_iff]
    omega
  simp [sysWrite, hbad]

theorem sysWrite_xvec (h : v.toNat % 4 = 0) : sysWrite d 0x020 v s = .done (s.modMe (fun x => { x with xvec := v })) := by
  simp [sysWrite, bits, h]

theorem sysWrite_xvec_misaligned (h : v.toNat % 4 ≠ 0) : sysWrite d 0x020 v s = .trap 2 v := by
  simp [sysWrite, bits, h]

theorem sysWrite_gateIdle (h : v = 0 ∨ (64 ≤ v.toNat ∧ v.toNat ≤ 1048575)) :
    sysWrite d 0x030 v s = .done (s.modPanel (panelOf s.cur) (fun p => { p with gateIdle := v.toNat })) := by
  rw [sysWrite]
  exact if_pos (h.imp_left (fun e => by rw [e]; rfl))

theorem sysWrite_gateIdle_reserved (h0 : v ≠ 0) (h : v.toNat < 64 ∨ 1048575 < v.toNat) : sysWrite d 0x030 v s = .trap 1 ((Instr.sysw d 0x030).word.zeroExtend 64) := by
  have hne : v.toNat ≠ 0 := fun e => h0 (BitVec.eq_of_toNat_eq e)
  have hbad : ¬ (v.toNat = 0 ∨ (64 ≤ v.toNat ∧ v.toNat ≤ 1048575)) := by omega
  rw [sysWrite]
  exact if_neg hbad

theorem sysWrite_rcTimeout (h : 1 ≤ v.toNat ∧ v.toNat ≤ 1000000) : sysWrite d 0x031 v s = .done (s.modMe (fun x => { x with rcTimeout := v.toNat })) := by
  rw [sysWrite]
  exact if_pos h

theorem sysWrite_rcTimeout_reserved (h : v.toNat = 0 ∨ 1000000 < v.toNat) : sysWrite d 0x031 v s = .trap 1 ((Instr.sysw d 0x031).word.zeroExtend 64) := by
  have hbad : ¬ (1 ≤ v.toNat ∧ v.toNat ≤ 1000000) := by omega
  rw [sysWrite]
  exact if_neg hbad

end Writes

theorem systemRegisterWrites : Claims.SystemRegisterWrites := by
  intro s d v does traps word reserved
  refine ⟨fun hr hp => exec_sysw_of_sysWrite (sysWrite_xstat hr hp), fun hr => exec_sysw_of_sysWrite (sysWrite_xstat_reserved hr),
    fun hr hp => exec_sysw_of_sysWrite (sysWrite_xstat_priv hr hp), fun h13 h3 h0 => exec_sysw_of_sysWrite (sysWrite_fcr ⟨h13, h3, h0⟩),
    fun h => exec_sysw_of_sysWrite (sysWrite_fcr_reserved h), exec_sysw_of_sysWrite rfl, fun h => exec_sysw_of_sysWrite (sysWrite_xvec h),
    fun h => exec_sysw_of_sysWrite (sysWrite_xvec_misaligned h), exec_sysw_of_sysWrite rfl, exec_sysw_of_sysWrite rfl, exec_sysw_of_sysWrite rfl,
    fun h => exec_sysw_of_sysWrite (sysWrite_gateIdle h), fun h0 h => exec_sysw_of_sysWrite (sysWrite_gateIdle_reserved h0 h),
    fun h1 h2 => exec_sysw_of_sysWrite (sysWrite_rcTimeout ⟨h1, h2⟩), fun h => exec_sysw_of_sysWrite (sysWrite_rcTimeout_reserved h), ?others⟩
  case others =>
    intro n hn
    have hlist : ([0x003, 0x004, 0x005, 0x006, 0x008, 0x010, 0x007, 0x032, 0x100, 0x111, 0x1FF, 0x200, 0x201, 0x301] : List (BitVec 12)).all (fun k => !sysWritable k.toNat) = true := by decide
    exact exec_sysw_of_not_writable (by simpa using List.all_eq_true.1 hlist n hn)

/-- Settles O17: each register's read is one case of `State.sysRead`, each write one of `sysWrite`. -/
theorem systemRegisters : Obligations.SystemRegisters := ⟨systemRegisterReads, systemRegisterWrites⟩

end Sys2Proof.Machine
end

section
/-! Cancelled tokens, the watchdog, and clusters assigned and released (O33), with laws of memories and tables that lose a range. -/

namespace Sys2Proof.Machine

/-! ## Memories and tables that lose entries -/

/-- A cleared range reads 0; every other byte stays. -/
theorem Mem.get_clear (m : Mem) (lo hi a : Nat) : (Mem.clear lo hi m).get a = if lo ≤ a ∧ a < hi then 0 else m.get a := by
  induction m with
  | nil => simp [Mem.clear, Mem.get]
  | cons c m ih =>
    obtain ⟨k, v⟩ := c
    have hcons : Mem.clear lo hi ((k, v) :: m) = if k < lo ∨ hi ≤ k then (k, v) :: Mem.clear lo hi m else Mem.clear lo hi m := by
      simp [Mem.clear, List.filter_cons]
    rw [hcons]
    by_cases hk : k = a
    · subst hk
      split
      · rw [Mem.get, if_pos rfl, if_neg (by omega), Mem.get, if_pos rfl]
      · rw [ih, if_pos (by omega), if_pos (by omega)]
    · split <;> simp only [Mem.get, if_neg hk, ih]

/-- An entry whose key a filter drops is gone. -/
theorem Tab.get?_filter_of_dropped {α : Type} (t : Tab α) (f : Nat → Bool) (a : Nat) (hf : f a = false) : Tab.get? (t.filter (fun c => f c.1)) a = none := by
  induction t with
  | nil => rfl
  | cons c t ih =>
    obtain ⟨k, v⟩ := c
    by_cases hk : k = a
    · subst hk
      simpa [List.filter_cons, hf] using ih
    · cases hfk : f k <;> simpa [List.filter_cons, hfk, Tab.get?, hk] using ih

/-! ## Clusters and processes after an update -/

@[simp] theorem State.cluster_modCluster_self (s : State) (c : Nat) (f : Cluster → Cluster) : (s.modCluster c f).cluster c = f (s.cluster c) := by
  simp [State.cluster, State.modCluster, Tab.getD, Tab.get?_set_self]

theorem State.cluster_modCluster_ne (s : State) (c k : Nat) (f : Cluster → Cluster) (h : k ≠ c) : (s.modCluster c f).cluster k = s.cluster k := by
  simp [State.cluster, State.modCluster, Tab.getD, Tab.get?_set_ne _ _ _ _ h]

@[simp] theorem State.proc_modProc_self (s : State) (p : BitVec 16) (f : Process → Process) : (s.modProc p f).proc p = f (s.proc p) := by
  simp [State.proc, State.modProc, Tab.getD, Tab.get?_set_self]

/-! ## Cancelled tokens (R122) -/

theorem State.cancelToken_zero (s : State) : s.cancelToken 0 = s := by
  rw [State.cancelToken, if_pos rfl]

theorem State.settle_of_no_launches {s : State} (hl : s.launches = []) : s.settle = s := by
  have hs : ({ s with launches := [] } : State) = s := by rw [← hl]
  simp [State.settle, State.settleGo, hl, hs]

theorem State.dropSaved_of_none_saved {s : State} (hs : s.saved = []) : s.dropSaved = s := by
  have he : ({ s with saved := [] } : State) = s := by rw [← hs]
  simp [State.dropSaved, hs, he]

/-- Where nothing is saved and no launch is held, a cancelled token joins the cancelled ones and nothing else changes. -/
theorem State.cancelToken_of_idle {s : State} {t : Word} (ht : t ≠ 0) (hs : s.saved = []) (hl : s.launches = []) (hn : s.tokens.contains t = false) :
    s.cancelToken t = { s with tokens := s.tokens ++ [t] } := by
  rw [State.cancelToken, if_neg ht, hn, if_neg Bool.false_ne_true]
  rw [State.dropSaved_of_none_saved (by exact hs), State.settle_of_no_launches (by exact hl)]

/-! ## The watchdog (R124) -/

/-- A wait reported already is not reported again. -/
theorem execWatchdogReport_of_reported {s : State} {cid sl : Nat} {w : Wait} {t : Nat} (hw : (s.slot (hartOf cid sl)).waitsIn = some (w, t))
    (hin : s.watchdog.contains (cid, sl, (s.slot (hartOf cid sl)).lid, w, t) = true) : execWatchdogReport cid sl s = .next s := by
  simp only [execWatchdogReport, hw]
  rw [if_neg (fun h => h.2.2.2 hin)]

/-- A live slot that has waited past the period is entered, with a notice. -/
theorem execWatchdogReport_of_late {s : State} {cid sl : Nat} {w : Wait} {t : Nat} (hsl : sl < 5) (hlive : (s.slot (hartOf cid sl)).live = true)
    (hw : (s.slot (hartOf cid sl)).waitsIn = some (w, t)) (hlate : s.watchdogPeriod < s.clk - t)
    (hnew : s.watchdog.contains (cid, sl, (s.slot (hartOf cid sl)).lid, w, t) = false) :
    execWatchdogReport cid sl s = .next (({ s with watchdog := s.watchdog ++ [(cid, sl, (s.slot (hartOf cid sl)).lid, w, t)] } : State).mgmtNotice s.watchdogVec) := by
  simp only [execWatchdogReport, hw]
  rw [if_pos ⟨hsl, hlive, hlate, by rw [hnew]; exact Bool.false_ne_true⟩]

theorem watchdogReport_once {s : State} {cid sl : Nat} {w : Wait} {t : Nat} (hsl : sl < 5) (hlive : (s.slot (hartOf cid sl)).live = true)
    (hw : (s.slot (hartOf cid sl)).waitsIn = some (w, t)) (hlate : s.watchdogPeriod < s.clk - t)
    (hnew : s.watchdog.contains (cid, sl, (s.slot (hartOf cid sl)).lid, w, t) = false) :
    ∃ u : State, exec (.watchdogReport cid sl) s = .next u ∧ u.watchdog = s.watchdog ++ [(cid, sl, (s.slot (hartOf cid sl)).lid, w, t)]
      ∧ u.outbox.length = s.outbox.length + 1 ∧ u.harts = s.harts ∧ exec (.watchdogReport cid sl) u = .next u := by
  refine ⟨_, execWatchdogReport_of_late hsl hlive hw hlate hnew, rfl, ?outbox, rfl, ?again⟩
  case outbox => exact List.length_append
  case again =>
    refine execWatchdogReport_of_reported (w := w) (t := t) hw ?_
    exact List.contains_iff_mem.2 (List.mem_append_right _ (List.mem_singleton.2 rfl))

/-! ## A cluster is assigned (R18, R412) -/

/-- What every step of a fold keeps, the fold keeps. -/
theorem foldl_keeps {α β γ : Type} (p : α → γ) (f : α → β → α) (hf : ∀ a b, p (f a b) = p a) (l : List β) (a : α) : p (l.foldl f a) = p a := by
  induction l generalizing a with
  | nil => rfl
  | cons b l ih => rw [List.foldl_cons, ih, hf]

/-- What a cluster's state is once it is assigned: reset, but for its error area and counters. -/
def Cluster.assigned (c : Cluster) (pid : BitVec 16) : Cluster := { pid := some pid, errs := c.errs, errSeq := c.errSeq, errOver := c.errOver, monFall := c.monFall }

/-- A core of an assigned cluster at its reset value (R110, R412), with its handler slot's srs (R91). -/
def State.resetCore (s : State) (i : Nat) : State :=
  (s.modCore i (fun c => { lfsr := 0xACE1 ^^^ BitVec.ofNat 16 (i % 256), probeDue := s.clk, noticeDrops := c.noticeDrops })).modSlot (hartOf i 4)
    (fun x => { x with srs := r64 (i * 2 ^ 32 + 0xFFFFFFFF) ^^^ seedXor })

def State.resetCores (s : State) (cl : Nat) : State := ((List.range 256).map (fun i => cl * 256 + i)).foldl State.resetCore s

/-! `State.resetCores` changes `cores` and `harts` only. -/

@[simp] theorem State.resetCores_spm (s : State) (cl : Nat) : (s.resetCores cl).spm = s.spm := by
  rw [State.resetCores, foldl_keeps State.spm State.resetCore (fun _ _ => rfl)]
@[simp] theorem State.resetCores_tblMem (s : State) (cl : Nat) : (s.resetCores cl).tblMem = s.tblMem := by
  rw [State.resetCores, foldl_keeps State.tblMem State.resetCore (fun _ _ => rfl)]
@[simp] theorem State.resetCores_opMem (s : State) (cl : Nat) : (s.resetCores cl).opMem = s.opMem := by
  rw [State.resetCores, foldl_keeps State.opMem State.resetCore (fun _ _ => rfl)]
@[simp] theorem State.resetCores_accMem (s : State) (cl : Nat) : (s.resetCores cl).accMem = s.accMem := by
  rw [State.resetCores, foldl_keeps State.accMem State.resetCore (fun _ _ => rfl)]
@[simp] theorem State.resetCores_ext (s : State) (cl : Nat) : (s.resetCores cl).ext = s.ext := by
  rw [State.resetCores, foldl_keeps State.ext State.resetCore (fun _ _ => rfl)]
@[simp] theorem State.resetCores_clusters (s : State) (cl : Nat) : (s.resetCores cl).clusters = s.clusters := by
  rw [State.resetCores, foldl_keeps State.clusters State.resetCore (fun _ _ => rfl)]

/-- The memories, full words and panels of an assigned cluster at their reset values (R412). -/
def State.resetMemories (s : State) (cl : Nat) : State :=
  { s with
    spm := Mem.clear (cl * 2 ^ 24) ((cl + 1) * 2 ^ 24) s.spm
    full := s.full.filter (fun a => a / 2 ^ 24 != cl)
    tblMem := Mem.clear (cl * 32 * 4096) ((cl + 1) * 32 * 4096) s.tblMem
    tblWrites := s.tblWrites.filter (fun q => q.2.1 / 256 != cl)
    opMem := Mem.clear (cl * 512 * 16896) ((cl + 1) * 512 * 16896) s.opMem
    accMem := Mem.clear (cl * 256 * 16384) ((cl + 1) * 256 * 16384) s.accMem
    panels := s.panels.filter (fun p => p.1 / 32 != cl) }

theorem State.full_resetMemories (s : State) (cl a : Nat) (ha : a / 2 ^ 24 = cl) : (s.resetMemories cl).full.contains a = false := by
  rw [← Bool.not_eq_true, List.contains_iff_mem]
  intro hm
  have hne : (a / 2 ^ 24 != cl) = true := (List.mem_filter.1 hm).2
  rw [ha, bne_self_eq_false] at hne
  cases hne

theorem State.panel_resetMemories (s : State) (cl p : Nat) (hp : p / 32 = cl) : (s.resetMemories cl).panel p = {} := by
  have hnone : Tab.get? (s.resetMemories cl).panels p = none := Tab.get?_filter_of_dropped s.panels (fun k => k / 32 != cl) p (by simp [hp])
  rw [State.panel, Tab.getD, hnone]
  rfl

/-- A cluster in service that belongs to no process is assigned. -/
theorem exec_clusterAssignment {s : State} {cl : Nat} (pid : BitVec 16) (hcl : cl < 64) (hfree : (s.cluster cl).pid = none) (hin : s.clustersOut.contains cl = false) :
    exec (.clusterAssignment cl pid) s = .next (((s.modCluster cl (fun c => c.assigned pid)).resetCores cl).resetMemories cl) := by
  have hok : ¬ (64 ≤ cl ∨ (s.cluster cl).pid.isSome = true ∨ s.clustersOut.contains cl = true) := by
    rw [hfree, hin]
    simpa using hcl
  exact congrArg Host.Outcome.next (if_neg hok)

theorem clusterAssignment_of_free {s : State} {cl : Nat} (pid : BitVec 16) (hcl : cl < 64) (hfree : (s.cluster cl).pid = none) (hin : s.clustersOut.contains cl = false) :
    ∃ t : State, exec (.clusterAssignment cl pid) s = .next t ∧ (t.cluster cl).pid = some pid ∧ (t.cluster cl).phasers = [] ∧ (t.cluster cl).dqs = [] ∧ (t.cluster cl).pipes = []
      ∧ (∀ a, t.spm.get a = if cl * 2 ^ 24 ≤ a ∧ a < (cl + 1) * 2 ^ 24 then 0 else s.spm.get a) ∧ (∀ a, a / 2 ^ 24 = cl → t.full.contains a = false)
      ∧ (∀ a, t.tblMem.get a = if cl * 32 * 4096 ≤ a ∧ a < (cl + 1) * 32 * 4096 then 0 else s.tblMem.get a)
      ∧ (∀ a, t.opMem.get a = if cl * 512 * 16896 ≤ a ∧ a < (cl + 1) * 512 * 16896 then 0 else s.opMem.get a)
      ∧ (∀ a, t.accMem.get a = if cl * 256 * 16384 ≤ a ∧ a < (cl + 1) * 256 * 16384 then 0 else s.accMem.get a)
      ∧ (∀ p, p / 32 = cl → t.panel p = {}) ∧ t.ext = s.ext := by
  obtain ⟨u, hu⟩ : ∃ u, u = (s.modCluster cl (fun c => c.assigned pid)).resetCores cl := ⟨_, rfl⟩
  have hc : (u.resetMemories cl).cluster cl = (s.cluster cl).assigned pid := by
    have hclusters : u.clusters = (s.modCluster cl (fun c => c.assigned pid)).clusters := by simp [hu]
    rw [← State.cluster_modCluster_self s cl (fun c => c.assigned pid), State.cluster, State.cluster, ← hclusters]
    rfl
  refine ⟨u.resetMemories cl, by rw [hu]; exact exec_clusterAssignment pid hcl hfree hin, by rw [hc]; rfl, by rw [hc]; rfl, by rw [hc]; rfl, by rw [hc]; rfl,
    fun a => (Mem.get_clear _ _ _ a).trans (by simp [hu]), fun a ha => u.full_resetMemories cl a ha, fun a => (Mem.get_clear _ _ _ a).trans (by simp [hu]),
    fun a => (Mem.get_clear _ _ _ a).trans (by simp [hu]), fun a => (Mem.get_clear _ _ _ a).trans (by simp [hu]), fun p hp => u.panel_resetMemories cl p hp, ?ext⟩
  case ext =>
    have hext : u.ext = s.ext := by simp [hu]
    exact hext

/-! ## A cluster is released (R238, R263) -/

/-- What a cluster's state is once it is released: reset, but for its error area and counters. -/
def Cluster.released (c : Cluster) : Cluster := { errs := c.errs, errSeq := c.errSeq, errOver := c.errOver, monFall := c.monFall }

theorem State.flush_of_empty {s : State} {cl : Nat} (h : (s.cluster cl).comb = []) : s.flush cl = s.modCluster cl (fun c => { c with comb := [] }) := by
  simp [State.flush, h]

theorem State.releaseBusy_of_no_sums {s : State} (hf : s.forwards = []) (hn : s.nibs = []) (cl : Nat) : s.releaseBusy cl = false := by
  simp [State.releaseBusy, hf, hn]

theorem State.filter_forwards_of_none {s : State} (hf : s.forwards = []) (keep : Forward → Bool) : ({ s with forwards := s.forwards.filter keep } : State) = s := by
  have hs : ({ s with forwards := [] } : State) = s := by rw [← hf]
  rw [hf, List.filter_nil, hs]

theorem State.foldCluster_of_no_nibs {s : State} (hn : s.nibs = []) (cl : Nat) : s.foldCluster cl = s := by
  have hs : ({ s with nibs := [] } : State) = s := by rw [← hn]
  simp only [State.foldCluster, hn, List.flatMap_nil, List.map_nil, List.foldl_nil, hs]

theorem State.keepRegions_of_none {s : State} (hr : s.regions = []) (ho : s.ops = []) (keep : Region → Bool) : s.keepRegions keep = s := by
  have hs : ({ s with regions := [], ops := [] } : State) = s := by rw [← hr, ← ho]
  simp only [State.keepRegions, hr, ho, List.filter_nil, List.map_nil, hs]

/-- A cluster about which nothing is left to do is unassigned. -/
theorem exec_clusterRelease {s : State} {cl : Nat} {pid : BitVec 16} (hcl : cl < 64) (hpid : (s.cluster cl).pid = some pid) (hh : s.harts = []) (hsv : s.saved = []) (hcs : s.cores = [])
    (ho : s.ops = []) (hn : s.nibs = []) (hf : s.forwards = []) (hr : s.regions = []) (hcomb : (s.cluster cl).comb = []) (hp : (s.cluster cl).pipes = []) :
    exec (.clusterRelease cl) s = .next (((s.modCluster cl (fun c => { c with comb := [] })).modCluster cl (fun _ => (s.cluster cl).released)).unbound pid) := by
  have hexec : exec (.clusterRelease cl) s = execClusterRelease cl s := rfl
  have hcl' : ¬ 64 ≤ cl := by omega
  obtain ⟨u, hu⟩ : ∃ u, u = s.modCluster cl (fun c => { c with comb := [] }) := ⟨_, rfl⟩
  have huc : u.cluster cl = { s.cluster cl with comb := [] } := by rw [hu, State.cluster_modCluster_self]
  have hup : (u.cluster cl).pid = some pid := by rw [huc]; exact hpid
  have hupipes : (u.cluster cl).pipes = [] := by rw [huc]; exact hp
  have huf : u.forwards = [] := by rw [hu]; exact hf
  have hun : u.nibs = [] := by rw [hu]; exact hn
  have hur : u.regions = [] := by rw [hu]; exact hr
  have huo : u.ops = [] := by rw [hu]; exact ho
  simp only [hexec, execClusterRelease, State.flush_of_empty hcomb]
  rw [← hu, State.filter_forwards_of_none huf]
  simp only [hcl', hpid, hh, hsv, hcs, ho, huf, hup, hupipes, State.releaseBusy_of_no_sums huf hun, State.foldCluster_of_no_nibs hun, State.keepRegions_of_none hur huo,
    List.filter_nil, List.foldl_nil, List.any_nil, Option.isNone_some, Option.getD_some, Bool.or_false, Bool.false_eq_true, or_false, if_false]
  rw [huc]
  rfl

/-- A process that holds another cluster keeps its bindings. -/
theorem State.unbound_of_holding {s : State} {pid : BitVec 16} (h : ∃ c < 64, (s.cluster c).pid = some pid) : s.unbound pid = s := by
  obtain ⟨c, hc, hpid⟩ := h
  rw [State.unbound, if_pos (List.any_eq_true.2 ⟨c, List.mem_range.2 hc, by simp [hpid]⟩)]

/-- One that holds none loses them. -/
theorem State.unbound_of_not_holding {s : State} {pid : BitVec 16} (h : ∀ c < 64, (s.cluster c).pid ≠ some pid) : s.unbound pid = s.modProc pid (fun p => { p with bindings := [] }) := by
  rw [State.unbound, if_neg]
  simp only [List.any_eq_true, List.mem_range, not_exists, not_and]
  intro c hc
  simpa using h c hc

/-- Settles O33: the laws above, clause by clause. -/
theorem cancellationAndClusters : Obligations.CancellationAndClusters := by
  intro s
  refine ⟨?zero, ?cancel, ?watchdog, fun cl pid hcl hfree hin => clusterAssignment_of_free pid hcl hfree hin, ?release⟩
  case zero => exact congrArg Host.Outcome.next s.cancelToken_zero
  case cancel => exact fun t ht hs hl hn => congrArg Host.Outcome.next (State.cancelToken_of_idle ht hs hl hn)
  case watchdog => exact fun cid sl w t hsl => ⟨rfl, fun hlive hw hlate hnew => watchdogReport_once hsl hlive hw hlate hnew⟩
  case release =>
    intro cl pid hcl hpid hh hsv hcs ho hn hf hr hcomb hp
    obtain ⟨u, hu⟩ : ∃ u, u = (s.modCluster cl (fun c => { c with comb := [] })).modCluster cl (fun _ => (s.cluster cl).released) := ⟨_, rfl⟩
    have hself : (u.cluster cl).pid = none := by rw [hu, State.cluster_modCluster_self]; rfl
    have hother : ∀ c, c ≠ cl → u.cluster c = s.cluster c := fun c hc => by rw [hu, State.cluster_modCluster_ne _ _ _ _ hc, State.cluster_modCluster_ne _ _ _ _ hc]
    refine ⟨u.unbound pid, by rw [hu]; exact exec_clusterRelease hcl hpid hh hsv hcs ho hn hf hr hcomb hp, ?_⟩
    by_cases hlast : ∃ c < 64, (u.cluster c).pid = some pid
    case pos =>
      rw [State.unbound_of_holding hlast]
      obtain ⟨c, hc, hcp⟩ := hlast
      have hne : c ≠ cl := by
        rintro rfl
        rw [hself] at hcp
        cases hcp
      refine ⟨hself, by rw [hu]; rfl, by rw [hu]; rfl, fun hno => absurd ?_ (hno c hc hne), fun _ => by rw [hu]; rfl⟩
      rw [← hother c hne]
      exact hcp
    case neg =>
      have hno : ∀ c < 64, (u.cluster c).pid ≠ some pid := fun c hc hcp => hlast ⟨c, hc, hcp⟩
      rw [State.unbound_of_not_holding hno]
      refine ⟨hself, by rw [hu]; rfl, by rw [hu]; rfl, fun _ => by rw [State.proc_modProc_self], ?_⟩
      rintro ⟨c, hc, hne, hcp⟩
      exact absurd (by rw [hother c hne]; exact hcp) (hno c hc)

end Sys2Proof.Machine
end

section
/-! How a remote routine starts and ends (O35): operations found after an update, the state a routine starts in, a nib that turns to a
process, the arrival of a call at its unit, and the routine's end. -/

namespace Sys2Proof.Machine

/-! ## Operations in flight after an update -/

/-- An operation in flight that is replaced is found as its replacement. -/
theorem State.op?_setOp_self {s : State} {o p : Op} (h : s.op? o.id = some p) : (s.setOp o).op? o.id = some o := by
  simp only [State.op?, State.setOp, List.find?_map] at h ⊢
  have hcomp : ((fun x : Op => x.id == o.id) ∘ fun x : Op => if x.id = o.id then o else x) = fun x : Op => x.id == o.id := by
    funext x
    by_cases hx : x.id = o.id <;> simp [hx]
  have hp : p.id = o.id := by simpa using List.find?_some h
  rw [hcomp, h]
  simp [hp]

theorem State.op?_congr {s t : State} (h : s.ops = t.ops) (id : Nat) : s.op? id = t.op? id := by
  rw [State.op?, State.op?, h]

@[simp] theorem State.slot_setOp (s : State) (o : Op) (h : Nat) : (s.setOp o).slot h = s.slot h := rfl

/-! ## Units -/

theorem nibOf_nibHart (n : Nat) : nibOf (nibHart n) = n := Nat.add_sub_cancel_left ..

theorem nibHart_nibOf {u : Nat} (h : isNib u = true) : nibHart (nibOf u) = u := Nat.add_sub_cancel' (of_decide_eq_true h).1

theorem clusterOf_eq (u : Nat) : clusterOf u = u / 1280 := by
  rw [clusterOf, cidOf, Nat.div_div_eq_div_mul]

theorem offset_eq (a : Reg64) : offset a = a.toNat % 2 ^ 48 := by
  rw [offset, bits, Nat.pow_zero, Nat.div_one]

/-- A unit of this part in service is a nib or stands on a core. -/
theorem State.lt_of_not_unitOut {s : State} {u : Nat} (h : s.unitOut u = false) (hn : isNib u = false) : u < 81920 := by
  rw [State.unitOut, hn, if_neg Bool.false_ne_true, State.coreOut] at h
  simp only [Bool.or_eq_false_iff, cidOf] at h
  obtain ⟨⟨hcore, _⟩, _⟩ := h
  have := of_decide_eq_false hcore
  omega

/-- The die of a core's handler slot or of a nib. -/
theorem placeOf_eq {u : Nat} (hu : isNib u = true ∨ u < 81920) : placeOf u = if isNib u then (u - 81920) / 64 else u / 5 / 4096 := by
  have hlt : ¬ 2 ^ 20 ≤ u := by
    rcases hu with hu | hu
    · have := of_decide_eq_true hu
      omega
    · omega
  rw [placeOf, if_neg hlt, dieOf]
  split
  · rfl
  · next hn =>
    have hc : isControl u = false := by
      rcases hu with hu | hu
      · exact absurd hu hn
      · exact decide_eq_false (by omega)
    rw [hc, if_neg Bool.false_ne_true, cidOf]

/-! ## Arrival (R325, R326, R335, R339) -/

/-- An earlier call or atomic of the slot's to the unit, which has not arrived (R335). -/
def State.comesBefore (s : State) (o : Op) (id u : Nat) (p : Op) : Bool :=
  p.owner == o.owner && p.task == o.task && decide (p.id < id) && p.stage == 0 && (match p.kind with
    | .rcall _ _ _ _ v => v == u
    | .atomic _ _ a _ _ _ _ _ _ => s.callUnit a == u
    | _ => false)

theorem State.comesBefore_iff (s : State) (o : Op) (id u : Nat) (p : Op) : s.comesBefore o id u p = true ↔ p.id < id ∧ p.owner = o.owner ∧ p.task = o.task ∧ p.stage = 0
    ∧ ((∃ e t w c, p.kind = .rcall e t w c u) ∨ ∃ fn n a v e q nr m r, p.kind = .atomic fn n a v e q nr m r ∧ s.callUnit a = u) := by
  simp only [State.comesBefore, Bool.and_eq_true, beq_iff_eq, decide_eq_true_eq]
  split <;> simp_all <;> tauto

section Arrival
variable {s : State} {id u : Nat} {o : Op} {entry target : Reg64} {pay : List Reg64} {cid : BitVec 16} (ho : s.op? id = some o) (hk : o.kind = .rcall entry target pay cid u)
include ho hk

/-- The cases of a call's arrival at a unit of this part. -/
theorem exec_remoteCallArrival (hu : u < 2 ^ 20) : exec (.remoteCallArrival id) s = .next (
    if o.stage ≠ 0 then s.copyArrives o u
    else if s.ops.any (s.comesBefore o id u) = true ∨ ¬ s.arrived o = true then s
    else if isNib u = true ∧ (s.translate o.pid (offset target) false false false).isNone = true then s.failCall o 4 target
    else if ¬ isNib u = true ∧ ¬ s.holds o.pid (clusterOf u) = true then s.failCall o 3 target
    else if s.unitOut u = true ∨ s.cacheFull u = true then s
    else ({ s with replies := s.replies ++ [⟨u, id, none⟩] } : State).setOp { o with stage := 1, buf := false }) := by
  have hexec : exec (.remoteCallArrival id) s = execRemoteCallArrival id s := rfl
  have hu' : ¬ 2 ^ 20 ≤ u := by omega
  simp only [hexec, execRemoteCallArrival, ho, hk, hu', if_false]
  rfl

/-- A call that has arrived already meets a copy of itself alone. -/
theorem exec_remoteCallArrival_again (hu : u < 2 ^ 20) (hs : o.stage ≠ 0) : exec (.remoteCallArrival id) s = .next (s.copyArrives o u) := by
  rw [exec_remoteCallArrival ho hk hu, if_pos hs]

end Arrival

/-- Where no copy is to come, nothing arrives again. -/
theorem State.copyArrives_of_none {s : State} {o : Op} {u : Nat} (h : .call o.id ∉ s.softErrors) : s.copyArrives o u = s := by
  rw [State.copyArrives, if_pos (by simpa using h)]

/-- A copy of a call whose routine has not ended is discarded. -/
theorem State.copyArrives_of_running {s : State} {o : Op} {u : Nat} (h : .call o.id ∈ s.softErrors) (hs : o.stage ≠ 3) :
    s.copyArrives o u = ({ s with softErrors := s.softErrors.erase (.call o.id) } : State).countHart o.owner := by
  simp only [State.copyArrives]
  rw [if_neg (by simpa using h), if_neg (fun hc => hs hc.2)]

/-- A copy of a call whose reply is held is answered again. -/
theorem State.copyArrives_of_replied {s : State} {o : Op} {u : Nat} (h : .call o.id ∈ s.softErrors) (hs : o.stage = 3) (hr : ∃ e ∈ s.replies, e.op = o.id ∧ e.reply = some (o.status, o.reply)) :
    s.copyArrives o u = (({ s with softErrors := s.softErrors.erase (.call o.id) } : State).setOp { o with die := placeOf u, since := s.clk }).countHart o.owner := by
  obtain ⟨e, he, heop, her⟩ := hr
  have hany : s.replies.any (fun e => e.op == o.id && e.reply == some (o.status, o.reply)) = true := List.any_eq_true.2 ⟨e, he, by simp [heop, her]⟩
  simp only [State.copyArrives]
  rw [if_neg (by simpa using h), if_pos ⟨hany, hs⟩]

/-! ## The state a routine starts in (R330) -/

theorem Mem.read_eq_zero (m : Mem) (a n : Nat) (h : ∀ x, a ≤ x → x < a + n → m.get x = 0) : m.read a n = 0 := by
  induction n generalizing a with
  | zero => rfl
  | succ n ih => rw [Mem.read, h a (by omega) (by omega), ih (a + 1) (fun x h1 h2 => h x (by omega) (by omega))]; rfl

/-- Registers g[k+1] on take the values of a list: they hold them, and no other byte of the window changes. -/
theorem Slot.foldl_putG_eq (l : List Reg64) (k : Nat) (y : Slot) (hwf : y.win.wf = true) :
    ∃ w b, (l.zipIdx k).foldl (fun (y : Slot) (p : Reg64 × Nat) => y.putG (p.2 + 1) p.1) y = { y with win := w, bad := b } ∧ w.wf = true
      ∧ (∀ a, (a < y.gOff (k + 1) ∨ y.gOff (k + 1) + 8 * l.length ≤ a) → w.get a = y.win.get a)
      ∧ ∀ j v, l[j]? = some v → r64 (Mem.read w (y.gOff (k + 1 + j)) 8) = v := by
  induction l generalizing k y with
  | nil => exact ⟨y.win, y.bad, rfl, hwf, fun _ _ => rfl, by simp⟩
  | cons v l ih =>
    have hput : y.putG (k + 1) v = { y with win := Mem.write y.win (y.gOff (k + 1)) 8 v.toNat, bad := y.mended (y.gOff (k + 1)) 8 } := by
      rw [Slot.putG, if_neg (by omega)]
    have hwf' : (y.putG (k + 1) v).win.wf = true := Slot.wf_putG y _ v hwf
    obtain ⟨w, b, e, hw, hout, hin⟩ := ih (k + 1) (y.putG (k + 1) v) hwf'
    have hoff : ∀ n, (y.putG (k + 1) v).gOff n = y.gOff n := fun n => by rw [hput]; rfl
    have hnext : y.gOff (k + 1 + 1) = y.gOff (k + 1) + 8 := by simp only [Slot.gOff]; omega
    simp only [hoff, hnext] at hout hin
    refine ⟨w, b, ?_, hw, ?_, ?_⟩
    · rw [List.zipIdx_cons, List.foldl_cons, e, hput]
    · intro a ha
      rw [List.length_cons] at ha
      rw [hout a (by omega), hput, Mem.get_write _ _ _ _ _ hwf, if_neg (by omega)]
    · intro j x hj
      cases j with
      | zero =>
        obtain rfl : v = x := by simpa using hj
        have hself : Mem.read w (y.gOff (k + 1)) 8 = Mem.read (y.putG (k + 1) v).win (y.gOff (k + 1)) 8 := Mem.read_congr _ _ _ _ (fun a _ h2 => hout a (by omega))
        have hget := Slot.getG_putG_self y (k + 1) v hwf (by omega)
        rw [Slot.getG, if_neg (by omega), hoff] at hget
        rw [Nat.add_zero, hself, hget]
      | succ j =>
        have := hin j x (by simpa using hj)
        rwa [show k + 1 + (j + 1) = k + 1 + 1 + j by omega]

/-- A slot as a routine finds it, before its payload and target are in its registers (R330). -/
def Slot.routineBase (x : Slot) (h uid : Nat) (entry : Reg64) (r : RoutineRef) : Slot :=
  { Slot.initial h with live := true, uid := uid, pid := r.pid, pc := entry, srs := x.srs, grant := if isNib h then 16 else 0, request := if isNib h then 16 else 0, watch := r.watch, lid := r.lid, routine := some r, words := if x.lid = r.lid then x.words.filter (fun w => w.1 == r.pid) else [] }

theorem Slot.startRoutine_eq (x : Slot) (h uid : Nat) (entry target : Reg64) (pay : List Reg64) (r : RoutineRef) :
    x.startRoutine h uid entry target pay r = (pay.zipIdx.foldl (fun (y : Slot) (p : Reg64 × Nat) => y.putG (p.2 + 1) p.1) (x.routineBase h uid entry r)).putG 9 target := rfl

/-- A handler slot or nib nothing has run on. -/
theorem Slot.initial_of_unit {h : Nat} (hh : isNib h = true ∨ h < 81920 ∧ h % 5 = 4) :
    ∃ q p, Slot.initial h = { srs := q, winSize := if isNib h then 8192 else 256, xstat := p } := by
  by_cases hn : isNib h = true
  · refine ⟨r64 (nibOf h * 2 ^ 32 + 0xFFFFFFFE) ^^^ seedXor, 0, ?_⟩
    rw [Slot.initial, if_pos hn, if_pos hn]
  · have hcore := hh.resolve_left hn
    have hc : isControl h = false := decide_eq_false (by omega)
    have hhd : isHandler h = true := decide_eq_true hcore
    refine ⟨0, 1, ?_⟩
    rw [Slot.initial, if_neg hn, if_neg hn, hc, if_neg Bool.false_ne_true, if_pos hhd]

section Start
variable {h uid : Nat} {entry target : Reg64} {pay : List Reg64} {r : RoutineRef} (x : Slot) (hh : isNib h = true ∨ h < 81920 ∧ h % 5 = 4) (hlen : pay.length ≤ 8)
include hh hlen

/-- The start state of a routine but for its window: as the unit finds it; in the window g1 to g9 the payload and the target, and 0 elsewhere. -/
theorem Slot.startRoutine_spec : ∃ w b, x.startRoutine h uid entry target pay r = { x.routineBase h uid entry r with win := w, bad := b }
      ∧ (x.startRoutine h uid entry target pay r).getG 9 = target ∧ (∀ j < 8, (x.startRoutine h uid entry target pay r).getG (j + 1) = pay.getD j 0)
      ∧ ∀ a, (a < 8 ∨ 80 ≤ a) → w.get a = 0 := by
  obtain ⟨q, p, hinit⟩ := Slot.initial_of_unit hh
  obtain ⟨y, hy⟩ : ∃ y, y = x.routineBase h uid entry r := ⟨_, rfl⟩
  have hwin : y.win = [] := by rw [hy, Slot.routineBase, hinit]
  have hg : y.gBase = 0 := by rw [hy, Slot.routineBase, hinit]
  have hgoff : ∀ n, y.gOff n = 8 * n := fun n => by rw [Slot.gOff, hg, Nat.zero_add]
  obtain ⟨w, b, e, hw, hout, hin⟩ := Slot.foldl_putG_eq pay 0 y (by rw [hwin]; rfl)
  simp only [hgoff, hwin] at hout hin
  have hzero : ∀ a, (a < 8 ∨ 8 + 8 * pay.length ≤ a) → w.get a = 0 := fun a ha => hout a (by omega)
  have hput : ({ y with win := w, bad := b } : Slot).putG 9 target = { y with win := Mem.write w 72 8 target.toNat, bad := ({ y with win := w, bad := b } : Slot).mended 72 8 } := by
    rw [Slot.putG, if_neg (by omega)]
    simp only [Slot.gOff, hg]
  rw [Slot.startRoutine_eq, ← hy, e]
  refine ⟨_, _, hput, Slot.getG_putG_self _ 9 target hw (by omega), fun j hj => ?_, fun a ha => ?_⟩
  · rw [Slot.getG_putG_ne _ _ _ _ hw (by omega), Slot.getG, if_neg (by omega)]
    have hoff : ({ y with win := w, bad := b } : Slot).gOff (j + 1) = 8 * (0 + 1 + j) := by simp only [Slot.gOff, hg]; omega
    rw [hoff, List.getD_eq_getElem?_getD]
    cases hj' : pay[j]? with
    | some v => exact hin j v hj'
    | none =>
      have hle : pay.length ≤ j := List.getElem?_eq_none_iff.1 hj'
      rw [Mem.read_eq_zero w _ _ (fun a h1 _ => hzero a (by omega))]
      rfl
  · rw [Mem.get_write _ _ _ _ _ hw, if_neg (by omega)]
    exact hzero a (by omega)

theorem Slot.startRoutine_getLn : (x.startRoutine h uid entry target pay r).getLn = 0 := by
  obtain ⟨q, p, hinit⟩ := Slot.initial_of_unit hh
  obtain ⟨w, b, e, _, _, hzero⟩ := Slot.startRoutine_spec (uid := uid) (entry := entry) (target := target) (r := r) x hh hlen
  rw [e, Slot.routineBase, hinit, Slot.getLn]
  split
  · rw [Mem.read_eq_zero _ _ _ (fun a h1 _ => hzero a (by simp only [Slot.gOff] at h1; omega))]
    rfl
  · rfl

end Start

/-! ## A nib turns to a process (R327, R330) -/

theorem State.turnNib_of_same {s : State} {n : Nat} {pid : BitVec 16} (h : (s.nib n).lastPid = none ∨ (s.nib n).lastPid = some pid) :
    s.turnNib n pid = s.modNib n (fun x => { x with lastPid := some pid }) := by
  rcases h with h | h <;> simp [State.turnNib, h]

theorem State.turnNib_of_other {s : State} {n : Nat} {pid q : BitVec 16} (h : (s.nib n).lastPid = some q) (hq : q ≠ pid) :
    s.turnNib n pid = (({ s with nibMem := Mem.clear (n * 65536) ((n + 1) * 65536) s.nibMem } : State).modSlot (nibHart n) (fun x => { x with srs := (Slot.initial (nibHart n)).srs })).modNib n
      (fun x => { x with lastPid := some pid }) := by
  simp only [State.turnNib, h, hq, if_false]

@[simp] theorem State.slot_modNib (s : State) (n h : Nat) (f : Nib → Nib) : (s.modNib n f).slot h = s.slot h := rfl

@[simp] theorem State.nib_modNib_self (s : State) (n : Nat) (f : Nib → Nib) : (s.modNib n f).nib n = f (s.nib n) := by
  simp [State.nib, State.modNib, Tab.getD, Tab.get?_set_self]

theorem State.turnNib_cases (s : State) (n : Nat) (pid : BitVec 16) :
    (s.nib n).lastPid = none ∨ (s.nib n).lastPid = some pid ∨ ∃ q, (s.nib n).lastPid = some q ∧ q ≠ pid := by
  cases h : (s.nib n).lastPid with
  | none => exact .inl rfl
  | some q =>
    by_cases hq : q = pid
    · exact .inr (.inl (by rw [hq]))
    · exact .inr (.inr ⟨q, rfl, hq⟩)

/-- What a nib's turn to a process leaves as it is. -/
theorem State.turnNib_frame (s : State) (n : Nat) (pid : BitVec 16) :
    (s.turnNib n pid).spm = s.spm ∧ (s.turnNib n pid).ext = s.ext ∧ (s.turnNib n pid).ops = s.ops ∧ (s.turnNib n pid).clk = s.clk ∧ ∀ h, h ≠ nibHart n → (s.turnNib n pid).slot h = s.slot h := by
  obtain hn | hp | ⟨q, hq, hne⟩ := s.turnNib_cases n pid
  · rw [State.turnNib_of_same (.inl hn)]
    exact ⟨rfl, rfl, rfl, rfl, fun _ _ => rfl⟩
  · rw [State.turnNib_of_same (.inr hp)]
    exact ⟨rfl, rfl, rfl, rfl, fun _ _ => rfl⟩
  · rw [State.turnNib_of_other hq hne]
    refine ⟨rfl, rfl, rfl, rfl, fun h hh => ?_⟩
    rw [State.slot_modNib, State.slot_modSlot_ne _ _ _ _ hh]
    rfl

/-- What turning to a call's process leaves as it is, at a nib and at a handler slot, which turns to none. -/
theorem State.turned_frame (s : State) (u : Nat) (pid : BitVec 16) :
    let t := if isNib u then s.turnNib (nibOf u) pid else s
    t.spm = s.spm ∧ t.ext = s.ext ∧ t.ops = s.ops ∧ t.clk = s.clk ∧ ∀ h, h ≠ u → t.slot h = s.slot h := by
  by_cases hn : isNib u = true
  · rw [if_pos hn]
    have hframe := s.turnNib_frame (nibOf u) pid
    rwa [nibHart_nibOf hn] at hframe
  · rw [if_neg hn]
    exact ⟨rfl, rfl, rfl, rfl, fun _ _ => rfl⟩

theorem State.lastPid_turnNib (s : State) (n : Nat) (pid : BitVec 16) : ((s.turnNib n pid).nib n).lastPid = some pid := by
  rw [State.turnNib, State.nib_modNib_self]

/-- The srs of a nib that has turned to another process (R330). -/
theorem State.srs_turnNib_of_other {s : State} {n : Nat} {pid q : BitVec 16} (h : (s.nib n).lastPid = some q) (hq : q ≠ pid) (hn : n < 256) :
    ((s.turnNib n pid).slot (nibHart n)).srs = r64 (n * 2 ^ 32 + 0xFFFFFFFE) ^^^ 0x9E3779B97F4A7C15 := by
  have hnib : isNib (nibHart n) = true := by
    rw [isNib, decide_eq_true_eq, nibHart]
    omega
  have hslot : ((s.turnNib n pid).slot (nibHart n)).srs = (Slot.initial (nibHart n)).srs := by
    rw [State.turnNib_of_other h hq, State.slot_modNib, State.slot_modSlot_self]
  rw [hslot, Slot.initial, if_pos hnib, nibOf_nibHart]
  rfl

/-! ## A routine starts (R223, R233, R330, R336) -/

/-- A reply-cache entry of a call that waits for its unit (R336). -/
def State.waitsAt (s : State) (u : Nat) (r : CacheEntry) : Bool :=
  r.unit == u && (s.op? r.op).any (fun p => p.stage == 1 && (match p.kind with | .rcall _ _ _ _ _ => true | _ => false))

theorem State.waitsAt_iff (s : State) (u : Nat) (r : CacheEntry) :
    s.waitsAt u r = true ↔ r.unit = u ∧ ∃ p e t w c v, s.op? r.op = some p ∧ p.stage = 1 ∧ p.kind = .rcall e t w c v := by
  simp only [State.waitsAt, Bool.and_eq_true, beq_iff_eq, Option.any_eq_true]
  refine and_congr_right fun _ => ⟨?_, ?_⟩
  · rintro ⟨p, hp, hs, hk⟩
    cases hkind : p.kind <;> simp_all
  · rintro ⟨p, e, t, w, c, v, hp, hs, hk⟩
    exact ⟨p, hp, hs, by rw [hk]⟩

/-- The first entry that waits at a unit. -/
theorem State.first_waitsAt {s : State} {u : Nat} {l : List CacheEntry} {e : CacheEntry} {r : List CacheEntry} (hr : s.replies = l ++ e :: r) (he : s.waitsAt u e = true)
    (hl : ∀ k ∈ l, ¬ s.waitsAt u k = true) : (s.replies.filter (s.waitsAt u)).head? = some e := by
  have hnil : l.filter (s.waitsAt u) = [] := List.filter_eq_nil_iff.2 hl
  rw [hr, List.filter_append, hnil, List.nil_append, List.filter_cons_of_pos he, List.head?_cons]

/-- The call's own entry in the reply cache, with the reply it ends with. -/
def CacheEntry.answer (id status : Nat) (words : List Reg64) (e : CacheEntry) : CacheEntry := if e.op = id then { e with reply := some (status, words) } else e

section RoutineStart
variable {s : State} {id u : Nat} {o : Op} {entry target : Reg64} {pay : List Reg64} {cid : BitVec 16} (ho : s.op? id = some o) (hk : o.kind = .rcall entry target pay cid u)
include ho hk

/-- The cases of a routine's start. -/
theorem exec_routineStart : exec (.routineStart id) s = .next (
    if o.stage ≠ 1 ∨ ¬ s.unitFree u = true ∨ s.unitOut u = true ∨ (s.replies.filter (s.waitsAt u)).head?.map (fun r => r.op) ≠ some id ∨ ¬ s.callerFirst o u = true then s
    else if ¬ isNib u = true ∧ ¬ s.holds o.pid (clusterOf u) = true then
      ({ s with replies := s.replies.map (CacheEntry.answer id 3 [target, r64 (0xFFFFFFFF * 2 ^ 32)]) } : State).failCall o 3 target
    else
      let t := if isNib u then s.turnNib (nibOf u) o.pid else s
      ({ (t.modSlot u (fun x => x.startRoutine u t.nextId entry target pay { op := id, entry := entry, pid := o.pid, lid := o.lid, cluster := o.cluster, watch := o.watch, ctok := o.ctok, began := t.clk }))
          with nextId := t.nextId + 1 } : State).setOp { o with stage := 2 }) := by
  have hexec : exec (.routineStart id) s = execRoutineStart id s := rfl
  simp only [hexec, execRoutineStart, ho, hk]
  rfl

end RoutineStart

/-- What may keep a call of stage 1 from starting (R223, R233, R336). -/
theorem exec_routineStart_of_barred {s : State} {id u : Nat} {o : Op} {entry target : Reg64} {pay : List Reg64} {cid : BitVec 16} (ho : s.op? id = some o)
    (hk : o.kind = .rcall entry target pay cid u)
    (h : (s.slot u).live = true ∨ (s.replies.filter (s.waitsAt u)).head?.map (fun r => r.op) ≠ some id ∨ s.heldBack o = true ∨ isNib u = false ∧ s.earlierOwn o (u / 5 * 65536) 65536 = true) :
    exec (.routineStart id) s = .next s := by
  rw [exec_routineStart ho hk, if_pos]
  obtain hlive | hfirst | hheld | ⟨hnib, hearlier⟩ := h
  · exact .inr (.inl (by simp [State.unitFree, hlive]))
  · exact .inr (.inr (.inr (.inl hfirst)))
  · exact .inr (.inr (.inr (.inr (by simp [State.callerFirst, hheld]))))
  · exact .inr (.inr (.inr (.inr (by simp [State.callerFirst, hnib, cidOf, hearlier]))))

/-- The unit is free for the call: in service, with no routine, the call the first that waits, and its caller's earlier accesses done. -/
theorem not_barred_of_first {s : State} {id u : Nat} {o : Op} {e : CacheEntry} (hs : o.stage = 1) (hout : s.unitOut u = false) (hlive : (s.slot u).live = false)
    (hfirst : (s.replies.filter (s.waitsAt u)).head? = some e) (he : e.op = id) (hheld : s.heldBack o = false) (hearlier : isNib u = false → s.earlierOwn o (u / 5 * 65536) 65536 = false) :
    ¬ (o.stage ≠ 1 ∨ ¬ s.unitFree u = true ∨ s.unitOut u = true ∨ (s.replies.filter (s.waitsAt u)).head?.map (fun r => r.op) ≠ some id ∨ ¬ s.callerFirst o u = true) := by
  have hcaller : s.callerFirst o u = true := by
    cases hn : isNib u
    · simp [State.callerFirst, hheld, cidOf, hearlier hn]
    · simp [State.callerFirst, hheld, hn]
  simp [hs, hout, State.unitFree, hlive, hfirst, he, hcaller]

/-- The routine a call starts (R330, R339). -/
def State.routineOf (t : State) (id : Nat) (o : Op) (entry : Reg64) : RoutineRef :=
  { op := id, entry := entry, pid := o.pid, lid := o.lid, cluster := o.cluster, watch := o.watch, ctok := o.ctok, began := t.clk }

/-- The state after a routine's start at a unit, apart from what a nib's turn changes: the call is at stage 2 and the unit runs it. -/
def State.withRoutine (t : State) (id u : Nat) (o : Op) (entry target : Reg64) (pay : List Reg64) : State :=
  ({ t.modSlot u (fun x => x.startRoutine u t.nextId entry target pay (t.routineOf id o entry)) with nextId := t.nextId + 1 } : State).setOp { o with stage := 2 }

theorem State.slot_congr {s t : State} (h : s.harts = t.harts) (k : Nat) : s.slot k = t.slot k := by
  rw [State.slot, State.slot, h]

theorem State.slot_withRoutine_self (t : State) (id u : Nat) (o : Op) (entry target : Reg64) (pay : List Reg64) :
    (t.withRoutine id u o entry target pay).slot u = (t.slot u).startRoutine u t.nextId entry target pay (t.routineOf id o entry) :=
  (State.slot_congr rfl u).trans (State.slot_modSlot_self t u (fun x => x.startRoutine u t.nextId entry target pay (t.routineOf id o entry)))

theorem State.slot_withRoutine_ne (t : State) (id u h : Nat) (o : Op) (entry target : Reg64) (pay : List Reg64) (hh : h ≠ u) : (t.withRoutine id u o entry target pay).slot h = t.slot h :=
  (State.slot_congr rfl h).trans (State.slot_modSlot_ne t u h (fun x => x.startRoutine u t.nextId entry target pay (t.routineOf id o entry)) hh)

/-- The start of a routine that nothing bars. -/
theorem exec_routineStart_of_first {s : State} {id u : Nat} {o : Op} {entry target : Reg64} {pay : List Reg64} {cid : BitVec 16} {e : CacheEntry} (ho : s.op? id = some o)
    (hk : o.kind = .rcall entry target pay cid u) (hs : o.stage = 1) (hout : s.unitOut u = false) (hlive : (s.slot u).live = false)
    (hfirst : (s.replies.filter (s.waitsAt u)).head? = some e) (he : e.op = id) (hheld : s.heldBack o = false) (hearlier : isNib u = false → s.earlierOwn o (u / 5 * 65536) 65536 = false)
    (hsound : isNib u = false → s.holds o.pid (clusterOf u) = true) :
    exec (.routineStart id) s = .next ((if isNib u then s.turnNib (nibOf u) o.pid else s).withRoutine id u o entry target pay) := by
  have hnib : ¬ (¬ isNib u = true ∧ ¬ s.holds o.pid (clusterOf u) = true) := fun ⟨hn, hh⟩ => hh (hsound (by simpa using hn))
  rw [exec_routineStart ho hk, if_neg (not_barred_of_first hs hout hlive hfirst he hheld hearlier), if_neg hnib]
  rfl

/-- The unit's slot once the routine has started (R330). -/
theorem Slot.startRoutine_state (x : Slot) {u uid : Nat} {entry target : Reg64} {pay : List Reg64} {r : RoutineRef} (hu : isNib u = true ∨ u < 81920 ∧ u % 5 = 4) (hlen : pay.length ≤ 8) :
    let y := x.startRoutine u uid entry target pay r
    y.live = true ∧ y.pc = entry ∧ y.getG 9 = target ∧ (∀ j < 8, y.getG (j + 1) = pay.getD j 0) ∧ (∀ b, (b < 8 ∨ 80 ≤ b) → y.win.get b = 0) ∧ y.getLn = 0 ∧ y.fcr = 0
      ∧ y.gBase = 0 ∧ y.kBase = 448 ∧ y.vBase = 512 ∧ y.winSize = (if isNib u then 8192 else 256) ∧ y.grant = (if isNib u then 16 else 0) ∧ y.loops = [] ∧ y.routine = some r ∧ y.srs = x.srs := by
  obtain ⟨q, p, hinit⟩ := Slot.initial_of_unit hu
  obtain ⟨w, b, e, htarget, hpay, hzero⟩ := Slot.startRoutine_spec (uid := uid) (entry := entry) (target := target) (r := r) x hu hlen
  have hln := Slot.startRoutine_getLn (uid := uid) (entry := entry) (target := target) (r := r) x hu hlen
  intro y
  refine ⟨?_, ?_, htarget, hpay, ?_, hln, ?_⟩
  · exact (congrArg Slot.live e).trans rfl
  · exact (congrArg Slot.pc e).trans rfl
  · intro a ha
    rw [show y.win = w from congrArg Slot.win e]
    exact hzero a ha
  · have hy : y = { x.routineBase u uid entry r with win := w, bad := b } := e
    rw [hy, Slot.routineBase, hinit]
    exact ⟨rfl, rfl, rfl, rfl, rfl, rfl, rfl, rfl, rfl⟩

theorem remoteRoutineStart : Claims.RemoteRoutineStart := by
  intro s id o entry target pay cid u ho hid hk hu hout nib before waits fails
  have hoff : offset target = target.toNat % 2 ^ 48 := offset_eq target
  have hbefore : s.ops.any (s.comesBefore o id u) = true ↔ ∃ p ∈ s.ops, before p := by
    simp only [List.any_eq_true, State.comesBefore_iff]
    rfl
  have hwaits : ∀ r, s.waitsAt u r = true ↔ waits r := fun r => s.waitsAt_iff u r
  have harr := exec_remoteCallArrival ho hk hu
  have hstart := exec_routineStart ho hk
  -- the call's own entry waits, once the call has arrived
  have hmine : ∀ l e r, s.replies = l ++ e :: r → e.unit = u → e.op = id → (∀ k ∈ l, ¬ waits k) → o.stage = 1 → (s.replies.filter (s.waitsAt u)).head? = some e := by
    intro l e r hr heu heo hl hs
    refine State.first_waitsAt hr ((hwaits e).2 ⟨heu, o, entry, target, pay, cid, u, by rw [heo]; exact ho, hs, hk⟩) (fun k hkl => ?_)
    rw [hwaits]
    exact hl k hkl
  refine ⟨?early, ?arrives, ?again, ?discarded, ?answered, ?later, ?held, ?gone, ?starts⟩
  case early =>
    intro hs h
    rw [harr, if_neg (by simp [hs]), if_pos]
    exact h.imp hbefore.2 (by simp)
  case arrives =>
    intro hs hnone harrived translates sound
    have hnot : ¬ (s.ops.any (s.comesBefore o id u) = true ∨ ¬ s.arrived o = true) := by
      rw [hbefore]
      rintro (⟨p, hp, hb⟩ | h)
      · exact hnone p hp hb
      · exact h harrived
    rw [if_neg (by simp [hs]), if_neg hnot] at harr
    have hnone : (s.translate o.pid (offset target) false false false).isNone = true ↔ ¬ translates := by
      rw [hoff, Option.isNone_iff_eq_none, ← Option.not_isSome_iff_eq_none]
    have hnib : isNib u = nib := rfl
    rw [hnib, clusterOf_eq, hout] at harr
    refine ⟨fun hn ht => ?_, fun hn hh => ?_, fun hh hfull => ?_, fun hh hfull => ?_⟩
    · exact harr.trans (congrArg Host.Outcome.next (if_pos ⟨hn, hnone.2 ht⟩))
    · have hh' : ¬ s.holds o.pid (u / 1280) = true := by simpa [sound, hn] using hh
      rw [if_neg (by simp [hn]), if_pos ⟨by simp [hn], hh'⟩] at harr
      exact harr
    all_goals
      have h1 : ¬ (nib = true ∧ (s.translate o.pid (offset target) false false false).isNone = true) := fun ⟨hn, ht⟩ => hnone.1 ht (by simpa [sound, hn] using hh)
      have h2 : ¬ (¬ nib = true ∧ ¬ s.holds o.pid (u / 1280) = true) := fun ⟨hn, hno⟩ => hno (by simpa [sound, hn] using hh)
      rw [harr, if_neg h1, if_neg h2]
      simp [hfull]
  case again =>
    intro hs hno
    rw [exec_remoteCallArrival_again ho hk hu hs, State.copyArrives_of_none (by rw [hid]; exact hno)]
  case discarded =>
    intro hs hin
    rw [exec_remoteCallArrival_again ho hk hu (by omega), State.copyArrives_of_running (by rw [hid]; exact hin) (by omega), hid]
  case answered =>
    intro hs hin hr
    have hplace : placeOf u = if nib = true then (u - 81920) / 64 else u / 5 / 4096 := by
      refine placeOf_eq ?_
      cases hn : isNib u
      · exact .inr (State.lt_of_not_unitOut hout hn)
      · exact .inl rfl
    rw [exec_remoteCallArrival_again ho hk hu (by omega), State.copyArrives_of_replied (by rw [hid]; exact hin) hs (by rw [hid]; exact hr), hid, hplace]
  case later =>
    rintro hs (hlive | ⟨l, e, r, hr, he, hne, hl⟩)
    · exact exec_routineStart_of_barred ho hk (.inl hlive)
    · have hfirst := State.first_waitsAt hr ((hwaits e).2 he) (fun k hkl => by rw [hwaits]; exact hl k hkl)
      refine exec_routineStart_of_barred ho hk (.inr (.inl ?_))
      rw [hfirst]
      simpa using hne
  case held =>
    rintro hs (hheld | hearlier)
    · exact exec_routineStart_of_barred ho hk (.inr (.inr (.inl hheld)))
    · exact exec_routineStart_of_barred ho hk (.inr (.inr (.inr hearlier)))
  case gone =>
    rintro hs hheld hgone hlive ⟨l, e, r, hr, heu, heo, hl⟩ hn hlt
    obtain ⟨_, hearlier, hholds⟩ := hgone hn
    have hnot := not_barred_of_first hs hout hlive (hmine l e r hr heu heo hl hs) heo hheld (fun _ => hearlier)
    rw [hstart, if_neg hnot, if_pos ⟨by simpa using (show isNib u = false from hn), by rw [clusterOf_eq, hholds]; exact Bool.false_ne_true⟩]
    rfl
  case starts =>
    rintro hs hheld hsound hlive ⟨l, e, r, hr, heu, heo, hl⟩ hlen hunit
    have hexec := exec_routineStart_of_first ho hk hs hout hlive (hmine l e r hr heu heo hl hs) heo hheld (fun hn => (hsound hn).1)
      (fun hn => by rw [clusterOf_eq]; exact (hsound hn).2)
    obtain ⟨t, ht⟩ : ∃ t, t = if isNib u then s.turnNib (nibOf u) o.pid else s := ⟨_, rfl⟩
    obtain ⟨hspm, hext, hops, hclk, hslot⟩ : t.spm = s.spm ∧ t.ext = s.ext ∧ t.ops = s.ops ∧ t.clk = s.clk ∧ ∀ h, h ≠ u → t.slot h = s.slot h := ht ▸ s.turned_frame u o.pid
    rw [← ht] at hexec
    have hop : (t.withRoutine id u o entry target pay).op? id = some { o with stage := 2 } := by
      subst hid
      refine State.op?_setOp_self (p := o) ?_
      rw [← ho]
      exact State.op?_congr hops _
    have hu' : isNib u = true ∨ u < 81920 ∧ u % 5 = 4 := hunit
    obtain ⟨hl, hpc, hg9, hgs, hbytes, hln, hfcr, hgb, hkb, hvb, hws, hgr, hlo, hro, hsrs⟩ :=
      Slot.startRoutine_state (uid := t.nextId) (entry := entry) (target := target) (r := t.routineOf id o entry) (t.slot u) hu' hlen
    have hself := t.slot_withRoutine_self id u o entry target pay
    refine ⟨_, hexec, hop, hspm, hext, fun h hh => (t.slot_withRoutine_ne id u h o entry target pay hh).trans (hslot h hh), ?state, ?handler, ?nib⟩
    case state =>
      rw [hself]
      refine ⟨hl, hpc, hg9, hgs, hbytes, hln, hfcr, hgb, hkb, hvb, hws, hgr, hlo, ?_⟩
      rw [hro, Option.map_some, State.routineOf, hclk]
    case handler =>
      intro hn
      have hts : t = s := by rw [ht, show isNib u = false from hn, if_neg Bool.false_ne_true]
      rw [hself, hsrs, hts]
      exact ⟨rfl, rfl⟩
    case nib =>
      intro hn n
      have hts : t = s.turnNib n o.pid := by rw [ht, show isNib u = true from hn, if_pos rfl]; rfl
      have hrange := of_decide_eq_true hn
      have hun : nibHart n = u := nibHart_nibOf hn
      rw [hself, hsrs]
      refine ⟨?_, fun hsame => ?_, fun q hq hne => ⟨fun a => ?_, ?_⟩⟩
      · exact (congrArg (fun v => (State.nib v n).lastPid) hts).trans (s.lastPid_turnNib n o.pid)
      · rw [hts, State.turnNib_of_same hsame]
        exact ⟨rfl, rfl⟩
      · have hmem : t.nibMem = Mem.clear (n * 65536) ((n + 1) * 65536) s.nibMem := by rw [hts, State.turnNib_of_other hq hne]; rfl
        exact (congrArg (fun m => Mem.get m a) hmem).trans (Mem.get_clear _ _ _ a)
      · rw [hts, ← hun]
        exact State.srs_turnNib_of_other hq hne (by omega)

/-! ## A routine ends (R331, R333, R336, R339) -/

/-- How the state s has become t by the end of the routine of call o at hart h, with a status and reply words. -/
def State.RoutineEnded (s t : State) (h : Nat) (o : Op) (status : Nat) (words : List Reg64) : Prop :=
  (t.slot h).live = false ∧ (t.slot h).routine = none ∧ t.op? o.id = some { o with stage := 3, since := s.clk, status := status, reply := words }
    ∧ t.replies = s.replies.map (fun e => if e.op = o.id then { e with reply := some (status, words) } else e) ∧ t.spm = s.spm ∧ t.ext = s.ext ∧ t.nibMem = s.nibMem

/-- The end of a routine whose call is at its unit. -/
theorem State.endRoutine_ended {s : State} {h : Nat} {r : RoutineRef} {o : Op} (hr : (s.slot h).routine = some r) (ho : s.op? r.op = some o) (hid : o.id = r.op) (hs : o.stage = 2)
    (status : Nat) (words : List Reg64) : s.RoutineEnded (s.endRoutine h status words) h o status words := by
  obtain ⟨x, hx⟩ : ∃ x : Slot, x = { s.slot h with live := false, routine := none, waiting := none, blocked := none, rptOn := false, parts := none } := ⟨_, rfl⟩
  obtain ⟨u, hu⟩ : ∃ u : State, u = { s.setSlot h x with replies := s.replies.map (fun e => if e.op = r.op then { e with reply := some (status, words) } else e) } := ⟨_, rfl⟩
  have huo : u.op? r.op = some o := by rw [hu]; exact ho
  have hend : s.endRoutine h status words = u.setOp { o with stage := 3, since := s.clk, status := status, reply := words } := by
    simp only [State.endRoutine, hr]
    rw [← hx]
    simp only [State.setSlot_replies]
    rw [← hu, huo]
    simp only [hs, if_true]
    rfl
  have hslot : u.slot h = x := by
    rw [hu]
    exact s.slot_setSlot_self h x
  rw [hend]
  refine ⟨by rw [State.slot_setOp, hslot, hx], by rw [State.slot_setOp, hslot, hx], State.op?_setOp_self (p := o) (by rw [hid]; exact huo), ?_, ?_, ?_, ?_⟩
  · rw [State.setOp_replies, hu, hid]
  · rw [State.setOp_spm, hu]; rfl
  · rw [State.setOp_ext, hu]; rfl
  · rw [State.setOp_nibMem, hu]; rfl

/-- A later change of the ended hart's slot that leaves it empty. -/
theorem State.RoutineEnded.modSlot {s t : State} {h : Nat} {o : Op} {status : Nat} {words : List Reg64} (he : s.RoutineEnded t h o status words) (f : Slot → Slot)
    (hlive : ∀ x : Slot, (f x).live = x.live) (hroutine : ∀ x : Slot, (f x).routine = x.routine) : s.RoutineEnded (t.modSlot h f) h o status words := by
  obtain ⟨hl, hr, hop, hrep, hspm, hext, hnib⟩ := he
  refine ⟨?_, ?_, hop, hrep, hspm, hext, hnib⟩
  · rw [State.slot_modSlot_self, hlive, hl]
  · rw [State.slot_modSlot_self, hroutine, hr]

/-- What an instruction takes from the ports leaves the slot live or empty as it was. -/
theorem Slot.dequeue_live_routine (x : Slot) (o : Opd) : (x.dequeue o).live = x.live ∧ (x.dequeue o).routine = x.routine := by
  have hq : ∀ q l, (x.setQueue q l).live = x.live ∧ (x.setQueue q l).routine = x.routine := by
    intro q l
    simp only [Slot.setQueue]
    split
    · exact ⟨rfl, rfl⟩
    · split
      · exact ⟨rfl, rfl⟩
      · split <;> exact ⟨rfl, rfl⟩
  simp only [Slot.dequeue]
  split
  · split
    · split
      · split <;> exact ⟨rfl, rfl⟩
      · exact hq _ _
    · exact ⟨rfl, rfl⟩
    · split <;> exact ⟨rfl, rfl⟩
  · exact ⟨rfl, rfl⟩

theorem Slot.dequeueAll_live_routine (l : List Opd) (x : Slot) : (l.foldl Slot.dequeue x).live = x.live ∧ (l.foldl Slot.dequeue x).routine = x.routine :=
  ⟨foldl_keeps Slot.live Slot.dequeue (fun x o => (x.dequeue_live_routine o).1) l x, foldl_keeps Slot.routine Slot.dequeue (fun x o => (x.dequeue_live_routine o).2) l x⟩

/-- A transfer of control by a hart whose routine has ended leaves it ended. -/
theorem State.RoutineEnded.commitJump {s t : State} {h : Nat} {o : Op} {status : Nat} {words : List Reg64} (he : s.RoutineEnded t h o status words) (hcur : t.cur = h) (i : Instr) (pc : Reg64) :
    s.RoutineEnded (t.commitJump i pc) h o status words := by
  subst hcur
  have hdeq := he.modSlot (fun x => (opds i).foldl Slot.dequeue x) (fun x => (Slot.dequeueAll_live_routine _ x).1) (fun x => (Slot.dequeueAll_live_routine _ x).2)
  exact hdeq.modSlot (fun x => { x.resume with pc := pc }) (fun _ => rfl) (fun _ => rfl)

@[simp] theorem State.endRoutine_cur (s : State) (h status : Nat) (words : List Reg64) : (s.endRoutine h status words).cur = s.cur := by
  simp only [State.endRoutine]
  split
  · rfl
  · split
    · rfl
    · split <;> rfl

/-- The routine's end with the values g1 to gm, where its RRET is ready (R331). -/
theorem exec_rret_of_ready {s : State} {m : BitVec 3} {r : RoutineRef} (hr : s.me.routine = some r) (hready : ready (.rret m) s = true) :
    exec (.rret m) s = .next ((s.endRoutine s.cur 0 ((List.range m.toNat).map (fun j => s.getG (j + 1)))).commitJump (.rret m) s.me.pc) := by
  have hbody := run_ready (.rret m) s (fun s => if s.me.routine.isNone then .trap 1 ((Instr.rret m).word.zeroExtend 64)
    else .jump (s.endRoutine s.cur 0 ((List.range m.toNat).map (fun i => s.getG (i + 1)))) s.me.pc) hready
  rw [hr, Option.isNone_some, if_neg Bool.false_ne_true] at hbody
  exact hbody

/-- An ill-formed word, or one illegal where the slot stands, is the first trap condition in a routine and outside one (R82, R83). -/
theorem issueTrap_of_illegal {i : Instr} {s : State} (h : legal i = false ∨ s.me.illegalHere i = true) : issueTrap i s = some (1, i.word.zeroExtend 64) := by
  simp only [issueTrap]
  split
  · rfl
  · rw [if_pos (h.imp_left (fun hl => by rw [hl]; exact Bool.false_ne_true))]

/-- An RRET of more than four values is illegal (R331). -/
theorem issueTrap_rret_of_long {s : State} {m : BitVec 3} (hm : 4 < m.toNat) : issueTrap (.rret m) s = some (1, (Instr.rret m).word.zeroExtend 64) :=
  issueTrap_of_illegal (.inl (decide_eq_false (by omega)))

/-- An RRET outside a routine is illegal (R331). -/
theorem issueTrap_rret_of_no_routine {s : State} {m : BitVec 3} (hr : s.me.routine = none) : issueTrap (.rret m) s = some (1, (Instr.rret m).word.zeroExtend 64) := by
  have hhere : s.me.illegalHere (.rret m) = s.me.routine.isNone := rfl
  exact issueTrap_of_illegal (.inr (by rw [hhere, hr, Option.isNone_none]))

/-- Cause 0x01 in a routine ends it with status 1 and the word (R333). -/
theorem State.trapMe_illegal_of_routine {s : State} {i : Instr} {r : RoutineRef} (ht : isTask s.cur = false) (hc : isControl s.cur = false) (hr : (s.slot s.cur).routine = some r) (v : Reg64) :
    s.trapMe i 1 v = s.endRoutine s.cur 1 [i.word.zeroExtend 64, r64 ((s.me.pc - r.entry).toNat % 2 ^ 32 * 2 ^ 32)] := by
  have hst : s.storageTrap 1 v = s := by simp [State.storageTrap]
  have hstatus : routineStatus 1 v i.word = (1, i.word.zeroExtend 64) := if_neg (by decide)
  have hnine : ¬ ((1 : Nat) = 9 ∧ (s.slot s.cur).watch = true) := fun h => absurd h.1 (by decide)
  rw [State.trapMe, hst]
  simp only [State.trapAt]
  rw [if_neg hnine, State.deliver_routine _ _ _ _ _ _ ht hc]
  simp only [State.stopRoutine, hr, hstatus]

/-- The budget's expiry at the one hart that holds anything. -/
theorem exec_routineBudgetExpiry {s : State} {r : RoutineRef} (hr : s.me.routine = some r) (hlive : s.me.live = true) (hh : s.harts = [(s.cur, s.me)]) :
    exec (.routineBudgetExpiry r.op) s = .next (if r.began + 36000 ≤ s.clk ∧ s.me.parts = none then s.stopCall s.cur 2 else s) := by
  have hexec : exec (.routineBudgetExpiry r.op) s = execRoutineBudgetExpiry r.op s := rfl
  have hfind : s.harts.find? (fun p => p.2.live && p.2.routine.any (fun q => q.op == r.op)) = some (s.cur, s.me) := by
    rw [hh]
    simp [hlive, hr]
  simp only [hexec, execRoutineBudgetExpiry, hfind, hr, Option.any_some, decide_eq_true_eq, Option.isNone_iff_eq_none]

theorem remoteRoutineEnd : Claims.RemoteRoutineEnd := by
  intro s m
  refine ⟨fun r o hr ho hid hs ht hc => ?routine, fun hr hi => run_trap _ s _ _ _ hi (issueTrap_rret_of_no_routine hr)⟩
  case routine =>
    intro ended
    have hend : ∀ i st l t, exec i s = .next t → s.RoutineEnded t s.cur o st l → ended s.cur i st l := by
      rintro i st l t hexec ⟨hl, hrt, hop, hrep, hspm, hext, hnib⟩
      rw [hid] at hrep
      exact ⟨t, hexec, hl, hrt, (congrArg t.op? hid).symm.trans hop, hrep, hspm, hext, hnib⟩
    have hended := fun st l => State.endRoutine_ended (h := s.cur) hr ho hid hs st l
    refine ⟨fun hready => ?ret, fun hm hi => ?long, fun hlive hh hlate hp => ?late, fun hlive hh hnot => ?early⟩
    case ret =>
      refine hend _ _ _ _ (exec_rret_of_ready hr hready) ?_
      exact (hended _ _).commitJump (s.endRoutine_cur _ _ _) _ _
    case long =>
      have hexec : exec (.rret m) s = .next (s.trapMe (.rret m) 1 ((Instr.rret m).word.zeroExtend 64)) := run_trap _ s _ _ _ hi (issueTrap_rret_of_long hm)
      rw [State.trapMe_illegal_of_routine ht hc hr] at hexec
      exact hend _ _ _ _ hexec (hended _ _)
    case late =>
      have hexec := exec_routineBudgetExpiry hr hlive hh
      have hstop : s.stopCall s.cur 2 = s.endRoutine s.cur 0xF [2, r64 ((s.me.pc - r.entry).toNat % 2 ^ 32 * 2 ^ 32)] := by
        have hr' : (s.slot s.cur).routine = some r := hr
        simp only [State.stopCall, hr']
        rfl
      rw [if_pos ⟨hlate, hp⟩, hstop] at hexec
      exact hend _ _ _ _ hexec (hended _ _)
    case early =>
      have hexec := exec_routineBudgetExpiry hr hlive hh
      rwa [if_neg (fun h => hnot.elim (fun hlt => by omega) (fun hp => hp h.2))] at hexec

/-- Settles O35: the cases of a call's arrival and of a routine's start, and the one way in which a routine ends. -/
theorem remoteRoutines : Obligations.RemoteRoutines := ⟨remoteRoutineStart, remoteRoutineEnd⟩

end Sys2Proof.Machine
end

section
/-! The matrix shadow and the start of a matrix operation, alone and in a rectangle (O37): what the engine does not take, the operation MXGO
commits, the members of a rectangle and where each finds A and B, and the state once all of them have started. -/

namespace Sys2Proof.Machine

/-! ## Panels after an update -/

@[simp] theorem State.panel_modPanel_self (s : State) (p : Nat) (f : Panel → Panel) : (s.modPanel p f).panel p = f (s.panel p) := by
  simp [State.panel, State.modPanel, Tab.getD, Tab.get?_set_self]

theorem State.panel_modPanel_ne (s : State) (p q : Nat) (f : Panel → Panel) (h : q ≠ p) : (s.modPanel p f).panel q = s.panel q := by
  simp [State.panel, State.modPanel, Tab.getD, Tab.get?_set_ne _ _ _ _ h]

@[simp] theorem State.op?_modPanel (s : State) (p id : Nat) (f : Panel → Panel) : (s.modPanel p f).op? id = s.op? id := rfl

@[simp] theorem State.panel_setOp (s : State) (o : Op) (p : Nat) : (s.setOp o).panel p = s.panel p := rfl

/-- An operation in flight other than the one replaced stays. -/
theorem State.op?_setOp_ne {s : State} {o : Op} {id : Nat} (h : id ≠ o.id) : (s.setOp o).op? id = s.op? id := by
  simp only [State.op?, State.setOp, List.find?_map]
  have hcomp : ((fun x : Op => x.id == id) ∘ fun x : Op => if x.id = o.id then o else x) = fun x : Op => x.id == id := by
    funext x
    by_cases hx : x.id = o.id <;> simp [hx]
  rw [hcomp]
  cases hf : s.ops.find? (fun x => x.id == id) with
  | none => rfl
  | some x =>
    have hx : x.id = id := by simpa using List.find?_some hf
    simp [hx, h]

/-! ## The shadow (R352, R353) -/

theorem bits_lt (w : Reg64) (lo n : Nat) : bits w lo n < 2 ^ n := Nat.mod_lt _ (Nat.two_pow_pos n)

theorem bits_one_eq_beq (w : Reg64) (lo : Nat) : (bits w lo 1 == 1) = false ↔ bits w lo 1 = 0 := by
  have := bits_lt w lo 1
  rw [beq_eq_false_iff_ne]
  omega

/-- The classes of R353 as the statement lists them: formats, largest k and group. -/
def mxClasses : List (List Nat × Nat × Nat) := [([8], 32, 1), ([7], 64, 2), ([5, 6], 128, 4), ([1, 2, 3, 4], 256, 8), ([9], 256, 8)]

/-- The class of a format, read off the table. -/
theorem mxClass_eq_some_iff (a : Nat) (c : MxClass) : mxClass a = some c ↔ (a ∈ [8] ∧ c = ⟨1, 32, 1, .fp64, 64⟩) ∨ (a ∈ [7] ∧ c = ⟨2, 64, 2, .fp32, 256⟩)
    ∨ (a ∈ [5, 6] ∧ c = ⟨3, 128, 4, .fp32, 1024⟩) ∨ (a ∈ [1, 2, 3, 4] ∧ c = ⟨4, 256, 8, .fp32, 4096⟩) ∨ (a ∈ [9] ∧ c = ⟨5, 256, 8, .i32, 4096⟩) := by
  have hrange : (a = 1 ∨ a = 2 ∨ a = 3 ∨ a = 4) ↔ 1 ≤ a ∧ a ≤ 4 := by omega
  simp only [mxClass, List.mem_cons, List.not_mem_nil, or_false, hrange]
  split
  · simp_all [eq_comm]
  · split
    · simp_all [eq_comm]
    · split
      · rcases ‹_ ∨ _› with h | h <;> simp_all [eq_comm]
      · split
        · have : a ≠ 9 := by omega
          simp_all [eq_comm]
        · split <;> simp_all [eq_comm]

/-- Two formats stand in one row of the table where they have one class. -/
theorem mxClass_common_iff (a b : Nat) (f : Nat → Nat → Prop) :
    (∃ c ∈ mxClasses, a ∈ c.1 ∧ b ∈ c.1 ∧ f c.2.1 c.2.2) ↔ ∃ c, mxClass a = some c ∧ mxClass b = some c ∧ f c.kmax c.g := by
  constructor
  · rintro ⟨r, hr, ha, hb, hf⟩
    simp only [mxClasses, List.mem_cons, List.not_mem_nil, or_false] at hr
    simp only [mxClass_eq_some_iff]
    rcases hr with rfl | rfl | rfl | rfl | rfl
    · exact ⟨_, .inl ⟨ha, rfl⟩, .inl ⟨hb, rfl⟩, hf⟩
    · exact ⟨_, .inr (.inl ⟨ha, rfl⟩), .inr (.inl ⟨hb, rfl⟩), hf⟩
    · exact ⟨_, .inr (.inr (.inl ⟨ha, rfl⟩)), .inr (.inr (.inl ⟨hb, rfl⟩)), hf⟩
    · exact ⟨_, .inr (.inr (.inr (.inl ⟨ha, rfl⟩))), .inr (.inr (.inr (.inl ⟨hb, rfl⟩))), hf⟩
    · exact ⟨_, .inr (.inr (.inr (.inr ⟨ha, rfl⟩))), .inr (.inr (.inr (.inr ⟨hb, rfl⟩))), hf⟩
  · rintro ⟨c, ha, hb, hf⟩
    rw [mxClass_eq_some_iff] at ha hb
    simp only [mxClasses, List.exists_mem_cons_iff]
    rcases ha with ⟨ha, rfl⟩ | ⟨ha, rfl⟩ | ⟨ha, rfl⟩ | ⟨ha, rfl⟩ | ⟨ha, rfl⟩ <;> simp at hb
    · exact .inl ⟨ha, by simp [hb], hf⟩
    · exact .inr (.inl ⟨ha, by simp [hb], hf⟩)
    · exact .inr (.inr (.inl ⟨ha, by simp [hb], hf⟩))
    · exact .inr (.inr (.inr (.inl ⟨ha, by simp [hb], hf⟩)))
    · exact .inr (.inr (.inr (.inr (.inl ⟨ha, by simp [hb], hf⟩))))

/-- Class 1 is that of FP64. -/
theorem mxClass_n_eq_one {a : Nat} {c : MxClass} (h : mxClass a = some c) : c.n = 1 ↔ a = 8 := by
  rcases (mxClass_eq_some_iff a c).1 h with ⟨ha, rfl⟩ | ⟨ha, rfl⟩ | ⟨ha, rfl⟩ | ⟨ha, rfl⟩ | ⟨ha, rfl⟩ <;> simp at ha ⊢ <;> omega

/-- The rules of R353 for two formats of class c. -/
theorem mxBad_of_class {w : Reg64} {c : MxClass} (v : Reg64) (ha : mxClass (mxAf w) = some c) (hb : mxClass (mxBf w) = some c) :
    mxBad w v = false ↔ bits w 57 7 = 0 ∧ bits w 46 2 = 0 ∧ bits w 38 2 = 0 ∧ bits w 24 8 = 0 ∧ bits v 16 48 = 0
      ∧ mxK w ≠ 0 ∧ mxK w ≤ c.kmax ∧ mxK w % c.g = 0 ∧ (c.n = 1 → mxTile w % 2 = 0) ∧ mxSparse w ≠ 3
      ∧ (mxSparse w ≠ 0 → mxTa w = false ∧ mxAf w ≠ 3 ∧ mxAf w ≠ 4 ∧ mxRect v = 0) ∧ (mxSparse w = 1 → mxK w % 16 = 0) := by
  simp only [mxBad, ha, hb, Bool.or_eq_false_iff, bne_eq_false_iff_eq, decide_eq_false_iff_not, Nat.not_lt, Bool.and_eq_false_imp, beq_iff_eq, beq_eq_false_iff_ne, bne_iff_ne, ne_eq, true_and, and_assoc, Nat.mod_two_ne_one]

theorem mxBad_of_no_class {w : Reg64} (v : Reg64) (h : ¬ ∃ c, mxClass (mxAf w) = some c ∧ mxClass (mxBf w) = some c) : mxBad w v = true := by
  simp only [mxBad, Bool.or_eq_true]
  right
  cases ha : mxClass (mxAf w) with
  | none => rfl
  | some a =>
    cases hb : mxClass (mxBf w) with
    | none => rfl
    | some b =>
      have hne : a ≠ b := fun hab => h ⟨a, ha, by rw [hb, hab]⟩
      simp [hne]

/-- What the engine takes, field by field (R353). -/
theorem mxBad_eq_false_iff (w v : Reg64) : mxBad w v = false ↔ bits w 57 7 = 0 ∧ bits w 46 2 = 0 ∧ bits w 38 2 = 0 ∧ bits w 24 8 = 0 ∧ bits v 16 48 = 0
    ∧ (∃ c ∈ mxClasses, bits w 12 4 ∈ c.1 ∧ bits w 16 4 ∈ c.1 ∧ 0 < bits w 48 9 ∧ bits w 48 9 ≤ c.2.1 ∧ bits w 48 9 % c.2.2 = 0)
    ∧ (bits w 12 4 = 8 → bits w 8 3 % 2 = 0) ∧ bits w 22 2 ≠ 3 ∧ (bits w 22 2 ≠ 0 → bits w 20 1 = 0 ∧ bits w 12 4 ≠ 3 ∧ bits w 12 4 ≠ 4 ∧ bits v 8 8 = 0)
    ∧ (bits w 22 2 = 1 → bits w 48 9 % 16 = 0) := by
  rw [mxClass_common_iff _ _ (fun kmax g => 0 < bits w 48 9 ∧ bits w 48 9 ≤ kmax ∧ bits w 48 9 % g = 0)]
  by_cases hclass : ∃ c, mxClass (mxAf w) = some c ∧ mxClass (mxBf w) = some c
  · obtain ⟨c, ha, hb⟩ := hclass
    rw [mxBad_of_class v ha hb, mxClass_n_eq_one ha]
    have hcommon : (∃ c, mxClass (bits w 12 4) = some c ∧ mxClass (bits w 16 4) = some c ∧ 0 < bits w 48 9 ∧ bits w 48 9 ≤ c.kmax ∧ bits w 48 9 % c.g = 0)
        ↔ 0 < bits w 48 9 ∧ bits w 48 9 ≤ c.kmax ∧ bits w 48 9 % c.g = 0 := by
      rw [mxAf] at ha
      rw [mxBf] at hb
      simp [ha, hb]
    rw [hcommon, mxTa, bits_one_eq_beq]
    simp only [mxK, mxTile, mxSparse, mxAf, mxRect, and_assoc, Nat.pos_iff_ne_zero]
  · rw [mxBad_of_no_class v hclass]
    exact iff_of_false Bool.noConfusion (fun h => hclass (by
      obtain ⟨_, _, _, _, _, ⟨c, ha, hb, _⟩, _⟩ := h
      exact ⟨c, ha, hb⟩))

/-! ## MXCFG, MXSP and MXGO (R351 to R353) -/

/-- The state in which MXGO has committed its operation. -/
def State.committing (s : State) (t p : Nat) : State :=
  (s.postTo t (.mx p (s.panel p).w0 (s.panel p).w1 (s.panel p).mslot []) (fun q => { q with major := 0x28, sel := 1 })).modPanel p (fun x => { x with committed := some s.nextId })

theorem State.pendOn_frame (s : State) (t id : Nat) : (s.pendOn t id).ops = s.ops ∧ (s.pendOn t id).panels = s.panels ∧ (s.pendOn t id).accMem = s.accMem ∧ (s.pendOn t id).me.win = s.me.win := by
  rw [State.pendOn]
  split
  · exact ⟨rfl, rfl, rfl, rfl⟩
  · exact ⟨rfl, rfl, rfl, by rw [State.me_modMe]⟩

/-- MXGO appends its operation and commits the shadow with it. -/
theorem State.committing_spec (s : State) (t : BitVec 6) (p : Nat) : ∃ o : Op, (s.committing t.toNat p).ops = s.ops ++ [o] ∧ o.id = s.nextId ∧ o.owner = s.cur ∧ o.stage = 0
    ∧ o.kind = .mx p (s.panel p).w0 (s.panel p).w1 (s.panel p).mslot [] ∧ o.off = (if t = 0 then none else some (s.me.gBase + 8 * t.toNat))
    ∧ (s.committing t.toNat p).panel p = { s.panel p with committed := some o.id } ∧ (s.committing t.toNat p).accMem = s.accMem ∧ (s.committing t.toNat p).me.win = s.me.win := by
  obtain ⟨hops, hpanels, hacc, hwin⟩ := State.pendOn_frame (s.post (.mx p (s.panel p).w0 (s.panel p).w1 (s.panel p).mslot [])
    (fun q => { q with off := if t.toNat = 0 then none else some (s.me.gOff t.toNat), major := 0x28, sel := 1 })) t.toNat s.nextId
  refine ⟨_, hops, rfl, rfl, rfl, rfl, ?off, ?panel, hacc, hwin⟩
  case off =>
    by_cases ht : t = 0
    · rw [ht]; rfl
    · rw [if_neg ht]
      exact if_neg (fun h => ht (BitVec.eq_of_toNat_eq h))
  case panel =>
    have hpanel : ∀ u : State, u.panels = s.panels → (u.modPanel p (fun x => { x with committed := some s.nextId })).panel p = { s.panel p with committed := some s.nextId } := by
      intro u hu
      rw [State.panel_modPanel_self, State.panel, hu, State.panel]
    exact hpanel _ hpanels

theorem exec_mxcfg_of_ready {s : State} {f : BitVec 6} (hr : ready (.mxcfg f) s = true) :
    exec (.mxcfg f) s = .next (if mxBad (s.getG f.toNat) (s.getG (f.toNat + 1)) then s.trapMe (.mxcfg f) 1 ((Instr.mxcfg f).word.zeroExtend 64)
      else if (s.panel (panelOf s.cur)).committed.isSome then s.mark .shadow
      else (s.modPanel (panelOf s.cur) (fun x => { x with w0 := s.getG f.toNat, w1 := s.getG (f.toNat + 1) })).commit (.mxcfg f)) := by
  have hexec : exec (.mxcfg f) s = execMxcfg f s := rfl
  rw [hexec, execMxcfg, run_ready _ _ _ hr]
  dsimp only
  split
  · rfl
  · split <;> rfl

theorem exec_mxsp_of_ready {s : State} {n : BitVec 4} (hr : ready (.mxsp n) s = true) :
    exec (.mxsp n) s = .next (if (s.panel (panelOf s.cur)).committed.isSome then s.mark .shadow
      else (s.modPanel (panelOf s.cur) (fun x => { x with mslot := n.toNat })).commit (.mxsp n)) := by
  have hexec : exec (.mxsp n) s = execMxsp n s := rfl
  rw [hexec, execMxsp, run_ready _ _ _ hr]
  dsimp only
  split <;> rfl

theorem exec_mxgo_of_ready {s : State} {t : BitVec 6} (hr : ready (.mxgo t) s = true) :
    exec (.mxgo t) s = .next (if mxBad (s.panel (panelOf s.cur)).w0 (s.panel (panelOf s.cur)).w1 = true
        ∨ (mxRect (s.panel (panelOf s.cur)).w1 ≠ 0 ∧ (s.rectOf (panelOf s.cur) (mxRect (s.panel (panelOf s.cur)).w1)).isNone = true)
      then s.trapMe (.mxgo t) 1 ((Instr.mxgo t).word.zeroExtend 64)
      else if (s.panel (panelOf s.cur)).committed.isSome then s.mark .shadow else (s.committing t.toNat (panelOf s.cur)).commit (.mxgo t)) := by
  have hexec : exec (.mxgo t) s = execMxgo t s := rfl
  rw [hexec, execMxgo, run_ready _ _ _ hr]
  dsimp only
  split
  · rfl
  · split <;> rfl

theorem matrixShadow : Claims.MatrixShadow := by
  intro s
  refine ⟨fun f t n => ⟨fun hr => ⟨fun hbad => ?cfgTraps, fun hbad hc => ?cfgWaits, fun hbad hc => ?cfgWrites⟩, fun hr => ⟨fun hc => ?spWaits, fun hc => ?spWrites⟩,
    fun hr => ⟨fun hbad => ?goTraps, fun hbad hc => ?goWaits, fun hbad hc => ?goCommits⟩⟩, mxBad_eq_false_iff⟩
  case cfgTraps => exact (exec_mxcfg_of_ready hr).trans (congrArg Host.Outcome.next (if_pos hbad))
  case cfgWaits => rw [exec_mxcfg_of_ready hr, if_neg (by rw [hbad]; exact Bool.false_ne_true), if_pos (Option.isSome_iff_ne_none.2 hc)]
  case cfgWrites => rw [exec_mxcfg_of_ready hr, if_neg (by rw [hbad]; exact Bool.false_ne_true), if_neg (by simp [hc])]
  case spWaits => rw [exec_mxsp_of_ready hr, if_pos (Option.isSome_iff_ne_none.2 hc)]
  case spWrites => rw [exec_mxsp_of_ready hr, if_neg (by simp [hc])]
  case goTraps => exact (exec_mxgo_of_ready hr).trans (congrArg Host.Outcome.next (if_pos (by simpa [mxRect] using hbad)))
  case goWaits => rw [exec_mxgo_of_ready hr, if_neg (by simpa [mxRect] using hbad), if_pos (Option.isSome_iff_ne_none.2 hc)]
  case goCommits =>
    obtain ⟨o, ho⟩ := s.committing_spec t (panelOf s.cur)
    exact ⟨_, o, by rw [exec_mxgo_of_ready hr, if_neg (by simpa [mxRect] using hbad), if_neg (by simp [hc])], ho⟩

/-! ## The committed operation of a panel, and what it starts with (R351, R357) -/

theorem State.committedOp_of_kind {s : State} {p q id : Nat} {o : Op} {w v : Reg64} {ms : Nat} {l : List Nat} (hc : (s.panel p).committed = some id) (ho : s.op? id = some o)
    (hk : o.kind = .mx q w v ms l) : s.committedOp p = some (o, w, v, ms) := by
  simp [State.committedOp, hc, ho, hk]

/-- A committed operation is in flight, a matrix operation, under the panel's identity of it. -/
theorem State.committed_of_committedOp {s : State} {p : Nat} {o : Op} {w v : Reg64} {ms : Nat} (h : s.committedOp p = some (o, w, v, ms)) :
    (s.panel p).committed = some o.id ∧ s.op? o.id = some o ∧ ∃ q l, o.kind = .mx q w v ms l := by
  unfold State.committedOp at h
  split at h
  · next o' hbind =>
    obtain ⟨id, hid, ho⟩ := Option.bind_eq_some_iff.1 hbind
    have hoid : o'.id = id := by simpa using List.find?_some ho
    split at h
    · next q w' v' ms' l hk =>
      obtain ⟨rfl, rfl, rfl, rfl⟩ : o' = o ∧ w' = w ∧ v' = v ∧ ms' = ms := by simpa using h
      exact ⟨by rw [hoid, hid], by rw [hoid, ho], q, l, hk⟩
    · exact absurd h (by simp)
  · exact absurd h (by simp)

theorem State.committedOp_congr {s t : State} {p : Nat} (hc : (t.panel p).committed = (s.panel p).committed) (ho : ∀ id, (s.panel p).committed = some id → t.op? id = s.op? id) :
    t.committedOp p = s.committedOp p := by
  have hbind : (t.panel p).committed.bind t.op? = (s.panel p).committed.bind s.op? := by
    rw [hc]
    cases hid : (s.panel p).committed with
    | none => rfl
    | some id => exact ho id hid
  unfold State.committedOp
  rw [hbind]

/-- The clk that an operation whose formats are dense takes (R358). -/
def mxDense (a : Nat) : Nat := if a = 8 then 2048 else if a = 7 then 1024 else if a = 5 ∨ a = 6 then 512 else 256

theorem mxDense_eq {a : Nat} {c : MxClass} (h : mxClass a = some c) : 64 * 64 * c.kmax / c.rate = mxDense a := by
  rcases (mxClass_eq_some_iff a c).1 h with ⟨ha, rfl⟩ | ⟨ha, rfl⟩ | ⟨ha, rfl⟩ | ⟨ha, rfl⟩ | ⟨ha, rfl⟩ <;> simp at ha
  · rw [ha]; rfl
  · rw [ha]; rfl
  · rcases ha with rfl | rfl <;> rfl
  · rcases ha with rfl | rfl | rfl | rfl <;> rfl
  · rw [ha]; rfl

theorem exists_mxClass_of_not_bad {w v : Reg64} (h : mxBad w v = false) : ∃ c, mxClass (mxAf w) = some c ∧ mxClass (mxBf w) = some c := by
  by_contra hc
  rw [mxBad_of_no_class v hc] at h
  exact Bool.noConfusion h

/-! ## One member starts -/

/-- What a start makes of a panel, its committed operation o. -/
def Panel.started (x : Panel) (o : Op) (v : Reg64) : Panel :=
  { x with committed := none, running := some o.id, sems := if bits v 3 1 = 1 then Tab.set x.sems (bits v 0 3) (x.sem (bits v 0 3) - 1) else x.sems }

theorem Panel.sem_started (x : Panel) (o : Op) (v : Reg64) (k : Nat) : (x.started o v).sem k = if bits v 3 1 = 1 ∧ k = bits v 0 3 then x.sem k - 1 else x.sem k := by
  by_cases hb : bits v 3 1 = 1
  · by_cases hk : k = bits v 0 3
    · subst hk
      simp [Panel.started, Panel.sem, hb, Tab.getD, Tab.get?_set_self]
    · simp [Panel.started, Panel.sem, hb, hk, Tab.getD, Tab.get?_set_ne _ _ _ _ hk]
  · simp [Panel.started, Panel.sem, hb]

/-- Panel p has started, in t, the operation it had committed in s, with the error code and the slots it reads. -/
def State.MxStarted (s t : State) (p code : Nat) (reads : List Nat) : Prop :=
  ∀ o w v ms, s.committedOp p = some (o, w, v, ms) → t.panel p = (s.panel p).started o v
    ∧ ∃ e : Op, t.op? o.id = some e ∧ e.stage = 1 ∧ e.kind = .mx p w v ms reads ∧ e.due = s.clk + s.mxTime p w v ms ∧ (code ≠ 0 → e.status = code)

/-- A start keeps memories, harts, clusters and the clock. -/
def State.SameBut (s t : State) : Prop := t.accMem = s.accMem ∧ t.opMem = s.opMem ∧ t.harts = s.harts ∧ t.clusters = s.clusters ∧ t.clk = s.clk

theorem State.mxStart_eq {s : State} {p : Nat} {o : Op} {w v : Reg64} {ms : Nat} (h : s.committedOp p = some (o, w, v, ms)) (code : Nat) (reads : List Nat) :
    s.mxStart p code reads = (s.setOp { o with stage := 1, status := if code = 0 then s.tileCode p w ms else code, due := s.clk + s.mxTime p w v ms, kind := .mx p w v ms reads }).modPanel p
      (fun x => x.started o v) := by
  rw [State.mxStart, h]
  rfl

theorem State.mxStart_spec (s : State) (p code : Nat) (reads : List Nat) : s.MxStarted (s.mxStart p code reads) p code reads ∧ s.SameBut (s.mxStart p code reads)
    ∧ (∀ q, q ≠ p → (s.mxStart p code reads).panel q = s.panel q) ∧ ∀ id, (s.panel p).committed ≠ some id → (s.mxStart p code reads).op? id = s.op? id := by
  cases h : s.committedOp p with
  | none =>
    have he : s.mxStart p code reads = s := by rw [State.mxStart, h]
    rw [he]
    exact ⟨fun o w v ms hs => absurd (h.symm.trans hs) (by simp), ⟨rfl, rfl, rfl, rfl, rfl⟩, fun _ _ => rfl, fun _ _ => rfl⟩
  | some r =>
    obtain ⟨o, w, v, ms⟩ := r
    obtain ⟨hid, ho, -⟩ := s.committed_of_committedOp h
    rw [s.mxStart_eq h]
    refine ⟨?started, ⟨rfl, rfl, rfl, rfl, rfl⟩, fun q hq => State.panel_modPanel_ne _ _ _ _ hq, fun id hne => ?_⟩
    case started =>
      intro o' w' v' ms' h'
      obtain ⟨rfl, rfl, rfl, rfl⟩ : o = o' ∧ w = w' ∧ v = v' ∧ ms = ms' := by simpa [h] using h'
      refine ⟨State.panel_modPanel_self .., _, (State.op?_modPanel ..).trans (State.op?_setOp_self ho), rfl, rfl, rfl, fun hc => if_neg hc⟩
    · rw [State.op?_modPanel]
      exact State.op?_setOp_ne (fun he => hne (by rw [hid, he]))

theorem State.mxTime_congr {s t : State} (h : s.SameBut t) (p : Nat) (w v : Reg64) (ms : Nat) : t.mxTime p w v ms = s.mxTime p w v ms := by
  obtain ⟨_, hop, _, hcl, _⟩ := h
  have hrect : ∀ id, t.rectOf p id = s.rectOf p id := by
    intro id
    simp only [State.rectOf, State.cluster, hcl]
  unfold State.mxTime
  rw [hop, hrect]

/-- Several panels start, one after the other. -/
theorem State.foldl_mxStart (code : Nat) (reads : Nat → List Nat) : ∀ (l : List Nat) (s : State), l.Nodup →
    (∀ q ∈ l, ∀ q' ∈ l, ∀ id, (s.panel q).committed = some id → (s.panel q').committed = some id → q = q') →
    (∀ q ∈ l, s.MxStarted (l.foldl (fun u q => u.mxStart q code (reads q)) s) q code (reads q)) ∧ s.SameBut (l.foldl (fun u q => u.mxStart q code (reads q)) s)
      ∧ (∀ q ∉ l, (l.foldl (fun u q => u.mxStart q code (reads q)) s).panel q = s.panel q)
      ∧ ∀ id, (∀ q ∈ l, (s.panel q).committed ≠ some id) → (l.foldl (fun u q => u.mxStart q code (reads q)) s).op? id = s.op? id := by
  intro l
  induction l with
  | nil => exact fun s _ _ => ⟨fun q hq => absurd hq List.not_mem_nil, ⟨rfl, rfl, rfl, rfl, rfl⟩, fun _ _ => rfl, fun _ _ => rfl⟩
  | cons p l ih =>
    intro s hn hid
    obtain ⟨hp, hnl⟩ := List.nodup_cons.1 hn
    obtain ⟨hst, hsame, hpan, hops⟩ := s.mxStart_spec p code (reads p)
    rw [List.foldl_cons]
    generalize hu : s.mxStart p code (reads p) = u at hst hsame hpan hops ⊢
    have hne : ∀ q ∈ l, q ≠ p := fun q hq he => hp (he ▸ hq)
    obtain ⟨ihst, ihsame, ihpan, ihops⟩ := ih u hnl (by
      intro q hq q' hq' id h h'
      rw [hpan q (hne q hq)] at h
      rw [hpan q' (hne q' hq')] at h'
      exact hid q (List.mem_cons_of_mem _ hq) q' (List.mem_cons_of_mem _ hq') id h h')
    have hcomm : ∀ q ∈ l, u.committedOp q = s.committedOp q := fun q hq => State.committedOp_congr (by rw [hpan q (hne q hq)])
      (fun id h => hops id (fun h' => hne q hq (hid q (List.mem_cons_of_mem _ hq) p List.mem_cons_self id h h')))
    have hsame' : s.SameBut (l.foldl (fun u q => u.mxStart q code (reads q)) u) := by
      obtain ⟨a, b, c, d, e⟩ := hsame
      obtain ⟨a', b', c', d', e'⟩ := ihsame
      exact ⟨a'.trans a, b'.trans b, c'.trans c, d'.trans d, e'.trans e⟩
    refine ⟨?started, hsame', ?panels, ?ops⟩
    case started =>
      intro q hq
      rcases List.mem_cons.1 hq with rfl | hq
      · intro o w v ms h
        obtain ⟨hpanel, e, he, hrest⟩ := hst o w v ms h
        refine ⟨(ihpan q hp).trans hpanel, e, (ihops o.id (fun q' hq' h' => ?_)).trans he, hrest⟩
        rw [hpan q' (hne q' hq')] at h'
        exact hne q' hq' (hid q' (List.mem_cons_of_mem _ hq') q List.mem_cons_self o.id h' (s.committed_of_committedOp h).1)
      · intro o w v ms h
        obtain ⟨hpanel, e, he, h1, h2, h3, h4⟩ := ihst q hq o w v ms ((hcomm q hq).trans h)
        exact ⟨by rw [hpanel, hpan q (hne q hq)], e, he, h1, h2, by rw [h3, State.mxTime_congr hsame, hsame.2.2.2.2], h4⟩
    case panels =>
      intro q hq
      rw [ihpan q (fun h => hq (List.mem_cons_of_mem _ h)), hpan q (fun h => hq (h ▸ List.mem_cons_self))]
    case ops =>
      intro id h
      rw [ihops id (fun q hq => by rw [hpan q (hne q hq)]; exact h q (List.mem_cons_of_mem _ hq)), hops id (h p List.mem_cons_self)]

/-! ## The start event (R24, R351, R362, R363) -/

/-- Panel q has committed an operation of the rectangle that w1 names. -/
def State.startsWith (s : State) (w1 : Reg64) (q : Nat) : Bool := match s.committedOp q with | some (_, _, v, _) => mxRect v == mxRect w1 | none => false

/-- A sub-array that the operation of panel q needs is gated. -/
def State.asleep (s : State) (q : Nat) : Bool := match s.committedOp q with | some (_, v, v1, _) => (mxSubs v v1).any (fun i => !(s.panel q).awake.contains i) | none => false

def State.wakePanel (s : State) (q : Nat) : State := s.modPanel q (fun x => if x.waking.isNone then { x with waking := some (s.clk + 288) } else x)

def State.agreesWith (s : State) (w : Reg64) (q : Nat) : Bool := match s.committedOp q with | some (_, v, _, _) => mxShared v == mxShared w | none => false

/-- The error of the operands of panel q's operation. -/
def State.memberCode (s : State) (q : Nat) : Nat := match s.committedOp q with | some (_, v, v1, m) => s.operandCode q v v1 m | none => 0

/-- The slots that panel q's operation reads. -/
def State.memberReads (s : State) (q : Nat) : List Nat := match s.committedOp q with
  | some (_, v, v1, m) => [16 * (s.mxSources q v v1).1.1 + (s.mxSources q v v1).1.2, 16 * (s.mxSources q v v1).2.1 + (s.mxSources q v v1).2.2] ++ (if mxSparse v ≠ 0 then [16 * q + m] else [])
  | none => []

/-- The worse of a code and that of panel q's operands. -/
def State.worseOf (s : State) (c q : Nat) : Nat := match s.committedOp q with | some (_, v, v1, m) => worse c (s.operandCode q v v1 m) | none => c

/-- The error found for the whole of the members (R351, R362). -/
def State.startCode (s : State) (w : Reg64) (l : List Nat) : Nat := if ¬ l.all (s.agreesWith w) then 6 else l.foldl s.worseOf 0

theorem worse_zero_right (c : Nat) : worse c 0 = c := by
  by_cases h : c = 0 <;> simp [worse, h]

theorem worse_one_right (c : Nat) : worse c 1 = 1 := by
  by_cases h : c = 0
  · simp [worse, h]
  · simp [worse, h]
    omega

theorem worse_one_left (c : Nat) : worse 1 c = 1 := by
  by_cases h : c = 0
  · simp [worse, h]
  · simp [worse, h]
    omega

theorem State.worseOf_eq (s : State) : s.worseOf = fun c q => worse c (s.memberCode q) := by
  funext c q
  rw [State.worseOf, State.memberCode]
  cases s.committedOp q with
  | none => exact (worse_zero_right c).symm
  | some r => rfl

/-- An unclaimed slot stands before every other error of the operands (log 42). -/
theorem foldl_worse_eq_one (f : Nat → Nat) (l : List Nat) (c : Nat) (h : c = 1 ∨ ∃ q ∈ l, f q = 1) : l.foldl (fun c q => worse c (f q)) c = 1 := by
  induction l generalizing c with
  | nil => simpa using h
  | cons q l ih =>
    rw [List.foldl_cons]
    rcases h with rfl | ⟨q', hq', hf⟩
    · exact ih _ (.inl (worse_one_left _))
    · rcases List.mem_cons.1 hq' with rfl | hq'
      · exact ih _ (.inl (by rw [hf, worse_one_right]))
      · exact ih _ (.inr ⟨q', hq', hf⟩)

theorem State.startCode_eq_one {s : State} {w : Reg64} {l : List Nat} (ha : l.all (s.agreesWith w) = true) (h : ∃ q ∈ l, s.memberCode q = 1) : s.startCode w l = 1 := by
  rw [State.startCode, if_neg (by simp [ha]), State.worseOf_eq, foldl_worse_eq_one _ _ _ (.inr h)]

/-- What the start event does for the members of a committed operation. -/
theorem exec_mxOperationStart {s : State} {cl n : Nat} {o : Op} {w v : Reg64} {ms : Nat} (h : s.committedOp (cl * 32 + n) = some (o, w, v, ms)) :
    exec (.mxOperationStart cl n) s = .next (
      if 32 ≤ n ∨ ¬ (s.mxMembers (cl * 32 + n)).all (s.startsWith v) ∨ ¬ (s.mxMembers (cl * 32 + n)).all s.mxReady ∨ s.throttled ((cl * 32 + n) * 8) then s
      else if (s.mxMembers (cl * 32 + n)).filter s.asleep ≠ [] then ((s.mxMembers (cl * 32 + n)).filter s.asleep).foldl State.wakePanel s
      else (s.mxMembers (cl * 32 + n)).foldl (fun t q => t.mxStart q (s.startCode w (s.mxMembers (cl * 32 + n))) (s.memberReads q)) s) := by
  have hexec : exec (.mxOperationStart cl n) s = execMxOperationStart cl n s := rfl
  rw [hexec, execMxOperationStart, h]
  dsimp only
  rw [List.foldl_map]
  rfl

/-! ## An operation outside rectangles (R351, R357, R358, R363) -/

section Alone
variable {s : State} {p : Nat} {o : Op} {w v : Reg64} {ms : Nat} (h : s.committedOp p = some (o, w, v, ms)) (hrect : bits v 8 8 = 0)
include h hrect

theorem State.mxMembers_alone : s.mxMembers p = [p] := by
  simp [State.mxMembers, h, mxRect, hrect]

omit h in
theorem State.mxSources_alone : s.mxSources p w v = ((p, mxAs w), (p, mxBs w)) := by
  simp [State.mxSources, mxRect, hrect]

/-- The slots that an operation alone reads. -/
def slotsOf (p : Nat) (w : Reg64) (ms : Nat) : List Nat := [16 * p + bits w 0 4, 16 * p + bits w 4 4] ++ (if bits w 22 2 ≠ 0 then [16 * p + ms] else [])

theorem State.memberReads_alone : s.memberReads p = slotsOf p w ms := by
  simp only [State.memberReads, h, State.mxSources_alone hrect]
  rfl

end Alone

/-- An OFILL in flight into slot k of panel p. -/
theorem State.filling_eq_false_iff (s : State) (p k : Nat) : s.filling (p, k) = false ↔ ∀ e ∈ s.ops, ∀ c a, e.kind = .ofill p c a → bits c 0 4 ≠ k := by
  rw [State.filling, List.any_eq_false]
  constructor
  · intro h e he c a hk hck
    have := h e he
    simp [hk, hck] at this
  · intro h e he
    split
    · next q c a hk =>
      by_cases hq : q = p
      · subst hq
        simpa using h e he c a hk
      · simp [hq]
    · exact Bool.false_ne_true

theorem not_mem_slotsOf (p x : Nat) (w : Reg64) (ms : Nat) : 16 * p + x ∉ slotsOf p w ms ↔ x ≠ bits w 0 4 ∧ x ≠ bits w 4 4 ∧ (bits w 22 2 ≠ 0 → x ≠ ms) := by
  by_cases hs : bits w 22 2 = 0 <;> simp [slotsOf, hs]

theorem State.mxReady_alone {s : State} {p : Nat} {o : Op} {w v : Reg64} {ms : Nat} (h : s.committedOp p = some (o, w, v, ms)) (hrect : bits v 8 8 = 0) :
    s.mxReady p = true ↔ (s.panel p).running = none ∧ (bits v 3 1 = 1 → 0 < (s.panel p).sem (bits v 0 3)) ∧ ∀ e ∈ s.ops, ∀ c a, e.kind = .ofill p c a → 16 * p + bits c 0 4 ∉ slotsOf p w ms := by
  have hsem : (bits v 3 1 = 0 ∨ 0 < (s.panel p).sem (bits v 0 3)) ↔ (bits v 3 1 = 1 → 0 < (s.panel p).sem (bits v 0 3)) := by
    have := bits_lt v 3 1
    constructor
    · rintro (h | h) h'
      · omega
      · exact h
    · intro h
      by_cases h0 : bits v 3 1 = 0
      · exact .inl h0
      · exact .inr (h (by omega))
  have hfill : (∀ e ∈ s.ops, ∀ c a, e.kind = .ofill p c a → 16 * p + bits c 0 4 ∉ slotsOf p w ms)
      ↔ s.filling (p, bits w 0 4) = false ∧ s.filling (p, bits w 4 4) = false ∧ (bits w 22 2 = 0 ∨ s.filling (p, ms) = false) := by
    simp only [State.filling_eq_false_iff, not_mem_slotsOf]
    constructor
    · intro hno
      refine ⟨fun e he c a hk => (hno e he c a hk).1, fun e he c a hk => (hno e he c a hk).2.1, ?_⟩
      exact or_iff_not_imp_left.2 (fun hs e he c a hk => (hno e he c a hk).2.2 hs)
    · rintro ⟨ha, hb, hm⟩ e he c a hk
      exact ⟨ha e he c a hk, hb e he c a hk, fun hs => hm.resolve_left hs e he c a hk⟩
  simp only [hfill, State.mxReady, h, State.mxSources_alone hrect, Bool.and_eq_true, Bool.or_eq_true, Option.isNone_iff_eq_none, Bool.not_eq_true', beq_iff_eq, decide_eq_true_eq, hsem, mxSparse, mxAs, mxBs, and_assoc]

theorem mem_mxSubs_alone {v : Reg64} (hrect : bits v 8 8 = 0) (w : Reg64) (k : Nat) : k ∈ mxSubs w v ↔ 16 * k < bits w 32 6 + 1 := by
  rw [mxSubs, mxRect, hrect, if_neg (by simp), List.mem_range, mxM]
  omega

theorem State.asleep_alone {s : State} {p : Nat} {o : Op} {w v : Reg64} {ms : Nat} (h : s.committedOp p = some (o, w, v, ms)) (hrect : bits v 8 8 = 0) :
    s.asleep p = false ↔ ∀ k, 16 * k < bits w 32 6 + 1 → (s.panel p).awake.contains k = true := by
  simp only [State.asleep, h, List.any_eq_false, mem_mxSubs_alone hrect, Bool.not_eq_true', Bool.not_eq_false]

theorem Panel.waking_getD (x : Panel) (t : Nat) : (if x.waking.isNone then { x with waking := some t } else x) = { x with waking := some (x.waking.getD t) } := by
  cases hx : x.waking with
  | none => simp
  | some d =>
    rw [Option.isNone_some, if_neg Bool.false_ne_true, Option.getD_some, ← hx]

/-- The start event for a panel outside rectangles. -/
theorem exec_mxOperationStart_alone {s : State} {cl n : Nat} {o : Op} {w v : Reg64} {ms : Nat} (hn : n < 32) (h : s.committedOp (cl * 32 + n) = some (o, w, v, ms)) (hrect : bits v 8 8 = 0) :
    exec (.mxOperationStart cl n) s = .next (
      if ¬ (s.mxReady (cl * 32 + n) = true ∧ s.throttled ((cl * 32 + n) * 8) = false) then s
      else if s.asleep (cl * 32 + n) = true then s.wakePanel (cl * 32 + n)
      else s.mxStart (cl * 32 + n) (s.memberCode (cl * 32 + n)) (slotsOf (cl * 32 + n) w ms)) := by
  have hstarts : s.startsWith v (cl * 32 + n) = true := by simp [State.startsWith, h]
  have hagree : s.agreesWith w (cl * 32 + n) = true := by simp [State.agreesWith, h]
  have hcode : s.startCode w [cl * 32 + n] = s.memberCode (cl * 32 + n) := by
    rw [State.startCode, if_neg (by simp [hagree]), State.worseOf_eq, List.foldl_cons, List.foldl_nil, worse, if_pos rfl]
  rw [exec_mxOperationStart h, State.mxMembers_alone h hrect, hcode]
  refine congrArg Host.Outcome.next ?_
  by_cases hgo : s.mxReady (cl * 32 + n) = true ∧ s.throttled ((cl * 32 + n) * 8) = false
  · rw [if_neg (not_not_intro hgo)]
    obtain ⟨hready, hthr⟩ := hgo
    refine (if_neg (by simp [hstarts, hready, hthr, hn])).trans ?_
    cases hasleep : s.asleep (cl * 32 + n) with
    | false => simp [hasleep, State.memberReads_alone h hrect]
    | true => simp [hasleep]
  · rw [if_pos hgo]
    refine if_pos ?_
    simpa [hstarts, hn, or_iff_not_imp_left] using hgo

theorem State.slotCode_of_unclaimed {s : State} {q : Nat × Nat} (h : ((s.panel q.1).slot q.2).claim = none) (fmt l : Nat) : s.slotCode q fmt l = 1 := by
  simp [State.slotCode, OperandSlot.claimed, h]

/-- An unclaimed operand slot gives code 1. -/
theorem State.operandCode_of_unclaimed {s : State} {p : Nat} {w v : Reg64} {ms : Nat} {c : MxClass} (hclass : mxClass (mxAf w) = some c)
    (h : ((s.panel (s.mxSources p w v).1.1).slot (s.mxSources p w v).1.2).claim = none ∨ ((s.panel (s.mxSources p w v).2.1).slot (s.mxSources p w v).2.2).claim = none
      ∨ (mxSparse w ≠ 0 ∧ ((s.panel p).slot ms).claim = none)) : s.operandCode p w v ms = 1 := by
  simp only [State.operandCode, hclass]
  rcases h with h | h | ⟨hs, h⟩
  · rw [State.slotCode_of_unclaimed h, worse_one_left, worse_one_right]
  · rw [State.slotCode_of_unclaimed h, worse_one_right, worse_one_right]
  · rw [if_pos ⟨hs, by simp [OperandSlot.claimed, h]⟩, worse_one_left]

theorem State.mxTime_dense {s : State} {p : Nat} {w v : Reg64} {ms : Nat} {c : MxClass} (hclass : mxClass (mxAf w) = some c) (hs : mxSparse w = 0) :
    s.mxTime p w v ms = mxDense (bits w 12 4) + (match (if mxRect v = 0 then none else s.rectOf p (mxRect v)) with | some r => 16 * (r.2.2.2.1 + r.2.2.2.2 - 2) | none => 0) := by
  simp only [State.mxTime, hclass, hs, mxDense_eq hclass, if_true]
  rfl

/-! ## Sub-arrays wake and are gated (R363) -/

/-- The sub-arrays that the committed operation of a panel needs. -/
def State.neededSubs (s : State) (p : Nat) : List Nat := match s.committedOp p with | some (_, w, w1, _) => mxSubs w w1 | none => []

theorem exec_subarrayWake {s : State} {cl n d : Nat} (hd : (s.panel (cl * 32 + n)).waking = some d) :
    exec (.subarrayWake cl n) s = .next (if s.clk < d then s else s.modPanel (cl * 32 + n) (fun x => { x with waking := none, awake := (List.range 4).filter (fun i => x.awake.contains i || (s.neededSubs (cl * 32 + n)).contains i), idle := (s.neededSubs (cl * 32 + n)).foldl (fun t i => Tab.set t i s.clk) x.idle })) := by
  have hexec : exec (.subarrayWake cl n) s = execSubarrayWake cl n s := rfl
  rw [hexec, execSubarrayWake, hd]
  rfl

theorem matrixStart_of_committed {s : State} {cl n : Nat} {o : Op} {w v : Reg64} {ms : Nat} (hn : n < 32) (h : s.committedOp (cl * 32 + n) = some (o, w, v, ms)) (hrect : bits v 8 8 = 0) :
    let p := cl * 32 + n
    let x := s.panel p
    let holds := s.throttled (p * 8) = false ∧ x.running = none ∧ (bits v 3 1 = 1 → 0 < x.sem (bits v 0 3)) ∧ (∀ e ∈ s.ops, ∀ c a, e.kind = .ofill p c a → 16 * p + bits c 0 4 ∉ slotsOf p w ms)
    let awake := ∀ k, 16 * k < bits w 32 6 + 1 → x.awake.contains k = true
    (¬ holds → exec (.mxOperationStart cl n) s = .next s)
    ∧ (holds → ¬ awake → ∃ t : State, exec (.mxOperationStart cl n) s = .next t ∧ t.panel p = { x with waking := some (x.waking.getD (s.clk + 288)) } ∧ t.ops = s.ops ∧ t.harts = s.harts)
    ∧ (holds → awake → exec (.mxOperationStart cl n) s = .next (s.mxStart p (s.memberCode p) (slotsOf p w ms))) := by
  dsimp only
  have hready := State.mxReady_alone h hrect
  have hsleep := State.asleep_alone h hrect
  rw [exec_mxOperationStart_alone hn h hrect]
  refine ⟨fun hno => ?_, fun ⟨hthr, hgo⟩ hawake => ?_, fun ⟨hthr, hgo⟩ hawake => ?_⟩
  · rw [if_pos (fun hr => hno ⟨hr.2, hready.1 hr.1⟩)]
  · rw [if_neg (not_not_intro ⟨hready.2 hgo, hthr⟩), if_pos (by simpa using fun hf => hawake (hsleep.1 hf))]
    exact ⟨_, rfl, by rw [State.wakePanel, State.panel_modPanel_self, Panel.waking_getD], rfl, rfl⟩
  · rw [if_neg (not_not_intro ⟨hready.2 hgo, hthr⟩), if_neg (by simpa using hsleep.2 hawake)]

theorem matrixStart_started {s : State} {p : Nat} {o : Op} {w v : Reg64} {ms : Nat} (hms : ms < 16) (h : s.committedOp p = some (o, w, v, ms)) (hbad : mxBad w v = false) (hrect : bits v 8 8 = 0) :
    let t := s.mxStart p (s.memberCode p) (slotsOf p w ms)
    (t.panel p).committed = none ∧ (t.panel p).running = some o.id ∧ t.accMem = s.accMem ∧ t.harts = s.harts
      ∧ (∀ k, (t.panel p).sem k = if bits v 3 1 = 1 ∧ k = bits v 0 3 then (s.panel p).sem k - 1 else (s.panel p).sem k)
      ∧ ∃ e : Op, t.op? o.id = some e ∧ e.stage = 1 ∧ e.kind = .mx p w v ms (slotsOf p w ms) ∧ (bits w 22 2 = 0 → e.due = s.clk + mxDense (bits w 12 4))
        ∧ ((∃ k ∈ slotsOf p w ms, ((s.panel p).slot (k % 16)).claim = none) → e.status = 1) := by
  dsimp only
  obtain ⟨c, hclass, -⟩ := exists_mxClass_of_not_bad hbad
  obtain ⟨hst, ⟨hacc, _, hharts, _⟩, -⟩ := s.mxStart_spec p (s.memberCode p) (slotsOf p w ms)
  obtain ⟨hpanel, e, he, hstage, hkind, hdue, hstatus⟩ := hst o w v ms h
  rw [hpanel]
  refine ⟨rfl, rfl, hacc, hharts, fun k => Panel.sem_started .., e, he, hstage, hkind, fun hs => ?due, fun ⟨k, hk, hunclaimed⟩ => ?code⟩
  case due =>
    rw [hdue, State.mxTime_dense hclass hs, mxRect, hrect]
    rfl
  case code =>
    have hone : s.memberCode p = 1 := by
      simp only [State.memberCode, h]
      refine State.operandCode_of_unclaimed hclass ?_
      rw [State.mxSources_alone hrect]
      have ha : bits w 0 4 < 16 := bits_lt w 0 4
      have hb : bits w 4 4 < 16 := bits_lt w 4 4
      rcases List.mem_append.1 hk with hk | hk
      · rcases List.mem_cons.1 hk with rfl | hk
        · rw [Nat.mul_add_mod, Nat.mod_eq_of_lt ha] at hunclaimed
          exact .inl hunclaimed
        · rw [List.mem_singleton.1 hk, Nat.mul_add_mod, Nat.mod_eq_of_lt hb] at hunclaimed
          exact .inr (.inl hunclaimed)
      · by_cases hs : bits w 22 2 = 0
        · simp [hs] at hk
        · rw [if_pos hs] at hk
          rw [List.mem_singleton.1 hk, Nat.mul_add_mod, Nat.mod_eq_of_lt hms] at hunclaimed
          exact .inr (.inr ⟨hs, hunclaimed⟩)
    rw [hstatus (by rw [hone]; exact Nat.one_ne_zero), hone]

theorem exec_subarrayGating {s : State} {cl n k : Nat} (hk : k ∈ (s.panel (cl * 32 + n)).awake) (hr : (s.panel (cl * 32 + n)).running = none) :
    exec (.subarrayGating cl n k) s = .next (if (s.panel (cl * 32 + n)).gateIdle = 0 ∨ s.clk < Tab.getD (s.panel (cl * 32 + n)).idle k 0 + (s.panel (cl * 32 + n)).gateIdle then s
      else s.modPanel (cl * 32 + n) (fun y => { y with awake := y.awake.filter (fun j => j != k) })) := by
  have hexec : exec (.subarrayGating cl n k) s = execSubarrayGating cl n k s := rfl
  have hin : (s.panel (cl * 32 + n)).awake.contains k = true := List.contains_iff_mem.2 hk
  rw [hexec, execSubarrayGating]
  simp only [hr, hin, Option.bind_none, not_true_eq_false, Bool.false_eq_true, false_or]

theorem matrixStartAlone : Claims.MatrixStart := by
  intro s cl n id o w v ms l hn hms
  refine ⟨fun hc ho hid hk hbad hrect => ?start, fun d hd => ?wake, fun k hk hr => ⟨fun h0 hlate => ?gated, fun hno => ?stays⟩⟩
  case start =>
    have h := State.committedOp_of_kind hc ho hk
    obtain ⟨hstays, hwakes, hstarts⟩ := matrixStart_of_committed hn h hrect
    exact ⟨hstays, hwakes, fun hgo hawake => ⟨_, hstarts hgo hawake, hid ▸ matrixStart_started hms h hbad hrect⟩⟩
  case wake =>
    rw [exec_subarrayWake hd]
    refine ⟨fun hlt => by rw [if_pos hlt], fun hle => ?_⟩
    rw [if_neg (by omega)]
    refine ⟨_, rfl, ?_, fun k hk h4 => ?_, rfl, rfl, fun h hrect k hk => ?_⟩
    · rw [State.panel_modPanel_self]
    · rw [State.panel_modPanel_self]
      exact List.mem_filter.2 ⟨List.mem_range.2 h4, by simp [hk]⟩
    · rw [State.panel_modPanel_self]
      have h4 : k < 4 := by
        have := bits_lt w 32 6
        omega
      refine List.mem_filter.2 ⟨List.mem_range.2 h4, ?_⟩
      simp [State.neededSubs, h, (mem_mxSubs_alone hrect w k).2 hk]
  case gated => rw [exec_subarrayGating hk hr, if_neg (by omega)]
  case stays => rw [exec_subarrayGating hk hr, if_pos hno]

/-! ## Rectangles (R361, R362) -/

/-- The panels of a rectangle by their places. -/
def memberAt (cl r0 c0 i j : Nat) : Nat := cl * 32 + (r0 + i) * 8 + c0 + j

section Rectangle
variable {cl uid r0 c0 a b : Nat} (hr : r0 + a ≤ 4) (hc : c0 + b ≤ 8)

theorem mem_rectMembers (m : Nat × Nat × Nat) : m ∈ rectMembers cl (uid, r0, c0, a, b) ↔ m.2.1 < a ∧ m.2.2 < b ∧ m.1 = memberAt cl r0 c0 m.2.1 m.2.2 := by
  obtain ⟨q, i, j⟩ := m
  simp only [rectMembers, List.mem_flatMap, List.mem_map, List.mem_range, Prod.mk.injEq, memberAt]
  constructor
  · rintro ⟨i', hi, j', hj, rfl, rfl, rfl⟩
    exact ⟨hi, hj, rfl⟩
  · rintro ⟨hi, hj, rfl⟩
    exact ⟨i, hi, j, hj, rfl, rfl, rfl⟩

include hc in
theorem memberAt_inj {i j i' j' : Nat} (hj : j < b) (hj' : j' < b) (h : memberAt cl r0 c0 i j = memberAt cl r0 c0 i' j') : i = i' ∧ j = j' := by
  simp only [memberAt] at h
  omega

include hr hc in
theorem memberAt_div {i j : Nat} (hi : i < a) (hj : j < b) : memberAt cl r0 c0 i j / 32 = cl := by
  simp only [memberAt]
  omega

include hc in
theorem nodup_rectMembers : ((rectMembers cl (uid, r0, c0, a, b)).map (fun m => m.1)).Nodup := by
  have hmap : (rectMembers cl (uid, r0, c0, a, b)).map (fun m => m.1) = (List.range a ×ˢ List.range b).map (fun e => memberAt cl r0 c0 e.1 e.2) := by
    simp only [rectMembers, SProd.sprod, List.product, List.map_flatMap, List.map_map, memberAt]
    rfl
  rw [hmap]
  refine List.Nodup.map_on ?_ (List.nodup_range.product List.nodup_range)
  intro x hx y hy he
  have hx2 := List.mem_range.1 (List.mem_product.1 hx).2
  have hy2 := List.mem_range.1 (List.mem_product.1 hy).2
  obtain ⟨h1, h2⟩ := memberAt_inj hc hx2 hy2 he
  exact Prod.ext h1 h2

theorem mem_members (q : Nat) : q ∈ (rectMembers cl (uid, r0, c0, a, b)).map (fun m => m.1) ↔ ∃ i < a, ∃ j < b, q = memberAt cl r0 c0 i j := by
  rw [List.mem_map]
  constructor
  · rintro ⟨m, hm, rfl⟩
    obtain ⟨hi, hj, he⟩ := (mem_rectMembers m).1 hm
    exact ⟨m.2.1, hi, m.2.2, hj, he⟩
  · rintro ⟨i, hi, j, hj, rfl⟩
    exact ⟨(memberAt cl r0 c0 i j, i, j), (mem_rectMembers _).2 ⟨hi, hj, rfl⟩, rfl⟩

include hr hc in
theorem State.rectOf_member {s : State} {r i j : Nat} (hrect : Tab.get? (s.cluster cl).rects r = some (uid, r0, c0, a, b)) (hi : i < a) (hj : j < b) :
    s.rectOf (memberAt cl r0 c0 i j) r = some (uid, r0, c0, a, b) := by
  have hany : (rectMembers cl (uid, r0, c0, a, b)).any (fun m => m.1 == memberAt cl r0 c0 i j) = true :=
    List.any_eq_true.2 ⟨(memberAt cl r0 c0 i j, i, j), (mem_rectMembers _).2 ⟨hi, hj, rfl⟩, beq_self_eq_true _⟩
  simp only [State.rectOf, memberAt_div hr hc hi hj, hrect, hany, if_true]

include hc in
theorem find?_member {i j : Nat} (hi : i < a) (hj : j < b) : (rectMembers cl (uid, r0, c0, a, b)).find? (fun m => m.1 == memberAt cl r0 c0 i j) = some (memberAt cl r0 c0 i j, i, j) := by
  cases hf : (rectMembers cl (uid, r0, c0, a, b)).find? (fun m => m.1 == memberAt cl r0 c0 i j) with
  | none => exact absurd (beq_self_eq_true _) (List.find?_eq_none.1 hf (memberAt cl r0 c0 i j, i, j) ((mem_rectMembers _).2 ⟨hi, hj, rfl⟩))
  | some m =>
    obtain ⟨q, i', j'⟩ := m
    have hq : q = memberAt cl r0 c0 i j := by simpa using List.find?_some hf
    obtain ⟨-, hj', he⟩ := (mem_rectMembers _).1 (List.mem_of_find?_eq_some hf)
    obtain ⟨rfl, rfl⟩ := memberAt_inj hc hj hj' (hq.symm.trans he)
    rw [hq]

end Rectangle

/-- Every member of rectangle r has committed an operation of it that meets the start conditions. -/
structure State.RectCommitted (s : State) (cl r uid r0 c0 a b : Nat) (op : Nat → Nat → Op) (w v : Nat → Nat → Reg64) (ms : Nat → Nat → Nat) : Prop where
  nonzero : r ≠ 0
  listed : Tab.get? (s.cluster cl).rects r = some (uid, r0, c0, a, b)
  rows : r0 + a ≤ 4
  columns : c0 + b ≤ 8
  committed : ∀ i < a, ∀ j < b, s.committedOp (memberAt cl r0 c0 i j) = some (op i j, w i j, v i j, ms i j)
  names : ∀ i < a, ∀ j < b, bits (v i j) 8 8 = r
  sound : ∀ i < a, ∀ j < b, mxBad (w i j) (v i j) = false
  free : ∀ i < a, ∀ j < b, (s.panel (memberAt cl r0 c0 i j)).running = none
  counts : ∀ i < a, ∀ j < b, bits (v i j) 3 1 = 1 → 0 < (s.panel (memberAt cl r0 c0 i j)).sem (bits (v i j) 0 3)
  woken : ∀ i < a, ∀ j < b, ∀ k < 4, (s.panel (memberAt cl r0 c0 i j)).awake.contains k = true
  apart : ∀ i < a, ∀ j < b, ∀ i' < a, ∀ j' < b, (op i j).id = (op i' j').id → i = i' ∧ j = j'
  noFills : ∀ e ∈ s.ops, ∀ p c x, e.kind ≠ .ofill p c x

section Committed
variable {s : State} {cl r uid r0 c0 a b : Nat} {op : Nat → Nat → Op} {w v : Nat → Nat → Reg64} {ms : Nat → Nat → Nat} (h : s.RectCommitted cl r uid r0 c0 a b op w v ms)
include h

theorem State.RectCommitted.rectOf {i j : Nat} (hi : i < a) (hj : j < b) : s.rectOf (memberAt cl r0 c0 i j) r = some (uid, r0, c0, a, b) :=
  State.rectOf_member h.rows h.columns h.listed hi hj

theorem State.RectCommitted.mxMembers {i j : Nat} (hi : i < a) (hj : j < b) : s.mxMembers (memberAt cl r0 c0 i j) = (rectMembers cl (uid, r0, c0, a, b)).map (fun m => m.1) := by
  simp only [State.mxMembers, h.committed i hi j hj, mxRect, h.names i hi j hj, if_neg h.nonzero, h.rectOf hi hj, memberAt_div h.rows h.columns hi hj]

/-- Member (i, j) reads A from the slot that member (i, 0) names and B from the one that member (0, j) names. -/
theorem State.RectCommitted.mxSources {i j : Nat} (hi : i < a) (hj : j < b) :
    s.mxSources (memberAt cl r0 c0 i j) (w i j) (v i j) = ((memberAt cl r0 c0 i 0, bits (w i 0) 0 4), (memberAt cl r0 c0 0 j, bits (w 0 j) 4 4)) := by
  have hkind : ∀ i < a, ∀ j < b, ∃ q l, ((s.panel (memberAt cl r0 c0 i j)).committed.bind s.op?).map (fun o => o.kind) = some (.mx q (w i j) (v i j) (ms i j) l) := by
    intro i hi j hj
    obtain ⟨hid, ho, q, l, hk⟩ := s.committed_of_committedOp (h.committed i hi j hj)
    exact ⟨q, l, by simp [hid, ho, hk]⟩
  obtain ⟨qa, la, ha⟩ := hkind i hi 0 (by omega)
  obtain ⟨qb, lb, hb⟩ := hkind 0 (by omega) j hj
  have hpa : cl * 32 + (r0 + i) * 8 + c0 = memberAt cl r0 c0 i 0 := rfl
  have hpb : cl * 32 + r0 * 8 + c0 + j = memberAt cl r0 c0 0 j := rfl
  simp only [State.mxSources, mxRect, h.names i hi j hj, if_neg h.nonzero, h.rectOf hi hj, memberAt_div h.rows h.columns hi hj, find?_member h.columns hi hj, hpa, hpb, ha, hb, mxAs, mxBs]

theorem State.RectCommitted.dense {i j : Nat} (hi : i < a) (hj : j < b) : mxSparse (w i j) = 0 := by
  by_contra hs
  obtain ⟨_, _, _, _, _, _, _, _, hsp, _⟩ := (mxBad_eq_false_iff _ _).1 (h.sound i hi j hj)
  exact h.nonzero ((h.names i hi j hj).symm.trans (hsp hs).2.2.2)

theorem State.RectCommitted.mxReady {i j : Nat} (hi : i < a) (hj : j < b) : s.mxReady (memberAt cl r0 c0 i j) = true := by
  have hfill : ∀ q k, s.filling (q, k) = false := fun q k => (s.filling_eq_false_iff q k).2 (fun e he c x hk => absurd hk (h.noFills e he q c x))
  have hbit := bits_lt (v i j) 3 1
  have hsem : bits (v i j) 3 1 = 0 ∨ 0 < (s.panel (memberAt cl r0 c0 i j)).sem (bits (v i j) 0 3) :=
    or_iff_not_imp_left.2 (fun h0 => h.counts i hi j hj (by omega))
  simp only [State.mxReady, h.committed i hi j hj, h.free i hi j hj, h.mxSources hi hj, hfill, h.dense hi hj]
  simpa using hsem

theorem State.RectCommitted.asleep {i j : Nat} (hi : i < a) (hj : j < b) : s.asleep (memberAt cl r0 c0 i j) = false := by
  have hsubs : mxSubs (w i j) (v i j) = List.range 4 := by simp only [mxSubs, mxRect, h.names i hi j hj, ne_eq, h.nonzero, not_false_eq_true, if_true]
  simp only [State.asleep, h.committed i hi j hj, hsubs, List.any_eq_false, List.mem_range, Bool.not_eq_true', Bool.not_eq_false]
  exact h.woken i hi j hj

theorem State.RectCommitted.memberReads {i j : Nat} (hi : i < a) (hj : j < b) :
    s.memberReads (memberAt cl r0 c0 i j) = [16 * memberAt cl r0 c0 i 0 + bits (w i 0) 0 4, 16 * memberAt cl r0 c0 0 j + bits (w 0 j) 4 4] := by
  simp [State.memberReads, h.committed i hi j hj, h.mxSources hi hj, h.dense hi hj]

/-- Once every member has committed and none is held back, all of them start. -/
theorem State.RectCommitted.exec_start {u0 v0 : Nat} (hu : u0 < a) (hv : v0 < b) (hthr : s.throttled (memberAt cl r0 c0 u0 v0 * 8) = false) :
    exec (.mxOperationStart cl ((r0 + u0) * 8 + c0 + v0)) s = .next (((rectMembers cl (uid, r0, c0, a, b)).map (fun m => m.1)).foldl
      (fun t q => t.mxStart q (s.startCode (w u0 v0) ((rectMembers cl (uid, r0, c0, a, b)).map (fun m => m.1))) (s.memberReads q)) s) := by
  have hp : cl * 32 + ((r0 + u0) * 8 + c0 + v0) = memberAt cl r0 c0 u0 v0 := by
    simp only [memberAt]
    omega
  have hcomm := h.committed u0 hu v0 hv
  rw [← hp] at hcomm
  have hall : ∀ f : Nat → Bool, (∀ i < a, ∀ j < b, f (memberAt cl r0 c0 i j) = true) → ((rectMembers cl (uid, r0, c0, a, b)).map (fun m => m.1)).all f = true := by
    intro f hf
    refine List.all_eq_true.2 (fun q hq => ?_)
    obtain ⟨i, hi, j, hj, rfl⟩ := (mem_members q).1 hq
    exact hf i hi j hj
  have hstarts := hall (s.startsWith (v u0 v0)) (fun i hi j hj => by simp [State.startsWith, h.committed i hi j hj, mxRect, h.names i hi j hj, h.names u0 hu v0 hv])
  have hready := hall s.mxReady (fun i hi j hj => h.mxReady hi hj)
  have hawake : ((rectMembers cl (uid, r0, c0, a, b)).map (fun m => m.1)).filter s.asleep = [] := by
    refine List.filter_eq_nil_iff.2 (fun q hq => ?_)
    obtain ⟨i, hi, j, hj, rfl⟩ := (mem_members q).1 hq
    rw [h.asleep hi hj]
    exact Bool.false_ne_true
  have hin : ¬ 32 ≤ (r0 + u0) * 8 + c0 + v0 := by
    have := h.rows
    have := h.columns
    omega
  rw [exec_mxOperationStart hcomm, hp, h.mxMembers hu hv, if_neg (by simp only [hin, hstarts, hready, hthr]; simp), if_neg (by simp [hawake])]

/-- Formats, transpositions and sizes agree. -/
theorem State.RectCommitted.all_agreesWith_iff {u0 v0 : Nat} (hu : u0 < a) (hv : v0 < b) :
    ((rectMembers cl (uid, r0, c0, a, b)).map (fun m => m.1)).all (s.agreesWith (w u0 v0)) = true ↔ ∀ i < a, ∀ j < b, mxShared (w i j) = mxShared (w 0 0) := by
  have hzero : 0 < a ∧ 0 < b := by omega
  have hag : ∀ i < a, ∀ j < b, s.agreesWith (w u0 v0) (memberAt cl r0 c0 i j) = true ↔ mxShared (w i j) = mxShared (w u0 v0) := by
    intro i hi j hj
    simp only [State.agreesWith, h.committed i hi j hj, beq_iff_eq]
  rw [List.all_eq_true]
  constructor
  · intro hall i hi j hj
    have h1 := (hag i hi j hj).1 (hall _ ((mem_members _).2 ⟨i, hi, j, hj, rfl⟩))
    have h0 := (hag 0 hzero.1 0 hzero.2).1 (hall _ ((mem_members _).2 ⟨0, hzero.1, 0, hzero.2, rfl⟩))
    rw [h1, h0]
  · intro hall q hq
    obtain ⟨i, hi, j, hj, rfl⟩ := (mem_members q).1 hq
    exact (hag i hi j hj).2 ((hall i hi j hj).trans (hall u0 hu v0 hv).symm)

theorem State.RectCommitted.memberCode_eq_one {i j : Nat} (hi : i < a) (hj : j < b)
    (hc : ((s.panel (memberAt cl r0 c0 i 0)).slot (bits (w i 0) 0 4)).claim = none ∨ ((s.panel (memberAt cl r0 c0 0 j)).slot (bits (w 0 j) 4 4)).claim = none) :
    s.memberCode (memberAt cl r0 c0 i j) = 1 := by
  obtain ⟨c, hclass, -⟩ := exists_mxClass_of_not_bad (h.sound i hi j hj)
  simp only [State.memberCode, h.committed i hi j hj]
  refine State.operandCode_of_unclaimed hclass ?_
  rw [h.mxSources hi hj]
  exact hc.imp_right .inl

end Committed

theorem mxShared_eq_iff (x y : Reg64) : mxShared x = mxShared y ↔ ∀ q ∈ ([(12, 4), (16, 4), (20, 1), (21, 1), (32, 6), (40, 6), (48, 9)] : List (Nat × Nat)), bits x q.1 q.2 = bits y q.1 q.2 := by
  have hbit : ∀ lo, (bits x lo 1 == 1) = (bits y lo 1 == 1) ↔ bits x lo 1 = bits y lo 1 := by
    intro lo
    have hx := bits_lt x lo 1
    have hy := bits_lt y lo 1
    rw [Bool.eq_iff_iff, beq_iff_eq, beq_iff_eq]
    omega
  simp only [mxShared, mxAf, mxBf, mxTa, mxTb, mxM, mxN, mxK, Prod.mk.injEq, hbit, List.forall_mem_cons, List.not_mem_nil, false_imp_iff, implies_true, and_true, Nat.add_right_cancel_iff]

theorem rectangleStart : Claims.RectangleStart := by
  intro s cl r u0 v0 uid r0 c0 a b op w v ms member hr hrect hrow hcol hu hv hmem happart hfills hthr shares unclaimed
  have h : s.RectCommitted cl r uid r0 c0 a b op w v ms := by
    refine ⟨hr, hrect, hrow, hcol, fun i hi j hj => ?_, fun i hi j hj => ?_, fun i hi j hj => ?_, fun i hi j hj => ?_, fun i hi j hj => ?_, fun i hi j hj => ?_, happart, hfills⟩ <;>
      obtain ⟨hc, ho, hk, hname, hbad, hrun, hsem, hawake⟩ := hmem i hi j hj
    · exact State.committedOp_of_kind hc ho hk
    · exact hname
    · exact hbad
    · exact hrun
    · exact hsem
    · exact hawake
  generalize hl : (rectMembers cl (uid, r0, c0, a, b)).map (fun m => m.1) = l
  generalize hcode : s.startCode (w u0 v0) l = code
  have hin : ∀ i < a, ∀ j < b, memberAt cl r0 c0 i j ∈ l := fun i hi j hj => hl ▸ (mem_members _).2 ⟨i, hi, j, hj, rfl⟩
  obtain ⟨hst, ⟨hacc, hop, hharts, _⟩, -⟩ := State.foldl_mxStart code s.memberReads l s (hl ▸ nodup_rectMembers hcol) (by
    intro q hq q' hq' id hid hid'
    rw [← hl] at hq hq'
    obtain ⟨i, hi, j, hj, rfl⟩ := (mem_members q).1 hq
    obtain ⟨i', hi', j', hj', rfl⟩ := (mem_members q').1 hq'
    have he := (s.committed_of_committedOp (h.committed i hi j hj)).1
    have he' := (s.committed_of_committedOp (h.committed i' hi' j' hj')).1
    obtain ⟨rfl, rfl⟩ := happart i hi j hj i' hi' j' hj' (Option.some.inj ((he.symm.trans hid).trans (hid'.symm.trans he')))
    rfl)
  have hexec := h.exec_start hu hv hthr
  rw [hl, hcode] at hexec
  refine ⟨_, hexec, hacc, hop, hharts, fun i hi j hj => ?_⟩
  obtain ⟨hpanel, e, he, hstage, hkind, hdue, hstatus⟩ := hst _ (hin i hi j hj) _ _ _ _ (h.committed i hi j hj)
  obtain ⟨c, hclass, -⟩ := exists_mxClass_of_not_bad (h.sound i hi j hj)
  have hagree : l.all (s.agreesWith (w u0 v0)) = true ↔ shares := by
    rw [← hl, h.all_agreesWith_iff hu hv]
    exact forall₄_congr (fun i _ j _ => mxShared_eq_iff _ _)
  have hpan : (List.foldl (fun t q => t.mxStart q code (s.memberReads q)) s l).panel (member i j) = (s.panel (member i j)).started (op i j) (v i j) := hpanel
  rw [hpan]
  refine ⟨rfl, rfl, fun k => Panel.sem_started .., e, he, hstage, hkind.trans (congrArg (OpKind.mx _ _ _ _) (h.memberReads hi hj)), ?due, fun hno => ?six, fun hyes hun => ?one⟩
  case due =>
    rw [hdue, State.mxTime_dense hclass (h.dense hi hj), mxRect, h.names i hi j hj, if_neg hr, h.rectOf hi hj, Nat.add_assoc]
    rfl
  case six =>
    have h6 : code = 6 := by rw [← hcode, State.startCode, if_pos (fun hall => hno (hagree.1 hall))]
    rw [hstatus (by rw [h6]; decide), h6]
  case one =>
    obtain ⟨i', hi', j', hj', hc⟩ := hun
    have h1 : code = 1 := hcode.symm.trans (State.startCode_eq_one (hagree.2 hyes) ⟨_, hin i' hi' j' hj', h.memberCode_eq_one hi' hj' hc⟩)
    rw [hstatus (by rw [h1]; decide), h1]

/-- Settles O37: the shadow's rules field by field, one panel's start, and a rectangle's as its members' starts one after the other. -/
theorem matrixStart : Obligations.MatrixStart := ⟨matrixShadow, matrixStartAlone, rectangleStart⟩

end Sys2Proof.Machine
end

section
/-! Bring-up, images, telemetry, settings, throttling and shutdown (O60). What a unit that leaves service reaches (R293) leaves the rollback
counter as it is, so the version of an image is measured against the one counter before and after the units are tested (R409, R411). -/

namespace Sys2Proof.Machine

/-! ## Nothing that a unit which leaves service ends changes the rollback counter (R293, R409) -/

/-- A fold whose every step keeps the rollback counter keeps it. -/
theorem foldl_rollback {β : Type} {f : State → β → State} (hf : ∀ s b, (f s b).rollback = s.rollback) (l : List β) (s : State) : (l.foldl f s).rollback = s.rollback :=
  foldl_keeps State.rollback f hf l s

/-! Records, messages and results -/

@[simp] theorem State.recordMgmt_rollback (s : State) (r : FaultRecord) : (s.recordMgmt r).rollback = s.rollback := rfl

@[simp] theorem State.record_rollback (s : State) (cl : Nat) (r : FaultRecord) : (s.record cl r).rollback = s.rollback := by
  unfold State.record; split <;> rfl

@[simp] theorem State.leaveRecord_rollback (s : State) (cl ukind unit : Nat) : (s.leaveRecord cl ukind unit).rollback = s.rollback := s.record_rollback cl _

@[simp] theorem State.deliverMsg_rollback (s : State) (h uid : Nat) (words : List Reg64) : (s.deliverMsg h uid words).rollback = s.rollback := by
  unfold State.deliverMsg; dsimp only; split <;> rfl

@[simp] theorem State.modTask_rollback (s : State) (h uid : Nat) (f : Slot → Slot) : (s.modTask h uid f).rollback = s.rollback := by
  unfold State.modTask; dsimp only; split <;> rfl

@[simp] theorem State.resolve_rollback (s : State) (o : Op) (v : Reg64) (more : List Reg64) : (s.resolve o v more).rollback = s.rollback := by
  unfold State.resolve
  split
  · exact State.modTask_rollback ..
  · split <;> simp

@[simp] theorem State.renegotiate_rollback (s : State) (h : Nat) : (s.renegotiate h).rollback = s.rollback := by
  unfold State.renegotiate
  split
  · rfl
  · split <;> rfl

/-! Traps and the next instruction -/

@[simp] theorem State.endRoutine_rollback (s : State) (h status : Nat) (words : List Reg64) : (s.endRoutine h status words).rollback = s.rollback := by
  unfold State.endRoutine
  dsimp only
  split
  · rfl
  · split
    · rfl
    · split <;> rfl

@[simp] theorem State.dropRoutine_rollback (s : State) (h : Nat) : (s.dropRoutine h).rollback = s.rollback := by
  unfold State.dropRoutine; split <;> simp

@[simp] theorem State.stopRoutine_rollback (s : State) (h cause : Nat) (val pc : Reg64) (iw : Word) : (s.stopRoutine h cause val pc iw).rollback = s.rollback := by
  unfold State.stopRoutine; split <;> simp

@[simp] theorem State.deliver_rollback (s : State) (h cause : Nat) (val pc : Reg64) (iw : Word) : (s.deliver h cause val pc iw).rollback = s.rollback := by
  unfold State.deliver
  dsimp only
  split
  · split <;> simp
  · split <;> simp

@[simp] theorem State.backEdge_rollback (f : Nat) (s : State) (h : Nat) (last next : Reg64) : (State.backEdge f s h last next).rollback = s.rollback := by
  induction f generalizing s with
  | zero => rfl
  | succ f ih =>
    unfold State.backEdge
    dsimp only
    split
    · rfl
    · split
      · rfl
      · split
        · rw [ih]; rfl
        · split
          · simp
          · split <;> simp

@[simp] theorem State.advance_rollback (s : State) (h len : Nat) : (s.advance h len).rollback = s.rollback := by simp [State.advance]

@[simp] theorem State.goOn_rollback (s : State) (h : Nat) : (s.goOn h).rollback = s.rollback := by
  unfold State.goOn; dsimp only; split <;> simp

@[simp] theorem State.unblock_rollback (s : State) (o : Op) : (s.unblock o).rollback = s.rollback := by
  unfold State.unblock; dsimp only; split <;> simp

@[simp] theorem State.finish_rollback (s : State) (o : Op) (v : Nat) : (s.finish o v).rollback = s.rollback := by simp [State.finish]

/-! Phasers -/

@[simp] theorem State.setPhaser_rollback (s : State) (id : Nat) (p : Phaser) : (s.setPhaser id p).rollback = s.rollback := rfl
@[simp] theorem State.erasePhaser_rollback (s : State) (id : Nat) : (s.erasePhaser id).rollback = s.rollback := rfl

@[simp] theorem State.completeOnce_rollback (s : State) (id : Nat) (forced : Bool) : (s.completeOnce id forced).rollback = s.rollback := by
  unfold State.completeOnce
  split
  · rfl
  · dsimp only
    split
    · split
      · rfl
      · split <;> rfl
    · rfl

@[simp] theorem State.signalCtl_rollback (s : State) (id : Nat) : (s.signalCtl id).rollback = s.rollback := by
  unfold State.signalCtl
  split
  · rfl
  · refine foldl_rollback (fun s m => ?_) _ _
    dsimp only
    split
    · rfl
    · split
      · rfl
      · split <;> rfl

@[simp] theorem State.completeGo_rollback (f : Nat) (s : State) (id : Nat) (forced : Bool) : (State.completeGo f s id forced).rollback = s.rollback := by
  induction f generalizing s forced with
  | zero => rfl
  | succ f ih =>
    unfold State.completeGo
    dsimp only
    split
    · simp
    · split
      · simp
      · rw [ih]; simp

@[simp] theorem State.completePhase_rollback (s : State) (id : Nat) (forced : Bool) : (s.completePhase id forced).rollback = s.rollback := State.completeGo_rollback ..

@[simp] theorem State.leavePhaser_rollback (s : State) (id uid : Nat) : (s.leavePhaser id uid).rollback = s.rollback := by
  have hsplit : ∀ u : State, (match u.phaser? id with | some p => if p.orphan = true ∧ p.members = [] then u.erasePhaser id else u | none => u).rollback = u.rollback := by
    intro u
    split
    · split <;> simp
    · rfl
  unfold State.leavePhaser
  split
  · rfl
  · dsimp only
    refine (hsplit _).trans ?_
    split
    · split <;> simp
    · simp

@[simp] theorem State.leaveAll_rollback (s : State) (uid : Nat) : (s.leaveAll uid).rollback = s.rollback := by
  unfold State.leaveAll
  refine foldl_rollback (fun s id => ?_) _ _
  dsimp only
  split
  · rfl
  · split <;> simp

/-! Images, pipelines and queues -/

@[simp] theorem State.unholdAll_rollback (s : State) (uid : Nat) : (s.unholdAll uid).rollback = s.rollback := rfl
@[simp] theorem State.unstage_rollback (s : State) (cl n : Nat) : (s.unstage cl n).rollback = s.rollback := rfl

@[simp] theorem State.dropImage_rollback (s : State) (cl : Nat) (lid : Word) : (s.dropImage cl lid).rollback = s.rollback := by
  unfold State.dropImage; split <;> simp

@[simp] theorem State.freePipe_rollback (s : State) (cl n status : Nat) : (s.freePipe cl n status).rollback = s.rollback := by
  have hops : ∀ (l : List Op) (u : State), (l.foldl (fun s o => match o.kind with
      | .pipewait p _ => if o.cluster = cl ∧ p = n then s.setOp { o with kind := .value (r64 status) [] } else s
      | .dqpush hd _ | .dqpop hd _ => if o.cluster = cl ∧ hd / 64 % 2 = 1 ∧ (Tab.get? (s.cluster cl).pqs (hd % 64)).isNone then s.finish o 6 else s
      | _ => s) u).rollback = u.rollback := by
    refine foldl_rollback (fun s o => ?_)
    split
    · split <;> simp
    · split <;> simp
    · split <;> simp
    · rfl
  unfold State.freePipe
  dsimp only
  split
  · simp only [State.dropImage_rollback]
    exact (hops _ _).trans (by simp)
  · exact (hops _ _).trans (by simp)

@[simp] theorem State.freeQueue_rollback (s : State) (cl n : Nat) : (s.freeQueue cl n).rollback = s.rollback := by
  unfold State.freeQueue
  dsimp only
  rw [foldl_rollback]
  · rw [State.modCluster_rollback, foldl_rollback]
    intro s p
    split <;> simp
  · intro s o
    split
    · split <;> simp
    · split <;> simp
    · rfl

@[simp] theorem State.pokePipe_rollback (s : State) (cl n : Nat) : (s.pokePipe cl n).rollback = s.rollback := by
  unfold State.pokePipe
  split
  · rfl
  · next p _ =>
    extract_lets most r s₁ t s₂ waits
    have h₁ : s₁.rollback = s.rollback := by
      dsimp only [s₁]
      split <;> simp
    have h₂ : s₂.rollback = s.rollback := by
      dsimp only [s₂, t]
      split
      · split <;> simp [h₁]
      · exact h₁
    split
    · have hwaits : (waits.foldl (fun (s : State) o => s.setOp { o with kind := .value 0 [] }) s₂).rollback = s.rollback := (foldl_rollback (fun s o => State.setOp_rollback ..) _ _).trans h₂
      split
      · rw [State.freePipe_rollback]
        exact hwaits
      · exact hwaits
    · exact h₂

@[simp] theorem State.pokePipes_rollback (s : State) (cl : Nat) : (s.pokePipes cl).rollback = s.rollback := by
  rw [State.pokePipes, foldl_rollback (fun s p => by simp)]

/-! Panels and quantisations -/

@[simp] theorem State.qntTakes_rollback (s : State) (cl : Nat) (o : Op) (w : List Reg64) : (s.qntTakes cl o w).rollback = s.rollback := by
  unfold State.qntTakes; dsimp only; split <;> rfl

@[simp] theorem State.qntAfter_rollback (s : State) (cl id : Nat) : (s.qntAfter cl id).rollback = s.rollback := by
  unfold State.qntAfter
  split
  · split
    · split
      · rfl
      · dsimp only
        split <;> simp
    · rfl
  · rfl

@[simp] theorem State.sweepSlots_rollback (s : State) (p : Nat) : (s.sweepSlots p).rollback = s.rollback := rfl
@[simp] theorem State.sweepRects_rollback (s : State) (cl : Nat) : (s.sweepRects cl).rollback = s.rollback := rfl

@[simp] theorem State.dropShadows_rollback (s : State) (cl uid : Nat) : (s.dropShadows cl uid).rollback = s.rollback := by
  unfold State.dropShadows
  dsimp only
  rw [foldl_rollback (fun s o => by simp)]

/-! Tasks and launches -/

@[simp] theorem State.endTask_rollback (s : State) (cid uid : Nat) (x : Slot) : (s.endTask cid uid x).rollback = s.rollback := by
  unfold State.endTask
  dsimp only
  split <;> simp

@[simp] theorem State.notice_rollback (s : State) (l : Launch) (status : Nat) : (s.notice l status).rollback = s.rollback := by
  unfold State.notice
  dsimp only
  split
  · rfl
  · split
    · simp
    · split <;> rfl
    · rfl

@[simp] theorem State.keepRegions_rollback (s : State) (keep : Region → Bool) : (s.keepRegions keep).rollback = s.rollback := rfl

@[simp] theorem State.retireLaunch_rollback (s : State) (l : Launch) : (s.retireLaunch l).rollback = s.rollback := by
  unfold State.retireLaunch
  dsimp only
  rw [State.notice_rollback, foldl_rollback]
  · rfl
  · intro s c
    rw [State.modCluster_rollback, foldl_rollback, foldl_rollback]
    · intro s p
      split <;> simp
    · intro s q
      split <;> simp

@[simp] theorem State.settleGo_rollback (f : Nat) (s : State) : (State.settleGo f s).rollback = s.rollback := by
  induction f generalizing s with
  | zero => rfl
  | succ f ih =>
    unfold State.settleGo
    dsimp only
    split
    · rfl
    · rw [ih]; simp

@[simp] theorem State.settle_rollback (s : State) : s.settle.rollback = s.rollback := State.settleGo_rollback ..

@[simp] theorem State.dropSaved_rollback (s : State) : s.dropSaved.rollback = s.rollback := by
  unfold State.dropSaved
  dsimp only
  rw [foldl_rollback (fun s v => by simp)]

@[simp] theorem State.cancelLaunch_rollback (s : State) (lid : Word) : (s.cancelLaunch lid).rollback = s.rollback := by
  rw [State.cancelLaunch, State.settle_rollback, State.dropSaved_rollback]

@[simp] theorem State.cancelAll_rollback (s : State) (lids : List Word) : (s.cancelAll lids).rollback = s.rollback := by
  rw [State.cancelAll, foldl_rollback (fun s l => by simp)]

/-! Units that leave -/

@[simp] theorem State.foldAt_rollback (s : State) (p n : Nat) : (s.foldAt p n).rollback = s.rollback := by
  unfold State.foldAt
  dsimp only
  rw [foldl_rollback]
  intro s nb
  refine (foldl_rollback ?_ _ _).trans rfl
  exact fun s q => rfl

@[simp] theorem State.putHome_rollback (s : State) (a n v : Nat) : (s.putHome a n v).rollback = s.rollback := by
  unfold State.putHome; split <;> simp

@[simp] theorem State.finishStore_rollback (s : State) (h : Nat) : (s.finishStore h).rollback = s.rollback := by
  unfold State.finishStore
  split
  · split
    · rw [foldl_rollback (fun s p => by simp)]
    · rfl
  · rfl

@[simp] theorem State.skipRegions_rollback (s : State) (c : Nat) : (s.skipRegions c).rollback = s.rollback := rfl

@[simp] theorem State.retireOnLeave_rollback (s : State) (h : Nat) : (s.retireOnLeave h).rollback = s.rollback := by
  unfold State.retireOnLeave; dsimp only; split <;> simp

theorem State.coreLeaves_rollback (s : State) (c : Nat) : (s.coreLeaves c).rollback = s.rollback := by
  unfold State.coreLeaves
  split
  · rfl
  · dsimp only
    rw [State.settle_rollback, State.cancelAll_rollback, foldl_rollback (fun s d => by simp), State.modCore_rollback, State.skipRegions_rollback, State.dropRoutine_rollback,
      foldl_rollback (fun s v => by simp), foldl_rollback (fun s p => by simp), State.leaveRecord_rollback]

theorem State.dropMx_rollback (s : State) (p : Nat) : (s.dropMx p).rollback = s.rollback := by
  unfold State.dropMx
  rw [foldl_rollback]
  intro s o
  split
  · split
    · simp [State.freeVal]
    · rfl
  · rfl

theorem State.panelLeaves_rollback (s : State) (p ukind : Nat) : (s.panelLeaves p ukind).rollback = s.rollback := by
  unfold State.panelLeaves
  split
  · rfl
  · dsimp only
    rw [foldl_rollback (fun s i => by rw [State.coreLeaves_rollback]), State.sweepRects_rollback, State.modPanel_rollback, State.dropMx_rollback, State.leaveRecord_rollback]

theorem State.nibLeaves_rollback (s : State) (n : Nat) : (s.nibLeaves n).rollback = s.rollback := by
  unfold State.nibLeaves
  split
  · rfl
  · dsimp only
    rw [State.dropRoutine_rollback, State.finishStore_rollback, State.recordMgmt_rollback]

theorem State.clusterLeaves_rollback (s : State) (cl ukind : Nat) : (s.clusterLeaves cl ukind).rollback = s.rollback := by
  unfold State.clusterLeaves
  split
  · rfl
  · dsimp only
    rw [State.cancelAll_rollback, State.leaveRecord_rollback]

theorem State.linkLeaves_rollback (s : State) (l : Nat) : (s.linkLeaves l).rollback = s.rollback := by
  unfold State.linkLeaves
  dsimp only
  split
  · rfl
  · unfold State.linkRecord
    dsimp only
    split <;> rfl

theorem State.stackLeaves_rollback (s : State) (t : Nat) : (s.stackLeaves t).rollback = s.rollback := by
  unfold State.stackLeaves; split <;> rfl

theorem State.stationOff_rollback (s : State) (n : Nat) : (s.stationOff n).rollback = s.rollback := rfl

theorem State.unitLeaves_rollback (s : State) (u : Nat) : (s.unitLeaves u).rollback = s.rollback := by
  simp only [State.unitLeaves, apply_ite State.rollback, State.coreLeaves_rollback, State.panelLeaves_rollback, State.nibLeaves_rollback, State.linkLeaves_rollback,
    State.clusterLeaves_rollback, State.stationOff_rollback, State.stackLeaves_rollback, ite_self]

theorem State.testUnits_rollback (s : State) : s.testUnits.rollback = s.rollback := by
  rw [State.testUnits, foldl_rollback State.unitLeaves_rollback]

/-! ## Images (R409, R411) -/

/-- The units that step 2 of bring-up tests, as the statement lists them. -/
theorem testedFirst_eq (x : Nat) : testedFirst x = ((decide (x < 18688) || decide (18752 ≤ x)) && decide (x < 21096)) := by
  simp only [testedFirst, Bool.not_and, ← decide_not, Nat.not_le, Nat.not_lt]

theorem State.managed_iff (s : State) : s.managed = true ↔ ∃ m ∈ s.firmware, m.unit = 0 := by
  simp [State.managed]

/-- The state in which a good image is taken: with the units tested, of the management firmware in reset (R411). -/
def State.atImage (s : State) (unit : Nat) : State := if s.ready = false ∧ unit = 0 then s.testUnits else s

theorem State.atImage_rollback (s : State) (unit : Nat) : (s.atImage unit).rollback = s.rollback := by
  unfold State.atImage
  split
  · exact s.testUnits_rollback
  · rfl

/-- An image that verifies is taken. -/
def State.takeImage (t : State) (unit version : Nat) (d : BitVec 256) : State :=
  ({ t with firmware := t.firmware.filter (fun f => f.unit != unit) ++ [⟨unit, version, d⟩], refused := t.refused.filter (fun u => u != unit) } : State).tell (.firmware unit true)

/-- An image that does not is refused. -/
def State.refuseImage (t : State) (unit : Nat) : State :=
  ({ t with refused := if t.ready then t.refused else insertNat unit t.refused } : State).tell (.firmware unit false)

/-- An image is taken or refused. -/
def State.answerImage (t : State) (unit version : Nat) (ok : Bool) (d : BitVec 256) : State :=
  if ok = true ∧ t.rollback ≤ version then t.takeImage unit version d else t.refuseImage unit

section Images
variable {s : State} {unit version : Nat} {ok : Bool} {d : BitVec 256}

theorem exec_firmwareImage : exec (.firmwareImage unit version ok d) s = .next (
    if 261 ≤ unit ∨ (¬ s.ready = true ∧ unit ≠ 0 ∧ ¬ s.managed = true) then s
    else (if ¬ s.ready = true ∧ unit = 0 ∧ ok = true ∧ s.rollback ≤ version then s.testUnits else s).answerImage unit version ok d) := rfl

theorem exec_firmwareImage_of_early (h : ¬ (s.ready = true ∨ unit = 0 ∨ ∃ m ∈ s.firmware, m.unit = 0)) : exec (.firmwareImage unit version ok d) s = .next s := by
  rw [← State.managed_iff, not_or, not_or] at h
  rw [exec_firmwareImage, if_pos (.inr h)]

theorem exec_firmwareImage_of_bad (hu : unit < 261) (hin : s.ready = true ∨ unit = 0 ∨ ∃ m ∈ s.firmware, m.unit = 0) (hbad : ¬ (ok = true ∧ s.rollback ≤ version)) :
    exec (.firmwareImage unit version ok d) s = .next (s.refuseImage unit) := by
  rw [← State.managed_iff] at hin
  rw [exec_firmwareImage, if_neg (by rw [not_or, not_and_or, not_and_or]; exact ⟨Nat.not_le.2 hu, by simpa using hin⟩), if_neg (fun h => hbad h.2.2), State.answerImage, if_neg hbad]

theorem exec_firmwareImage_of_good (hu : unit < 261) (hin : s.ready = true ∨ unit = 0 ∨ ∃ m ∈ s.firmware, m.unit = 0) (hgood : ok = true ∧ s.rollback ≤ version) :
    exec (.firmwareImage unit version ok d) s = .next ((s.atImage unit).takeImage unit version d) := by
  have hat : (if ¬ s.ready = true ∧ unit = 0 ∧ ok = true ∧ s.rollback ≤ version then s.testUnits else s) = s.atImage unit := by
    rw [State.atImage]
    simp [hgood.1, hgood.2]
  rw [← State.managed_iff] at hin
  rw [exec_firmwareImage, if_neg (by rw [not_or, not_and_or, not_and_or]; exact ⟨Nat.not_le.2 hu, by simpa using hin⟩), hat, State.answerImage, State.atImage_rollback, if_pos hgood]

end Images

/-! ## Telemetry (R407) -/

/-- What only an index in range is answered. -/
theorem next_if_of_lt {n k : Nat} {s t : State} (h : n < k) : Host.Outcome.next (if n < k then t else s) = (.next t : Host.Outcome State Fault Refusal) :=
  congrArg Host.Outcome.next (if_pos h)

theorem State.foldl_tell (l : List Nat) (s : State) : (l.foldl (fun s t => s.tell (.telemetry t)) s).outbox = s.outbox ++ l.map HostMsg.telemetry
    ∧ (l.foldl (fun s t => s.tell (.telemetry t)) s).harts = s.harts := by
  induction l generalizing s with
  | nil => exact ⟨(List.append_nil _).symm, rfl⟩
  | cons t l ih =>
    obtain ⟨hout, hharts⟩ := ih (s.tell (.telemetry t))
    exact ⟨by rw [List.foldl_cons, hout, List.map_cons, State.tell, List.append_assoc, List.singleton_append], by rw [List.foldl_cons, hharts, State.tell]⟩

/-! ## The throttle (R24, R408) -/

theorem exec_throttleLevelChange_of_recent {s : State} {die level c : Nat} (hc : Tab.get? s.throttleAt die = some c) (hlt : s.clk < c + 180000) :
    exec (.throttleLevelChange die level) s = .next s := by
  refine congrArg Host.Outcome.next (if_pos (.inr (.inr ?_)))
  rw [hc, Option.any_some]
  exact decide_eq_true hlt

theorem exec_throttleLevelChange_of_free {s : State} {die level : Nat} (hd : die < 4) (hl : level < 8) (hfree : ∀ c, Tab.get? s.throttleAt die = some c → c + 180000 ≤ s.clk) :
    exec (.throttleLevelChange die level) s = .next { s with throttleNext := Tab.set s.throttleNext die (level, s.clk / 8 + 1), throttleAt := Tab.set s.throttleAt die s.clk } := by
  refine congrArg Host.Outcome.next (if_neg ?_)
  rintro (h | h | h)
  · exact absurd hd (Nat.not_lt.2 h)
  · exact absurd hl (Nat.not_lt.2 h)
  · obtain ⟨c, hc, hlt⟩ := (Option.any_eq_true _ _).1 h
    exact absurd (of_decide_eq_true hlt) (Nat.not_lt.2 (hfree c hc))

/-! ## Bring-up (R26, R395, R400, R411) -/

theorem State.verified_iff (s : State) : s.verified = true ↔ (∀ u < 5, ∃ m ∈ s.firmware, m.unit = u) ∧ s.refused = [] := by
  simp [State.verified]

/-- The number of the first k bits of f. -/
def bitSum (f : Nat → Bool) (k : Nat) : Nat := (List.range k).foldl (fun m i => if f i then m + 2 ^ i else m) 0

theorem bitSum_succ (f : Nat → Bool) (k : Nat) : bitSum f (k + 1) = if f k then bitSum f k + 2 ^ k else bitSum f k := by
  rw [bitSum, List.range_succ, List.foldl_append, List.foldl_cons, List.foldl_nil, bitSum]

theorem bitSum_lt (f : Nat → Bool) (k : Nat) : bitSum f k < 2 ^ k := by
  induction k with
  | zero => exact Nat.one_pos
  | succ k ih =>
    rw [bitSum_succ, Nat.pow_succ]
    split <;> omega

theorem testBit_bitSum (f : Nat → Bool) (k i : Nat) : (bitSum f k).testBit i = (decide (i < k) && f i) := by
  induction k with
  | zero => simp [bitSum]
  | succ k ih =>
    have hlt : i < k + 1 ↔ i < k ∨ i = k := by omega
    rw [bitSum_succ]
    cases hf : f k
    · rw [if_neg Bool.false_ne_true, ih]
      by_cases hi : i = k
      · subst hi
        simp [hf]
      · simp [hlt, hi]
    · have hor : bitSum f k + 2 ^ k = 2 ^ k ||| bitSum f k := by
        have := Nat.two_pow_add_eq_or_of_lt (bitSum_lt f k) 1
        rw [Nat.mul_one] at this
        rw [Nat.add_comm, this]
      rw [if_pos rfl, hor, Nat.testBit_or, Nat.testBit_two_pow, ih]
      by_cases hi : i = k
      · subst hi
        simp [hf]
      · simp [hlt, hi, Ne.symm hi]

theorem getLsbD_ofBits (n : Nat) (f : Nat → Bool) (i : Nat) : (Claims.ofBits n f).getLsbD i = (decide (i < n) && f i) := by
  have hdef : Claims.ofBits n f = BitVec.ofNat n (bitSum f n) := rfl
  rw [hdef, BitVec.getLsbD_ofNat, testBit_bitSum, ← Bool.and_assoc, Bool.and_self]

/-- The ports of a mask without those below k that have left service. -/
def State.portsBelow (s : State) (ports : BitVec 16) (k : Nat) : BitVec 16 :=
  (List.range k).foldl (fun (m : BitVec 16) w => if (s.link (48 + w)).down then m &&& ~~~(BitVec.ofNat 16 (2 ^ w)) else m) ports

theorem State.getLsbD_portsBelow (s : State) (ports : BitVec 16) (k i : Nat) (hi : i < 16) :
    (s.portsBelow ports k).getLsbD i = (ports.getLsbD i && !(decide (i < k) && (s.link (48 + i)).down)) := by
  induction k with
  | zero => simp [State.portsBelow]
  | succ k ih =>
    have hstep : s.portsBelow ports (k + 1) = if (s.link (48 + k)).down then s.portsBelow ports k &&& ~~~(BitVec.ofNat 16 (2 ^ k)) else s.portsBelow ports k := by
      rw [State.portsBelow, List.range_succ, List.foldl_append, List.foldl_cons, List.foldl_nil, State.portsBelow]
    have hlt : i < k + 1 ↔ i < k ∨ i = k := by omega
    rw [hstep]
    cases hd : (s.link (48 + k)).down
    · rw [if_neg Bool.false_ne_true, ih]
      by_cases hik : i = k
      · subst hik
        simp [hd]
      · simp [hlt, hik]
    · rw [if_pos rfl, BitVec.getLsbD_and, BitVec.getLsbD_not, BitVec.getLsbD_ofNat, Nat.testBit_two_pow, ih]
      by_cases hik : i = k
      · subst hik
        simp [hd, hi]
      · simp [hlt, hik, hi, Ne.symm hik]

/-- A port stays in the mask where it has not left service (R27). -/
theorem State.portsUp_eq (s : State) (ports : BitVec 16) : s.portsUp ports = Claims.ofBits 16 (fun w => ports.getLsbD w && !(s.link (48 + w)).down) := by
  have hdef : s.portsUp ports = s.portsBelow ports 16 := rfl
  refine BitVec.eq_of_getLsbD_eq (fun i hi => ?_)
  rw [hdef, State.getLsbD_portsBelow s ports 16 i hi, getLsbD_ofBits, decide_eq_true hi, Bool.true_and, Bool.true_and]

theorem State.joinsDomain_iff (s : State) (ports : BitVec 16) (size : BitVec 8) (index : BitVec 5) : s.joinsDomain ports size index = true
    ↔ s.topology.sigOk = true ∧ ports ≠ 0 ∧ index.toNat < size.toNat ∧ size.toNat ≤ 32
      ∧ ∀ r ∈ s.topology.routes, r.part < size.toNat ∧ r.part ≠ index.toNat ∧ ports.getLsbD r.port = true ∧ r.via.length ≤ 2 := by
  simp only [State.joinsDomain, Bool.and_eq_true, decide_eq_true_eq, List.all_eq_true, bne_iff_ne, and_assoc]
  constructor
  · rintro ⟨hsig, hports, -, h32, hlt, hroutes⟩
    exact ⟨hsig, hports, hlt, h32, hroutes⟩
  · rintro ⟨hsig, hports, hlt, h32, hroutes⟩
    exact ⟨hsig, hports, by omega, h32, hlt, hroutes⟩

/-- The part with the units that failed their test out of service (R26, R411). -/
def State.tested (s : State) : State := { s.selfTest.foldl State.unitLeaves s with selfTest := [], powered := true }

/-- The part with its trained ports. -/
def State.trained (s : State) (ports : BitVec 16) : State := { s.tested with ports := Claims.ofBits 16 (fun w => ports.getLsbD w && !(s.tested.link (48 + w)).down) }

theorem exec_bringUp (s : State) (ports : BitVec 16) (size : BitVec 8) (index : BitVec 5) : exec (.bringUp ports size index) s = .next (
    if s.ready = true ∨ ¬ s.verified = true then s
    else if (s.trained ports).modulesOut.contains 0 = true ∧ (s.trained ports).modulesOut.contains 1 = true then s.trained ports
    else ({ s.trained ports with ready := true, domSize := if (s.trained ports).joinsDomain (s.trained ports).ports size index then size else 1, domIndex := if (s.trained ports).joinsDomain (s.trained ports).ports size index then index else 0 } : State).tell .ready) := by
  have hexec : exec (.bringUp ports size index) s = execBringUp ports size index s := rfl
  have htr : s.trained ports = { s.tested with ports := s.tested.portsUp ports } := by rw [State.portsUp_eq, State.trained]
  rw [hexec, htr]
  rfl

theorem State.trained_of_no_failures {s : State} (h : s.selfTest = []) (ports : BitVec 16) : s.trained ports = { s with ports := Claims.ofBits 16 (fun w => ports.getLsbD w && !(s.tested.link (48 + w)).down), powered := true } := by
  have hs : ({ s with selfTest := [] } : State) = s := by rw [← h]
  have ht : s.tested = { ({ s with selfTest := [] } : State) with powered := true } := by
    rw [State.tested, h]
    rfl
  rw [hs] at ht
  rw [State.trained, ht]

theorem mem_insertNat_self (a : Nat) (l : List Nat) : a ∈ insertNat a l := by
  induction l with
  | nil => simp [insertNat]
  | cons k l ih =>
    unfold insertNat
    split
    · simp
    · split
      · simp_all
      · simp [ih]

/-- A stack that failed its test has left service. -/
theorem State.mem_stacksOut_of_failed {s : State} {k : Nat} (hk : k < 8) (h : s.selfTest = [21088 + k]) (ports : BitVec 16) : k ∈ (s.trained ports).stacksOut := by
  have hu : s.unitLeaves (21088 + k) = s.stackLeaves k := by
    simp only [State.unitLeaves]
    rw [if_neg (by omega), if_neg (by omega), if_neg (by omega), if_neg (by omega), if_neg (by omega), if_neg (by omega), if_neg (by omega), if_neg (by omega), if_neg (by omega),
      if_neg (by omega), if_pos (by omega), Nat.add_sub_cancel_left]
  have hs : (s.trained ports).stacksOut = (s.selfTest.foldl State.unitLeaves s).stacksOut := rfl
  rw [hs, h, List.foldl_cons, List.foldl_nil, hu, State.stackLeaves]
  split
  · next hin => exact List.contains_iff_mem.1 hin
  · exact mem_insertNat_self k s.stacksOut

/-! ## The obligation -/

/-- Settles O60: each event by its cases; an image is measured against the counter that no unit which leaves service changes. -/
theorem management : Obligations.Management := by
  intro s
  refine ⟨?images, ?report, ?telemetry, ?settings, ?throttle, ?shutdown, ?inReset, ?bringUp⟩
  case images =>
    intro u v ok d hu inOrder tests w
    have hw : w = s.atImage u := by
      have htests : tests = testedFirst := by
        funext x
        exact (testedFirst_eq x).symm
      simp only [w, htests]
      rfl
    refine ⟨fun hearly => exec_firmwareImage_of_early hearly, fun hgood hin => ?_, fun hin hbad => ?_⟩
    · rw [hw]
      refine ⟨_, exec_firmwareImage_of_good hu hin hgood, ⟨_, List.mem_append_right _ (List.mem_singleton.2 rfl), rfl, rfl, rfl⟩, fun m hm hmu => ?_, fun h => ?_, rfl, rfl, rfl, rfl, rfl⟩
      · rcases List.mem_append.1 hm with hm | hm
        · simp [hmu] at hm
        · rw [List.mem_singleton.1 hm]
      · simp [State.takeImage, State.tell] at h
    · refine ⟨_, exec_firmwareImage_of_bad hu hin hbad, rfl, fun hready => ?_, rfl, rfl⟩
      have href : (s.refuseImage u).refused = insertNat u s.refused := if_neg (by simp [hready])
      rw [href]
      exact mem_insertNat_self u s.refused
  case report => exact fun nonce => ⟨_, _, rfl, rfl, rfl⟩
  case telemetry =>
    refine ⟨fun n hn => ⟨next_if_of_lt hn, next_if_of_lt hn⟩, fun n hn => next_if_of_lt hn, fun n hn => next_if_of_lt hn, fun n hn => ?_, fun n => ?_⟩
    · refine (next_if_of_lt (k := 2) hn).trans ?_
      cases s.modulesOut.contains n <;> rfl
    · obtain ⟨hout, hharts⟩ := State.foldl_tell (Tab.getD s.unitTimes n []) s
      exact ⟨_, rfl, hout, hharts⟩
  case settings =>
    intro v
    refine ⟨⟨fun h => ?_, fun h => ?_⟩, ⟨fun h => ?_, fun h => ?_⟩, ⟨fun h => ?_, fun h => ?_⟩, fun h => ⟨?_, ?_⟩⟩
    · exact congrArg Host.Outcome.next (if_pos h)
    · exact congrArg Host.Outcome.next (if_neg h)
    · exact congrArg Host.Outcome.next (if_pos h)
    · exact congrArg Host.Outcome.next (if_neg (Nat.not_le.2 h))
    · exact congrArg Host.Outcome.next (if_pos h)
    · exact congrArg Host.Outcome.next (if_neg h)
    · exact congrArg Host.Outcome.next (if_pos h)
    · exact congrArg Host.Outcome.next (if_pos h)
  case throttle =>
    intro die level hd hl
    exact ⟨fun hold => ⟨_, exec_throttleLevelChange_of_free hd hl hold, rfl, Tab.get?_set_self .., Tab.get?_set_self .., rfl⟩, fun c hc hlt => exec_throttleLevelChange_of_recent hc hlt⟩
  case shutdown =>
    intro die hd
    have hexec : exec (.thermalShutdown die) s = execThermalShutdown die s := rfl
    rw [hexec, execThermalShutdown, if_neg (Nat.not_le.2 hd)]
    exact ⟨_, rfl, rfl, rfl, rfl, rfl, rfl, rfl, rfl, rfl, rfl, rfl⟩
  case inReset =>
    intro rest hp hr
    refine ⟨fun i ha => ?_, fun n ha => ?_, fun n i ha => ?_⟩
    · rw [step_of_agenda_cons hp ha, turn]
      simp [hr]
    · rcases ha with ha | ha <;> rw [step_of_agenda_cons hp ha, turn] <;> simp [hr]
    · rw [step_of_agenda_cons hp ha, turn]
      simp [hr]
  case bringUp =>
    intro ports size index verified out up u joins mute
    have hu : u = s.trained ports := rfl
    have hv : verified ↔ s.verified = true := s.verified_iff.symm
    have hj : joins ↔ (s.trained ports).joinsDomain (s.trained ports).ports size index = true := ((s.trained ports).joinsDomain_iff _ size index).symm
    have hm : mute ↔ (s.trained ports).modulesOut.contains 0 = true ∧ (s.trained ports).modulesOut.contains 1 = true := by
      simp only [List.contains_iff_mem]
      rfl
    rw [exec_bringUp, hv, hj, hm, hu]
    refine ⟨fun h => by rw [if_pos h], fun hr hver => ?_, fun h => State.trained_of_no_failures h ports, fun k hk h => State.mem_stacksOut_of_failed hk h ports⟩
    rw [if_neg (by simp [hr, hver])]
    refine ⟨fun hmute => by rw [if_pos hmute], fun hmute hjoin => ?_, fun hmute hjoin => ?_⟩
    · rw [if_neg hmute, hjoin]
      rfl
    · rw [if_neg hmute, Bool.eq_false_iff.2 hjoin]
      rfl

end Sys2Proof.Machine
end

section
/-! Step groups and delay rings (O58): STEPADV, the advance of a strict and of a deadline group, and DRING's ring byte by byte. -/

namespace Sys2Proof.Machine

/-! ## Phasers after an update -/

@[simp] theorem State.phaser?_setPhaser_self (s : State) (id : Nat) (p : Phaser) : (s.setPhaser id p).phaser? id = some p := by
  simp [State.phaser?, State.setPhaser, Tab.get?_set_self]

@[simp] theorem State.phaser?_modMe (s : State) (f : Slot → Slot) (id : Nat) : (s.modMe f).phaser? id = s.phaser? id := rfl

theorem Phaser.member?_uid {p : Phaser} {uid : Nat} {m : Member} (h : p.member? uid = some m) : m ∈ p.members ∧ m.uid = uid :=
  ⟨List.mem_of_find?_eq_some h, by simpa using List.find?_some h⟩

/-! ## Phases complete (R268, R315) -/

/-- A fold whose every step leaves the start as it is. -/
theorem foldl_eq_self {α β : Type} {f : α → β → α} {a : α} {l : List β} (h : ∀ b ∈ l, f a b = a) : l.foldl f a = a := by
  induction l with
  | nil => rfl
  | cons b l ih => rw [List.foldl_cons, h b List.mem_cons_self, ih (fun b hb => h b (List.mem_cons_of_mem _ hb))]

/-- No pipeline controller is a member: none owes a signal here. -/
theorem State.signalCtl_of_tasks {s : State} {id : Nat} {q : Phaser} (hq : s.phaser? id = some q) (h : ∀ r ∈ q.members, r.uid < 2 ^ 64) : s.signalCtl id = s := by
  unfold State.signalCtl
  rw [hq]
  exact foldl_eq_self (fun m hm => if_pos (.inl (h m hm)))

theorem State.completePhase_of_stuck {s : State} {id : Nat} {forced : Bool} (h : s.completeOnce id forced = s) : s.completePhase id forced = s := by
  simp only [State.completePhase, State.completeGo, h, if_true]

theorem State.completePhase_of_once {s t : State} {id : Nat} {forced : Bool} (h : s.completeOnce id forced = t) (hp : (s.phaser? id).map (fun p => p.phase) ≠ (t.phaser? id).map (fun p => p.phase))
    (hc : t.signalCtl id = t) : s.completePhase id forced = t := by
  simp only [State.completePhase, State.completeGo, h, if_neg hp, hc, if_true]

/-- A signaller is awaited: the phase stays. -/
theorem State.completeOnce_of_late {s : State} {id : Nat} {p : Phaser} {r : Member} (hp : s.phaser? id = some p) (hr : r ∈ p.members) (hmode : r.sigMode = true) (hsig : r.sig = false) :
    s.completeOnce id false = s := by
  unfold State.completeOnce
  rw [hp]
  refine if_neg (fun h => ?_)
  have := List.all_eq_true.1 h.1 r (List.mem_filter.2 ⟨hr, hmode⟩)
  rw [hsig] at this
  exact Bool.false_ne_true this

/-- Every signaller of a strict group has signalled, and nothing holds its advance back: the step completes. -/
theorem State.completeOnce_of_all {s : State} {id : Nat} {p : Phaser} {g : StepGroup} {m : Member} (hp : s.phaser? id = some p) (hg : p.group = some g) (hper : g.period = 0)
    (hall : ∀ r ∈ p.members, r.sigMode = true → r.sig = true) (hm : m ∈ p.members) (hmode : m.sigMode = true) (hfree : s.stepFree id p = true) :
    s.completeOnce id false = s.setPhaser id p.next := by
  have hin : m ∈ p.members.filter (fun m => m.sigMode) := List.mem_filter.2 ⟨hm, hmode⟩
  have hall' : (p.members.filter (fun m => m.sigMode)).all (fun m => m.sig) = true :=
    List.all_eq_true.2 (fun r hr => hall r (List.mem_filter.1 hr).1 (List.mem_filter.1 hr).2)
  unfold State.completeOnce
  rw [hp]
  refine (if_pos ⟨hall', .inl (List.ne_nil_of_mem hin)⟩).trans ?_
  rw [hg]
  exact if_pos ⟨hper, hfree⟩

/-- With no event and no unarmed REWARD in flight nothing holds a step back. -/
theorem State.stepFree_of_quiet {s : State} (h : ∀ o ∈ s.ops, (∀ a b c d n x e l, o.kind ≠ .event a b c d n x e l) ∧ ∀ a b c d e, o.kind ≠ .reward a b c d e) (id : Nat) (p : Phaser) : s.stepFree id p = true := by
  refine List.all_eq_true.2 (fun o ho => ?_)
  have hno : o.holdsStep id p = false := by
    unfold Op.holdsStep
    split
    · next hk => exact ((h o ho).1 _ _ _ _ _ _ _ _ hk).elim
    · next hk => exact ((h o ho).2 _ _ _ _ _ hk).elim
    · rfl
  rw [hno, Bool.and_false]
  rfl

/-! ## STEPADV (R315, R316) -/

theorem State.designate_of_group {s : State} {id : Nat} {p : Phaser} {g : StepGroup} (hp : s.phaser? id = some p) (hg : p.group = some g) (period : Nat) : s.designate id period = s := by
  simp [State.designate, hp, hg]

theorem onMember_of_member {s : State} {d : BitVec 6} {id : Nat} {p : Phaser} {m : Member} (hn : s.named (s.getG d.toNat) = .ok (id, p)) (hm : p.member? s.me.uid = some m)
    (k : Nat → Phaser → Member → State → Act) : onMember d k s = k id p m s := by
  simp only [onMember, onPhaser, hn, hm]

/-- The state in which STEPADV has begun its wait in a step. -/
def State.stepBegun (s : State) (step : Nat) : State := s.modMe (fun x => { x with midway := some (x.pc, step) })

theorem stepWait_of_passed {s : State} {id step : Nat} {p : Phaser} (t : BitVec 6) (hp : s.phaser? id = some p) (h : step < p.phase) :
    stepWait t id step s = .done ((s.setPhaser id (p.modMember s.me.uid (fun m => { m with wp := step + 1 }))).putG t.toNat (p.wordAfter step)) := by
  simp only [stepWait, hp, if_pos h]

theorem stepWait_of_current {s : State} {id step : Nat} {p : Phaser} (t : BitVec 6) (hp : s.phaser? id = some p) (h : p.phase ≤ step) : stepWait t id step s = .wait s .step := by
  simp only [stepWait, hp, if_neg (Nat.not_lt.2 h)]

section Stepadv
variable {s : State} {f t : BitVec 6} {id : Nat} {p : Phaser} {g : StepGroup} {m : Member} (hp : s.phaser? id = some p) (hg : p.group = some g)
  (hn : s.named (s.getG f.toNat) = .ok (id, p)) (hm : p.member? s.me.uid = some m) (hr : ready (.stepadv f t) s = true)
include hn hm hr

theorem exec_stepadv_of_mode (h : m.sigMode = false ∨ m.waitMode = false) : exec (.stepadv f t) s = .next (s.trapMe (.stepadv f t) 1 (s.getG f.toNat)) := by
  have hexec : exec (.stepadv f t) s = execStepadv f t s := rfl
  rw [hexec, execStepadv, run_ready _ _ _ hr, onMember_of_member hn hm, if_pos (by simpa using h)]
  rfl

variable (hs : m.sigMode = true) (hw : m.waitMode = true)
include hs hw

theorem exec_stepadv_of_midway {n : Nat} (h : s.me.midway = some (s.me.pc, n)) : exec (.stepadv f t) s = .next (s.take (.stepadv f t) (stepWait t id n s)) := by
  have hexec : exec (.stepadv f t) s = execStepadv f t s := rfl
  have hmid : s.me.mid = some n := by simp [Slot.mid, h]
  rw [hexec, execStepadv, run_ready _ _ _ hr, onMember_of_member hn hm, if_neg (by simp [hs, hw]), hmid]

theorem exec_stepadv_of_stores (h : s.me.midway = none) (hacks : s.me.acks ≠ 0) : exec (.stepadv f t) s = .next (s.mark .release) := by
  have hexec : exec (.stepadv f t) s = execStepadv f t s := rfl
  have hmid : s.me.mid = none := by simp [Slot.mid, h]
  rw [hexec, execStepadv, run_ready _ _ _ hr, onMember_of_member hn hm, if_neg (by simp [hs, hw]), hmid]
  dsimp only
  rw [afterStores, if_neg hacks]
  rfl

include hp hg

theorem exec_stepadv_of_first (h : s.me.midway = none) (hacks : s.me.acks = 0) :
    exec (.stepadv f t) s = .next (s.take (.stepadv f t) (stepWait t id p.phase (if g.period = 0 then (s.stepBegun p.phase).signal id p s.me.uid else s.stepBegun p.phase))) := by
  have hexec : exec (.stepadv f t) s = execStepadv f t s := rfl
  have hmid : s.me.mid = none := by simp [Slot.mid, h]
  have hp' : (s.stepBegun p.phase).phaser? id = some p := hp
  have huid : (s.stepBegun p.phase).me.uid = s.me.uid := by rw [State.stepBegun, State.me_modMe]
  rw [hexec, execStepadv, run_ready _ _ _ hr, onMember_of_member hn hm, if_neg (by simp [hs, hw]), hmid]
  dsimp only
  rw [afterStores, if_pos hacks, State.designate_of_group hp hg]
  change Host.Outcome.next (s.take (.stepadv f t) (stepWait t id p.phase (if (match (((s.stepBegun p.phase).phaser? id).getD p).group with | some g => g.period == 0 | none => true) = true
    then (s.stepBegun p.phase).signal id (((s.stepBegun p.phase).phaser? id).getD p) (s.stepBegun p.phase).me.uid else s.stepBegun p.phase))) = _
  rw [hp', Option.getD_some, hg, huid]
  simp only [beq_iff_eq]

end Stepadv

/-! ## The signal of a strict group (R268, R315, R318) -/

/-- A member with its signal of the step. -/
def Phaser.signalled (p : Phaser) (uid : Nat) : Phaser := p.modMember uid (fun r => { r with sig := true })

theorem Phaser.mem_signalled {p : Phaser} {uid : Nat} {r : Member} : r ∈ (p.signalled uid).members ↔ ∃ q ∈ p.members, r = if q.uid = uid then { q with sig := true } else q := by
  simp only [Phaser.signalled, Phaser.modMember, List.mem_map, eq_comm]

theorem State.signal_of_late {s : State} {id uid : Nat} {p : Phaser} (hlate : ∃ r ∈ p.members, r.sigMode = true ∧ r.sig = false ∧ r.uid ≠ uid) :
    s.signal id p uid = s.setPhaser id (p.signalled uid) := by
  obtain ⟨r, hr, hmode, hsig, hne⟩ := hlate
  have hin : r ∈ (p.signalled uid).members := Phaser.mem_signalled.2 ⟨r, hr, by rw [if_neg hne]⟩
  exact State.completePhase_of_stuck (State.completeOnce_of_late (s.phaser?_setPhaser_self id _) hin hmode hsig)

theorem State.setPhaser_setPhaser (s : State) (id : Nat) (p q : Phaser) : (s.setPhaser id p).setPhaser id q = s.setPhaser id q := by
  simp [State.setPhaser, State.modCluster, State.cluster, Tab.set_set, Tab.getD, Tab.get?_set_self]

theorem State.signal_of_last {s : State} {id uid : Nat} {p : Phaser} {g : StepGroup} {m : Member} (hg : p.group = some g) (hper : g.period = 0) (hm : p.member? uid = some m) (hs : m.sigMode = true)
    (htask : ∀ r ∈ p.members, r.uid < 2 ^ 64) (hlast : ¬ ∃ r ∈ p.members, r.sigMode = true ∧ r.sig = false ∧ r.uid ≠ uid)
    (hquiet : ∀ o ∈ s.ops, (∀ a b c d n x e l, o.kind ≠ .event a b c d n x e l) ∧ ∀ a b c d e, o.kind ≠ .reward a b c d e) :
    s.signal id p uid = s.setPhaser id (p.signalled uid).next := by
  obtain ⟨hin, huid⟩ := Phaser.member?_uid hm
  have hp := s.phaser?_setPhaser_self id (p.signalled uid)
  have hall : ∀ r ∈ (p.signalled uid).members, r.sigMode = true → r.sig = true := by
    intro r hr hmode
    obtain ⟨q, hq, rfl⟩ := Phaser.mem_signalled.1 hr
    by_cases hu : q.uid = uid
    · rw [if_pos hu]
    · rw [if_neg hu] at hmode ⊢
      by_contra hsig
      exact hlast ⟨q, hq, hmode, by simpa using hsig, hu⟩
  have hmine : ({ m with sig := true } : Member) ∈ (p.signalled uid).members := Phaser.mem_signalled.2 ⟨m, hin, by rw [if_pos huid]⟩
  have honce := State.completeOnce_of_all (g := g) hp hg hper hall hmine hs (State.stepFree_of_quiet (s := s.setPhaser id (p.signalled uid)) hquiet id _)
  rw [State.setPhaser_setPhaser] at honce
  refine State.completePhase_of_once honce ?_ (State.signalCtl_of_tasks (s.phaser?_setPhaser_self id _) ?_)
  · rw [State.phaser?_setPhaser_self, State.phaser?_setPhaser_self]
    exact fun h => absurd (Option.some.inj h) (Nat.ne_of_lt (Nat.lt_succ_self p.phase))
  · intro r hr
    obtain ⟨q, hq, rfl⟩ := List.mem_map.1 hr
    obtain ⟨q', hq', rfl⟩ := Phaser.mem_signalled.1 hq
    have := htask q' hq'
    split <;> exact this

/-- The word of an advance (R318). -/
theorem bits_stepWord (n l d : Nat) : let w := r64 (n % 2 ^ 32 + min l 0xFFFF * 2 ^ 32 + min d 0xFFFF * 2 ^ 48)
    bits w 0 32 = n % 2 ^ 32 ∧ bits w 32 16 = min l 0xFFFF ∧ bits w 48 16 = min d 0xFFFF := by
  have hl : min l 0xFFFF < 2 ^ 16 := Nat.lt_of_le_of_lt (Nat.min_le_right ..) (by decide)
  have hd : min d 0xFFFF < 2 ^ 16 := Nat.lt_of_le_of_lt (Nat.min_le_right ..) (by decide)
  have hn : n % 2 ^ 32 < 2 ^ 32 := Nat.mod_lt _ (by decide)
  generalize min l 0xFFFF = l' at *
  generalize min d 0xFFFF = d' at *
  generalize n % 2 ^ 32 = n' at *
  simp only [bits, r64, BitVec.toNat_ofNat]
  omega

theorem Phaser.wordAfter_next {p : Phaser} {g : StepGroup} (hg : p.group = some g) :
    p.next.wordAfter p.phase = r64 ((p.phase + 1) % 2 ^ 32 + min g.late 0xFFFF * 2 ^ 32 + min g.discard 0xFFFF * 2 ^ 48) := by
  simp [Phaser.wordAfter, Phaser.next, hg]

theorem State.me_mark_midway (s : State) (w : Wait) : (s.mark w).me.midway = s.me.midway ∧ (s.mark w).me.pc = s.me.pc := by
  simp only [State.mark, State.me_modMe, and_self]

@[simp] theorem State.phaser?_mark (s : State) (w : Wait) (id : Nat) : (s.mark w).phaser? id = s.phaser? id := rfl

theorem State.stepBegun_waits (s : State) (step : Nat) (f : State → State) (hf : ∀ u, (f u).harts = u.harts ∧ (f u).cur = u.cur) :
    ((f (s.stepBegun step)).mark .step).me.midway = some (s.me.pc, step) ∧ ((f (s.stepBegun step)).mark .step).me.pc = s.me.pc := by
  obtain ⟨hm, hp⟩ := (f (s.stepBegun step)).me_mark_midway .step
  obtain ⟨hh, hc⟩ := hf (s.stepBegun step)
  have hme : (f (s.stepBegun step)).me = (s.stepBegun step).me := by
    rw [State.me, State.me, hc]
    exact State.slot_congr hh _
  rw [hm, hp, hme, State.stepBegun, State.me_modMe]
  exact ⟨rfl, rfl⟩

/-! ## A deadline group advances (R316) -/

theorem exec_stepTick {s : State} {id : Nat} {p : Phaser} {g : StepGroup} (hp : s.phaser? id = some p) (hg : p.group = some g) :
    exec (.stepTick id) s = .next (if g.period = 0 ∨ s.clk < g.nextTick then s else s.setPhaser id ({ p with group := some { g with nextTick := g.nextTick + g.period } } : Phaser).next) := by
  have hexec : exec (.stepTick id) s = execStepTick id s := rfl
  rw [hexec, execStepTick, hp]
  dsimp only
  rw [hg]

theorem stepAdvance : Claims.StepAdvance := by
  intro s f t id p g hp hg
  refine ⟨fun m hn hm hr => ⟨exec_stepadv_of_mode hn hm hr, fun hs hw => ⟨fun n hmid => ⟨fun hle => ?waits, fun hlt w hw' => ?passed⟩, exec_stepadv_of_stores hn hm hr hs hw, fun hmid hacks htask => ?first⟩⟩, fun h => ?early, fun hper hdue => ?tick⟩
  case waits =>
    rw [exec_stepadv_of_midway hn hm hr hs hw hmid, stepWait_of_current t hp hle]
    rfl
  case passed =>
    have hword : p.wordAfter n = w.2 := by simp [Phaser.wordAfter, hg, hw']
    rw [exec_stepadv_of_midway hn hm hr hs hw hmid, stepWait_of_passed t hp hlt, hword]
    exact ⟨_, rfl, rfl, State.phaser?_setPhaser_self ..⟩
  case first =>
    rw [exec_stepadv_of_first hp hg hn hm hr hs hw hmid hacks]
    refine ⟨fun hper => ?deadline, fun hper hlate => ?late, fun hper hlast hquiet => ?last⟩
    case deadline =>
      rw [if_neg hper, stepWait_of_current (s := s.stepBegun p.phase) t hp le_rfl]
      obtain ⟨h1, h2⟩ := s.stepBegun_waits p.phase (fun u => u) (fun _ => ⟨rfl, rfl⟩)
      exact ⟨_, rfl, h1, h2, hp⟩
    case late =>
      rw [if_pos hper, State.signal_of_late hlate, stepWait_of_current (p := p.signalled s.me.uid) (step := p.phase) t (State.phaser?_setPhaser_self ..) (le_refl p.phase)]
      obtain ⟨h1, h2⟩ := s.stepBegun_waits p.phase (fun u => u.setPhaser id (p.signalled s.me.uid)) (fun _ => ⟨rfl, rfl⟩)
      exact ⟨_, rfl, h1, h2, State.phaser?_setPhaser_self ..⟩
    case last =>
      rw [if_pos hper, State.signal_of_last (s := s.stepBegun p.phase) hg hper hm hs htask hlast hquiet,
        stepWait_of_passed t (State.phaser?_setPhaser_self ..) (Nat.lt_succ_self p.phase)]
      refine ⟨_, _, _, rfl, State.phaser?_setPhaser_self .., rfl, fun r hr => ?sigs, ?word⟩
      case sigs =>
        obtain ⟨a, ha, rfl⟩ := List.mem_map.1 hr
        obtain ⟨b, hb, rfl⟩ := List.mem_map.1 ha
        split <;> rfl
      case word =>
        have hword : (p.signalled s.me.uid).next.wordAfter p.phase = r64 ((p.phase + 1) % 2 ^ 32 + min g.late 0xFFFF * 2 ^ 32 + min g.discard 0xFFFF * 2 ^ 48) :=
          Phaser.wordAfter_next (p := p.signalled s.me.uid) hg
        rw [hword]
        obtain ⟨hn, hl, hd⟩ := bits_stepWord (p.phase + 1) g.late g.discard
        exact ⟨hn, hl, hd, by simp [Phaser.modMember, Phaser.next, Phaser.signalled, hg]⟩
  case early => rw [exec_stepTick hp hg, if_pos h]
  case tick =>
    rw [exec_stepTick hp hg, if_neg (by omega)]
    exact ⟨_, _, _, rfl, State.phaser?_setPhaser_self .., rfl, rfl, rfl, rfl, rfl, rfl, rfl, rfl⟩

/-! ## What an instruction without operations of its own in flight waits for, and monitors without waiters (R223, R243, R252) -/

theorem State.accessesHeld_of_none {s : State} (h : ∀ p ∈ s.ops, p.owner ≠ s.cur) : s.accessesHeld = false := by
  refine List.any_eq_false.2 (fun p hp => ?_)
  simp [h p hp]

theorem State.ownInFlight_of_none {s : State} (h : ∀ p ∈ s.ops, p.owner ≠ s.cur) (a n : Nat) : s.ownInFlight a n = false := by
  rw [State.ownInFlight, State.ownBusy, Bool.or_eq_false_iff]
  constructor <;> exact List.any_eq_false.2 (fun p hp => by simp [h p hp])

theorem State.wakeMonitors_of_none {s : State} (h : ∀ q ∈ s.ops, ∀ b w e, q.kind ≠ .waitw b w e) : s.wakeMonitors = s := by
  refine foldl_eq_self (fun o ho => ?_)
  split
  · next hk => exact absurd hk (h o ho _ _ _)
  · rfl

/-! ## DRING (R319, R320) -/

theorem dringBad_iff (cfg gw : Reg64) : let n := bits cfg 0 16
    let d := bits cfg 16 8
    let per := bits gw 32 32
    dringBad cfg gw = true ↔ (n = 0 ∧ (cfg ≠ 0 ∨ gw ≠ 0)) ∨ (n ≠ 0 ∧ (bits cfg 28 4 ≠ 0 ∨ bits gw 15 17 ≠ 0 ∨ d = 0 ∨ 64 < d ∨ 4096 < n ∨ 16384 < n * d ∨ 13 ≤ bits cfg 24 4 ∨ (1 ≤ per ∧ per < 256))) := by
  intro n d per
  by_cases hn : n = 0
  · simp [dringBad, n, hn]
  · simp only [dringBad, n, d, per, hn, if_false, Bool.or_eq_true, bne_iff_ne, decide_eq_true_eq, or_assoc, false_and, false_or, not_false_eq_true, true_and, ne_eq]

theorem Ring.bytes_eq (n d : Nat) : Ring.bytes n d = 64 * ((2 * n + 63) / 64) + 64 * ((n + 511) / 512) + 2 * n * d := by
  rw [Ring.bytes, Ring.slotsAt, Ring.maskAt, Nat.zero_add]

/-- The ring's potentials, mask bits and slots read +0, the bits behind its last mask bit and every other byte stay (R320). -/
theorem Ring.get_wipe (m : Mem) (b n d x : Nat) (hwf : m.wf = true) : (Ring.wipe m b n d).get x =
    if (b ≤ x ∧ x < b + 2 * n) ∨ (Ring.maskAt b n ≤ x ∧ x < Ring.maskAt b n + n / 8) ∨ (Ring.slotsAt b n ≤ x ∧ x < Ring.slotsAt b n + 2 * n * d) then 0
    else if x = Ring.maskAt b n + n / 8 ∧ n % 8 ≠ 0 then BitVec.ofNat 8 ((m.get x).toNat / 2 ^ (n % 8) * 2 ^ (n % 8)) else m.get x := by
  have hmask : b + 2 * n ≤ Ring.maskAt b n := by
    rw [Ring.maskAt]
    omega
  have hslots : n % 8 ≠ 0 → Ring.maskAt b n + n / 8 < Ring.slotsAt b n := by
    rw [Ring.slotsAt]
    omega
  have hwf' := Mem.wf_clear _ (Ring.maskAt b n) (Ring.maskAt b n + n / 8) (Mem.wf_clear _ b (b + 2 * n) hwf)
  rw [Ring.wipe]
  generalize Ring.maskAt b n = a at *
  generalize Ring.slotsAt b n = c at *
  rw [Mem.get_clear]
  by_cases hslot : c ≤ x ∧ x < c + 2 * n * d
  · rw [if_pos hslot, if_pos (.inr (.inr hslot))]
  · rw [if_neg hslot]
    by_cases hn : n % 8 = 0
    · rw [if_pos hn, Mem.get_clear, Mem.get_clear]
      by_cases ha : a ≤ x ∧ x < a + n / 8
      · rw [if_pos ha, if_pos (.inr (.inl ha))]
      · rw [if_neg ha]
        by_cases hb : b ≤ x ∧ x < b + 2 * n
        · rw [if_pos hb, if_pos (.inl hb)]
        · rw [if_neg hb, if_neg (by simp only [hb, ha, hslot, or_self, not_false_eq_true]), if_neg (fun h => h.2 hn)]
    · rw [if_neg hn, Mem.get_write _ _ _ _ _ hwf']
      by_cases hx : x = a + n / 8
      · subst hx
        have hlast : (Mem.clear a (a + n / 8) (Mem.clear b (b + 2 * n) m)).read (a + n / 8) 1 = (m.get (a + n / 8)).toNat := by
          simp only [Mem.read, Mem.get_clear]
          rw [if_neg (by omega), if_neg (by omega)]
          omega
        rw [if_pos (by omega), hlast, Nat.sub_self, Nat.pow_zero, Nat.div_one, if_neg (by omega), if_pos ⟨rfl, hn⟩]
      · rw [if_neg (by omega), Mem.get_clear, Mem.get_clear]
        by_cases ha : a ≤ x ∧ x < a + n / 8
        · rw [if_pos ha, if_pos (.inr (.inl ha))]
        · rw [if_neg ha]
          by_cases hb : b ≤ x ∧ x < b + 2 * n
          · rw [if_pos hb, if_pos (.inl hb)]
          · rw [if_neg hb, if_neg (by simp only [hb, ha, hslot, or_self, not_false_eq_true]), if_neg (fun h => hx h.1)]

/-- The storage errors in the words of a ring are gone (R290). -/
def State.mended (s : State) (o n d : Nat) : State := ((s.rewritten o (2 * n)).rewritten (Ring.maskAt o n) ((n + 7) / 8)).rewritten (Ring.slotsAt o n) (2 * n * d)

/-- The bytes of a ring are wiped. -/
def State.wiped (s : State) (o n d : Nat) : State := { s with spm := Ring.wipe s.spm o n d }

/-! Both leave all else as it is. -/

@[simp] theorem State.rewritten_spm (s : State) (a n : Nat) : (s.rewritten a n).spm = s.spm := rfl
@[simp] theorem State.rewritten_ops (s : State) (a n : Nat) : (s.rewritten a n).ops = s.ops := rfl
@[simp] theorem State.rewritten_harts (s : State) (a n : Nat) : (s.rewritten a n).harts = s.harts := rfl
@[simp] theorem State.rewritten_cur (s : State) (a n : Nat) : (s.rewritten a n).cur = s.cur := rfl
@[simp] theorem State.rewritten_clusters (s : State) (a n : Nat) : (s.rewritten a n).clusters = s.clusters := rfl
@[simp] theorem State.mended_spm (s : State) (o n d : Nat) : (s.mended o n d).spm = s.spm := by simp only [State.mended, State.rewritten_spm]
@[simp] theorem State.mended_ops (s : State) (o n d : Nat) : (s.mended o n d).ops = s.ops := by simp only [State.mended, State.rewritten_ops]
@[simp] theorem State.mended_harts (s : State) (o n d : Nat) : (s.mended o n d).harts = s.harts := by simp only [State.mended, State.rewritten_harts]
@[simp] theorem State.mended_cur (s : State) (o n d : Nat) : (s.mended o n d).cur = s.cur := by simp only [State.mended, State.rewritten_cur]
@[simp] theorem State.mended_phaser? (s : State) (o n d id : Nat) : (s.mended o n d).phaser? id = s.phaser? id := by
  simp only [State.phaser?, State.cluster, State.mended, State.rewritten_clusters]
@[simp] theorem State.wiped_spm (s : State) (o n d : Nat) : (s.wiped o n d).spm = Ring.wipe s.spm o n d := rfl
@[simp] theorem State.wiped_ops (s : State) (o n d : Nat) : (s.wiped o n d).ops = s.ops := rfl
@[simp] theorem State.wiped_harts (s : State) (o n d : Nat) : (s.wiped o n d).harts = s.harts := rfl
@[simp] theorem State.wiped_cur (s : State) (o n d : Nat) : (s.wiped o n d).cur = s.cur := rfl
@[simp] theorem State.wiped_phaser? (s : State) (o n d id : Nat) : (s.wiped o n d).phaser? id = s.phaser? id := rfl

/-- The ring of an instruction's words at an offset, for a slot's launch. -/
def ringOf (cfg gw : Reg64) (o : Nat) (lid : Word) : Ring :=
  { base := o, n := bits cfg 0 16, d := bits cfg 16 8, fade := bits cfg 24 4, theta := bits cfg 32 16, vreset := bits cfg 48 16, ph := bits gw 0 15, lid := lid }

/-- The part with the bytes of a ring at offset o, and its group (R320). -/
def State.withRing (s : State) (cfg gw : Reg64) (o : Nat) : State :=
  (((s.designate (bits gw 0 15) (bits gw 32 32)).mended o (bits cfg 0 16) (bits cfg 16 8)).wiped o (bits cfg 0 16) (bits cfg 16 8)).wakeMonitors

/-- The ring is the issuing core's. -/
def State.bindRing (s : State) (cfg gw : Reg64) (o : Nat) : State := s.modCore (cidOf s.cur) (fun c => { c with ring := some (ringOf cfg gw o s.me.lid) })

/-- DRING at an offset of its core, once nothing holds its accesses. -/
def dringAt (t : BitVec 6) (cfg gw : Reg64) (o : Nat) (s : State) : Act :=
  if s.ownInFlight o (Ring.bytes (bits cfg 0 16) (bits cfg 16 8)) then .wait s .pending
  else match (if s.holds (s.pidOf s.cur) (bits gw 0 15 / 512) then s.phaser? (bits gw 0 15) else none) with
    | none => .done (dringResult t 1 s)
    | some p => if p.group.any (fun g => g.period != bits gw 32 32) then .done (dringResult t 2 s) else .done (dringResult t 0 ((s.withRing cfg gw o).bindRing cfg gw o))

/-- DRING on the words of its group. -/
def dringBody (f t : BitVec 6) (b cfg gw : Reg64) (s : State) : Act :=
  if dringBad cfg gw then .trapOn (inGrp f [1, 2]) 1 ((Instr.dring f t).word.zeroExtend 64)
  else if bits cfg 0 16 = 0 then .done (dringResult t 0 (s.modCore (cidOf s.cur) (fun c => { c with ring := none })))
  else if b.toNat % 64 ≠ 0 then .trap 2 b
  else match s.inOwnCore b (Ring.bytes (bits cfg 0 16) (bits cfg 16 8)) with
    | none => .trap 3 b
    | some o => afterAcquire s .acquire (dringAt t cfg gw o)

theorem exec_dring {s : State} {f t : BitVec 6} (hr : ready (.dring f t) s = true) :
    exec (.dring f t) s = .next (s.take (.dring f t) (dringBody f t (s.getG f.toNat) (s.getG (f.toNat + 1)) (s.getG (f.toNat + 2)) s)) := by
  have hexec : exec (.dring f t) s = execDring f t s := rfl
  rw [hexec, execDring, run_ready _ _ _ hr]
  rfl

section Dring
variable {s : State} {f t : BitVec 6} {b cfg gw : Reg64}

theorem dringBody_of_zero (h : ¬ dringBad cfg gw = true) (hn : bits cfg 0 16 = 0) :
    dringBody f t b cfg gw s = .done (dringResult t 0 (s.modCore (cidOf s.cur) (fun c => { c with ring := none }))) := by
  rw [dringBody, if_neg h, if_pos hn]

theorem dringBody_of_misaligned (h : ¬ dringBad cfg gw = true) (hn : bits cfg 0 16 ≠ 0) (hb : b.toNat % 64 ≠ 0) : dringBody f t b cfg gw s = .trap 2 b := by
  rw [dringBody, if_neg h, if_neg hn, if_pos hb]

theorem dringBody_of_outside (h : ¬ dringBad cfg gw = true) (hn : bits cfg 0 16 ≠ 0) (hb : b.toNat % 64 = 0) (ho : s.inOwnCore b (Ring.bytes (bits cfg 0 16) (bits cfg 16 8)) = none) :
    dringBody f t b cfg gw s = .trap 3 b := by
  rw [dringBody, if_neg h, if_neg hn, if_neg (not_not_intro hb), ho]

variable {o : Nat} (h : ¬ dringBad cfg gw = true) (hn : bits cfg 0 16 ≠ 0) (hb : b.toNat % 64 = 0) (ho : s.inOwnCore b (Ring.bytes (bits cfg 0 16) (bits cfg 16 8)) = some o)
  (hown : ∀ p ∈ s.ops, p.owner ≠ s.cur)
include h hn hb ho hown

theorem dringBody_of_place : dringBody f t b cfg gw s = dringAt t cfg gw o s := by
  rw [dringBody, if_neg h, if_neg hn, if_neg (not_not_intro hb), ho]
  dsimp only
  rw [afterAcquire, State.accessesHeld_of_none hown, if_neg Bool.false_ne_true]

theorem dringBody_of_no_phaser (hq : (if s.holds (s.pidOf s.cur) (bits gw 0 15 / 512) = true then s.phaser? (bits gw 0 15) else none) = none) :
    dringBody f t b cfg gw s = .done (dringResult t 1 s) := by
  rw [dringBody_of_place h hn hb ho hown, dringAt, State.ownInFlight_of_none hown, if_neg Bool.false_ne_true, hq]

variable {p : Phaser} (hm : s.holds (s.pidOf s.cur) (bits gw 0 15 / 512) = true) (hp : s.phaser? (bits gw 0 15) = some p)
include hm hp

theorem dringBody_of_period (hg : p.group.any (fun g => g.period != bits gw 32 32) = true) : dringBody f t b cfg gw s = .done (dringResult t 2 s) := by
  rw [dringBody_of_place h hn hb ho hown, dringAt, State.ownInFlight_of_none hown, if_neg Bool.false_ne_true, if_pos hm, hp]
  exact if_pos hg

theorem dringBody_of_group (hg : ¬ p.group.any (fun g => g.period != bits gw 32 32) = true) : dringBody f t b cfg gw s = .done (dringResult t 0 ((s.withRing cfg gw o).bindRing cfg gw o)) := by
  rw [dringBody_of_place h hn hb ho hown, dringAt, State.ownInFlight_of_none hown, if_neg Bool.false_ne_true, if_pos hm, hp]
  exact if_neg hg

end Dring

theorem State.designate_frame (s : State) (id period : Nat) : (s.designate id period).ops = s.ops ∧ (s.designate id period).harts = s.harts ∧ (s.designate id period).cur = s.cur ∧ (s.designate id period).spm = s.spm
    ∧ (s.designate id period).cores = s.cores := by
  unfold State.designate
  split
  · split <;> exact ⟨rfl, rfl, rfl, rfl, rfl⟩
  · exact ⟨rfl, rfl, rfl, rfl, rfl⟩

/-- A group is bound to its period; the phaser of none becomes one of that period, its signals cleared (R314). -/
theorem State.phaser?_designate {s : State} {id : Nat} {p : Phaser} (hp : s.phaser? id = some p) (period : Nat) :
    ∃ q, (s.designate id period).phaser? id = some q ∧ q.phase = p.phase ∧ (p.group = none → q.members = p.members.map (fun m => { m with sig := false })) ∧ (p.group ≠ none → q.members = p.members)
      ∧ (p.group = none → q.group = some { period := period, nextTick := s.clk + period }) ∧ (p.group ≠ none → q.group = p.group) := by
  cases hg : p.group with
  | none =>
    have hd : s.designate id period = s.setPhaser id { p with group := some { period := period, nextTick := s.clk + period }, members := p.members.map (fun m => { m with sig := false }) } := by
      simp [State.designate, hp, hg]
    rw [hd]
    exact ⟨_, State.phaser?_setPhaser_self .., rfl, fun _ => rfl, fun h => absurd rfl h, fun _ => rfl, fun h => absurd rfl h⟩
  | some g =>
    rw [State.designate_of_group hp hg]
    exact ⟨p, hp, rfl, fun h => absurd h (Option.some_ne_none g), fun _ => rfl, fun h => absurd h (Option.some_ne_none g), fun _ => hg⟩

/-- Where no monitor waits, a ring is bound by its group and its wiped bytes alone. -/
theorem State.withRing_of_none {s : State} (h : ∀ q ∈ s.ops, ∀ b w e, q.kind ≠ .waitw b w e) (cfg gw : Reg64) (o : Nat) :
    s.withRing cfg gw o = ((s.designate (bits gw 0 15) (bits gw 32 32)).mended o (bits cfg 0 16) (bits cfg 16 8)).wiped o (bits cfg 0 16) (bits cfg 16 8) := by
  obtain ⟨hops, _⟩ := s.designate_frame (bits gw 0 15) (bits gw 32 32)
  refine State.wakeMonitors_of_none ?_
  rw [State.wiped_ops, State.mended_ops, hops]
  exact h

@[simp] theorem State.phaser?_modCore (s : State) (c id : Nat) (f : CoreState → CoreState) : (s.modCore c f).phaser? id = s.phaser? id := rfl

@[simp] theorem State.core_modCore_self (s : State) (c : Nat) (f : CoreState → CoreState) : (s.modCore c f).core c = f (s.core c) := by
  simp [State.core, State.modCore, Tab.getD, Tab.get?_set_self]

/-- What a bound ring leaves: its bytes, its place in the core, and its group. -/
theorem State.bound_spec {s : State} {cfg gw : Reg64} {o : Nat} {p : Phaser} (hw : ∀ q ∈ s.ops, ∀ b w e, q.kind ≠ .waitw b w e) (hwf : s.spm.wf = true) (hp : s.phaser? (bits gw 0 15) = some p) :
    let n := bits cfg 0 16
    let d := bits cfg 16 8
    let u := (s.withRing cfg gw o).bindRing cfg gw o
    (∀ x, u.spm.get x = if (o ≤ x ∧ x < o + 2 * n) ∨ (Ring.maskAt o n ≤ x ∧ x < Ring.maskAt o n + n / 8) ∨ (Ring.slotsAt o n ≤ x ∧ x < Ring.slotsAt o n + 2 * n * d) then 0
      else if x = Ring.maskAt o n + n / 8 ∧ n % 8 ≠ 0 then BitVec.ofNat 8 ((s.spm.get x).toNat / 2 ^ (n % 8) * 2 ^ (n % 8)) else s.spm.get x)
    ∧ u.harts = s.harts ∧ (u.core (cidOf s.cur)).ring = some (ringOf cfg gw o s.me.lid)
    ∧ ∃ q, u.phaser? (bits gw 0 15) = some q ∧ q.phase = p.phase ∧ (p.group = none → q.members = p.members.map (fun m => { m with sig := false })) ∧ (p.group ≠ none → q.members = p.members)
      ∧ (p.group = none → q.group = some { period := bits gw 32 32, nextTick := s.clk + bits gw 32 32 }) ∧ (p.group ≠ none → q.group = p.group) := by
  intro n d u
  obtain ⟨_, hharts, hcur, hspm, _⟩ := s.designate_frame (bits gw 0 15) (bits gw 32 32)
  have hring := State.withRing_of_none hw cfg gw o
  have hh : (s.withRing cfg gw o).harts = s.harts := by rw [hring, State.wiped_harts, State.mended_harts, hharts]
  have hc : (s.withRing cfg gw o).cur = s.cur := by rw [hring, State.wiped_cur, State.mended_cur, hcur]
  have hlid : (s.withRing cfg gw o).me.lid = s.me.lid := by rw [State.me, hc, State.slot_congr hh, State.me]
  refine ⟨fun x => ?bytes, hh, ?ring, ?group⟩
  case bytes =>
    have hu : u.spm = Ring.wipe s.spm o n d := by
      have hbind : u.spm = (s.withRing cfg gw o).spm := rfl
      rw [hbind, hring, State.wiped_spm, State.mended_spm, hspm]
    rw [hu]
    exact Ring.get_wipe s.spm o n d x hwf
  case ring =>
    rw [← hc]
    exact (congrArg CoreState.ring (State.core_modCore_self ..)).trans (by rw [hlid])
  case group =>
    have hu : u.phaser? (bits gw 0 15) = (s.designate (bits gw 0 15) (bits gw 32 32)).phaser? (bits gw 0 15) := by
      have hbind : u.phaser? (bits gw 0 15) = (s.withRing cfg gw o).phaser? (bits gw 0 15) := rfl
      rw [hbind, hring, State.wiped_phaser?, State.mended_phaser?]
    rw [hu]
    exact State.phaser?_designate hp _

theorem delayRing {s : State} (f t : BitVec 6) (ht : t ≠ 0) : let i := Instr.dring f t
    let b := s.getG f.toNat
    let cfg := s.getG (f.toNat + 1)
    let gw := s.getG (f.toNat + 2)
    let n := bits cfg 0 16
    let d := bits cfg 16 8
    let id := bits gw 0 15
    let per := bits gw 32 32
    let size := 64 * ((2 * n + 63) / 64) + 64 * ((n + 511) / 512) + 2 * n * d
    let wrong := (n = 0 ∧ (cfg ≠ 0 ∨ gw ≠ 0)) ∨ (n ≠ 0 ∧ (bits cfg 28 4 ≠ 0 ∨ bits gw 15 17 ≠ 0 ∨ d = 0 ∨ 64 < d ∨ 4096 < n ∨ 16384 < n * d ∨ 13 ≤ bits cfg 24 4 ∨ (1 ≤ per ∧ per < 256)))
    let answers := fun (u : State) (st : Nat) => exec i s = .next ((u.putG t.toNat (r64 st)).commit i)
    let mine := s.holds (s.pidOf s.cur) (id / 512) = true
    ready i s = true →
    (wrong → exec i s = .next (s.trapMe i 0x01 (i.word.zeroExtend 64)))
    ∧ (¬ wrong → n = 0 → answers (s.modCore (cidOf s.cur) (fun c => { c with ring := none })) 0)
    ∧ (¬ wrong → n ≠ 0 → b.toNat % 64 ≠ 0 → exec i s = .next (s.trapMe i 0x02 b))
    ∧ (¬ wrong → n ≠ 0 → b.toNat % 64 = 0 → s.inOwnCore b size = none → exec i s = .next (s.trapMe i 0x03 b))
    ∧ (∀ o, ¬ wrong → n ≠ 0 → b.toNat % 64 = 0 → s.inOwnCore b size = some o → Claims.unheld s → s.spm.wf = true → (∀ p ∈ s.ops, p.owner ≠ s.cur) →
      ((¬ mine ∨ s.phaser? id = none) → answers s 1)
      ∧ (∀ p, mine → s.phaser? id = some p → (∃ g, p.group = some g ∧ g.period ≠ per) → answers s 2)
      ∧ (∀ p, mine → s.phaser? id = some p → (∀ g, p.group = some g → g.period = per) → (∀ q ∈ s.ops, ∀ b w e, q.kind ≠ .waitw b w e) →
          ∃ u : State, answers u 0 ∧ (let mask := o + 64 * ((2 * n + 63) / 64)
              let slots := mask + 64 * ((n + 511) / 512)
              ∀ x, u.spm.get x = if (o ≤ x ∧ x < o + 2 * n) ∨ (mask ≤ x ∧ x < mask + n / 8) ∨ (slots ≤ x ∧ x < slots + 2 * n * d) then 0
                else if x = mask + n / 8 ∧ n % 8 ≠ 0 then BitVec.ofNat 8 ((s.spm.get x).toNat / 2 ^ (n % 8) * 2 ^ (n % 8)) else s.spm.get x) ∧ u.harts = s.harts
            ∧ (u.core (cidOf s.cur)).ring = some { base := o, n := n, d := d, fade := bits cfg 24 4, theta := bits cfg 32 16, vreset := bits cfg 48 16, ph := id, lid := s.me.lid }
            ∧ (∃ q, u.phaser? id = some q ∧ q.phase = p.phase ∧ (p.group = none → q.members = p.members.map (fun m => { m with sig := false })) ∧ (p.group ≠ none → q.members = p.members) ∧ (p.group = none → q.group = some { period := per, nextTick := s.clk + per }) ∧ (p.group ≠ none → q.group = p.group)))) := by
  intro i b cfg gw n d id per size wrong answers mine hr
  have hwrong : dringBad cfg gw = true ↔ wrong := dringBad_iff cfg gw
  have hsize : Ring.bytes n d = size := Ring.bytes_eq n d
  have hresult : ∀ st u, dringResult t st u = u.putG t.toNat (r64 st) := fun st u => if_pos ht
  rw [← hwrong, ← hsize]
  have hrun : exec i s = .next (s.take i (dringBody f t b cfg gw s)) := exec_dring hr
  refine ⟨fun h => ?_, fun h hn => ?_, fun h hn hb => ?_, fun h hn hb ho => ?_, fun o h hn hb ho _ hwf hown => ⟨fun hno => ?_, fun p hm hp hg => ?_, fun p hm hp hg hw => ?_⟩⟩
  · rw [hrun, dringBody, if_pos h]
    rfl
  · rw [dringBody_of_zero h hn, hresult] at hrun
    exact hrun
  · rw [dringBody_of_misaligned h hn hb] at hrun
    exact hrun
  · rw [dringBody_of_outside h hn hb ho] at hrun
    exact hrun
  · have hq : (if s.holds (s.pidOf s.cur) (id / 512) = true then s.phaser? id else none) = none := by
      by_cases hm : mine
      · rw [if_pos hm]
        exact hno.resolve_left (not_not_intro hm)
      · exact if_neg hm
    rw [dringBody_of_no_phaser h hn hb ho hown hq, hresult] at hrun
    exact hrun
  · obtain ⟨g, hg, hper⟩ := hg
    rw [dringBody_of_period h hn hb ho hown hm hp (by simpa [hg] using hper), hresult] at hrun
    exact hrun
  · have hany : ¬ p.group.any (fun (g : StepGroup) => g.period != per) = true := by
      cases hpg : p.group with
      | none => simp
      | some g => simp [hg g hpg]
    rw [dringBody_of_group h hn hb ho hown hm hp hany, hresult] at hrun
    exact ⟨_, hrun, State.bound_spec hw hwf hp⟩

end Sys2Proof.Machine
end

section
/-! NRN (O58): one rounding to FP16 has 16 bits and, but under RSTO, does not depend on the random state; an update written neuron by neuron; and
the instruction. -/

namespace Sys2Proof.Machine

/-! ## One rounding to FP16 (R47, R50) -/

/-- A number below 2^L rounded to a multiple of 2^u is at most 2^j such multiples, where L + e − u ≤ j. -/
theorem roundMul_le {mode : Rnd} {k rnd : Nat} {neg : Bool} {m L j : Nat} {e u : Int} (hm : m < 2 ^ L) (hj : (L : Int) + e - u ≤ j) : (roundMul mode k rnd neg m e u).1 ≤ 2 ^ j := by
  unfold roundMul
  split
  · next hle =>
    have hpow : L + (e - u).toNat ≤ j := by omega
    calc m * 2 ^ (e - u).toNat ≤ 2 ^ L * 2 ^ (e - u).toNat := Nat.mul_le_mul_right _ hm.le
      _ = 2 ^ (L + (e - u).toNat) := (Nat.pow_add ..).symm
      _ ≤ 2 ^ j := Nat.pow_le_pow_right (by decide) hpow
  · next hlt =>
    have hpow : L ≤ j + (u - e).toNat := by omega
    have hq : m / 2 ^ (u - e).toNat < 2 ^ j := by
      rw [Nat.div_lt_iff_lt_mul (Nat.two_pow_pos _), ← Nat.pow_add]
      exact Nat.lt_of_lt_of_le hm (Nat.pow_le_pow_right (by decide) hpow)
    have hup : ∀ b : Bool, (if b = true then m / 2 ^ (u - e).toNat + 1 else m / 2 ^ (u - e).toNat) ≤ 2 ^ j := by
      intro b
      split
      · exact hq
      · exact hq.le
    exact hup _

theorem fp16_signed_lt {neg : Bool} {mag : Nat} (h : mag < 2 ^ 15) : fp16.signed neg mag < 2 ^ 16 := by
  cases neg <;> simp [Fmt.signed, fp16] <;> omega

/-- A normal FP16 number below 2^16 packs into 15 bits. -/
theorem fp16_pack_lt {t : Nat} {u : Int} (ht : t ≤ 2 ^ 11) (hu : 2 ^ 10 ≤ t → u ≤ 5) (htop : t = 2 ^ 11 → u ≤ 4) (h10 : -25 ≤ u) : fp16.pack t u < 2 ^ 15 := by
  have hm : fp16.mant = 10 := rfl
  have hp : fp16.prec = 11 := rfl
  have hb : fp16.bias = 15 := rfl
  simp only [Fmt.pack, hm, hp, hb]
  split
  · omega
  · split
    · have := hu (by omega)
      dsimp only
      omega
    · have := htop (by omega)
      dsimp only
      omega

theorem fp16_overflow_lt (mode : Rnd) (sat neg : Bool) : (fp16.overflow mode sat neg).1 < 2 ^ 16 := by
  have hi : fp16.hasInf = true := rfl
  unfold Fmt.overflow
  rw [hi]
  split
  · exact fp16_signed_lt (by decide)
  · exact fp16_signed_lt (by decide)

theorem fp16_roundFin_bits (mode : Rnd) (sat : Bool) (k rnd : Nat) (neg : Bool) (m : Nat) (e : Int) : (fp16.roundFin mode sat k rnd neg m e).1 =
    if dyadicLt 2047 5 (roundMul mode k rnd neg m e (leadExp m e - 10)).1 (leadExp m e - 10) = true then (fp16.overflow mode sat neg).1
    else fp16.signed neg (fp16.pack (roundMul mode k rnd neg m e (max (leadExp m e) (-14) - 10)).1 (max (leadExp m e) (-14) - 10)) := by
  rw [Fmt.roundFin]
  exact apply_ite Prod.fst ..

theorem fp16_roundFin_lt (mode : Rnd) (sat : Bool) (k rnd : Nat) (neg : Bool) (m : Nat) (e : Int) : (fp16.roundFin mode sat k rnd neg m e).1 < 2 ^ 16 := by
  rw [fp16_roundFin_bits]
  split
  · exact fp16_overflow_lt mode sat neg
  · next hfit =>
    refine fp16_signed_lt ?_
    have hlog : m < 2 ^ (Nat.log2 m + 1) := Nat.lt_log2_self
    have hlead : leadExp m e = (Nat.log2 m : Int) + e := rfl
    generalize leadExp m e = x at *
    rcases le_or_gt (-14) x with hx | hx
    · rw [max_eq_left hx]
      have ht : (roundMul mode k rnd neg m e (x - 10)).1 ≤ 2 ^ 11 := roundMul_le hlog (by omega)
      generalize (roundMul mode k rnd neg m e (x - 10)).1 = t at *
      have hle : 15 ≤ x → t * 2 ^ (x - 15).toNat ≤ 2047 := by
        intro h15
        simp only [dyadicLt, if_pos (show (5 : Int) ≤ x - 10 by omega), decide_eq_true_eq, Nat.not_lt] at hfit
        rwa [show (x - 10 - 5).toNat = (x - 15).toNat by omega] at hfit
      refine fp16_pack_lt ht (fun h10 => ?_) (fun htop => ?_) (by omega)
      · by_contra h16
        have h2 : 2 ^ 1 ≤ 2 ^ (x - 15).toNat := Nat.pow_le_pow_right (by decide) (by omega)
        have := hle (by omega)
        have := Nat.mul_le_mul h10 h2
        omega
      · by_contra h15
        have h1 : 1 ≤ 2 ^ (x - 15).toNat := Nat.two_pow_pos _
        have := hle (by omega)
        have := Nat.mul_le_mul (Nat.le_of_eq htop.symm) h1
        omega
    · rw [max_eq_right hx.le]
      have ht : (roundMul mode k rnd neg m e (-14 - 10)).1 ≤ 2 ^ 10 := roundMul_le hlog (by omega)
      exact fp16_pack_lt (by omega) (fun _ => by decide) (fun _ => by decide) (by decide)

/-- A rounded FP16 number has 16 bits. -/
theorem fp16_round_lt (mode : Rnd) (sat : Bool) (q : Reg64) (x : XNum) : (fp16.round mode sat q x).bits < 2 ^ 16 := by
  have hi : fp16.hasInf = true := rfl
  cases x with
  | nan s => exact (show fp16.qnan < 2 ^ 16 by decide)
  | inf neg =>
    simp only [Fmt.round, hi]
    split
    · exact fp16_signed_lt (by decide)
    · exact fp16_signed_lt (by decide)
  | zero neg => exact fp16_signed_lt (by decide)
  | fin neg m e => cases mode <;> exact fp16_roundFin_lt ..

/-- Only RSTO draws (R50): under another mode the state stays, and the bits do not depend on it. -/
theorem Fmt.round_srs {mode : Rnd} (h : mode ≠ .rsto) (f : Fmt) (sat : Bool) (q : Reg64) (x : XNum) : (f.round mode sat q x).srs = q ∧ (f.round mode sat q x).bits = (f.round mode sat 0 x).bits := by
  cases x with
  | nan s => exact ⟨rfl, rfl⟩
  | inf neg => cases sat <;> cases hf : f.hasInf <;> simp [Fmt.round, hf]
  | zero neg => exact ⟨rfl, rfl⟩
  | fin neg m e =>
    cases mode with
    | rsto => exact absurd rfl h
    | _ => exact ⟨rfl, rfl⟩

/-! ## Memory bytes -/

theorem Mem.read_one (m : Mem) (a : Nat) : m.read a 1 = (m.get a).toNat := by
  simp [Mem.read]

/-- The mask byte with bit j set or cleared. -/
def maskBit (fire : Bool) (b j : Nat) : Nat := if fire then b ||| 2 ^ j else b - (b &&& 2 ^ j)

/-- A power of two that a number holds, taken from it, clears one bit. -/
theorem testBit_sub_two_pow {b j : Nat} (h : b.testBit j = true) (i : Nat) : (b - 2 ^ j).testBit i = (b.testBit i && decide (i ≠ j)) := by
  obtain ⟨q, hq⟩ : ∃ q, b / 2 ^ j = 2 * q + 1 := ⟨b / 2 ^ j / 2, by
    have := Nat.testBit_eq_decide_div_mod_eq ▸ h
    have := of_decide_eq_true this
    omega⟩
  have hr : b % 2 ^ j < 2 ^ j := Nat.mod_lt _ (Nat.two_pow_pos j)
  have hb : b = 2 ^ j * (2 * q + 1) + b % 2 ^ j := by rw [← hq, Nat.div_add_mod]
  generalize b % 2 ^ j = r at *
  have hsub : b - 2 ^ j = 2 ^ j * (2 * q) + r := by
    rw [hb, Nat.mul_add, Nat.mul_one]
    omega
  rw [hsub, hb, Nat.testBit_two_pow_mul_add _ hr, Nat.testBit_two_pow_mul_add _ hr]
  by_cases hij : i < j
  · simp [hij, Nat.ne_of_lt hij]
  · rw [if_neg hij, if_neg hij]
    by_cases he : i = j
    · subst he
      simp
    · obtain ⟨t, ht⟩ : ∃ t, i - j = t + 1 := ⟨i - j - 1, by omega⟩
      rw [ht, Nat.testBit_succ, Nat.testBit_succ, show 2 * q / 2 = (2 * q + 1) / 2 by omega]
      simp [he]

theorem testBit_sub_and_two_pow (b j i : Nat) : (b - (b &&& 2 ^ j)).testBit i = (b.testBit i && decide (i ≠ j)) := by
  cases hj : b.testBit j with
  | false =>
    have hand : b &&& 2 ^ j = 0 := by
      refine Nat.eq_of_testBit_eq (fun i => ?_)
      by_cases h : j = i
      · subst h
        simp [hj]
      · simp [h]
    rw [hand, Nat.sub_zero]
    by_cases h : i = j
    · subst h
      simp [hj]
    · simp [h]
  | true =>
    have hand : b &&& 2 ^ j = 2 ^ j := by
      refine Nat.eq_of_testBit_eq (fun i => ?_)
      by_cases h : j = i
      · subst h
        simp [hj]
      · simp [h]
    rw [hand, testBit_sub_two_pow hj]

theorem testBit_maskBit (fire : Bool) (b j i : Nat) : (maskBit fire b j).testBit i = if i = j then fire else b.testBit i := by
  cases fire
  · rw [maskBit, if_neg Bool.false_ne_true, testBit_sub_and_two_pow]
    by_cases h : i = j <;> simp [h]
  · rw [maskBit, if_pos rfl, Nat.testBit_or, Nat.testBit_two_pow]
    by_cases h : i = j
    · simp [h]
    · simp [h, Ne.symm h]

/-! ## NRN (R322) -/

/-- The potential of neuron n after its update, and whether it reaches the threshold. -/
def Ring.potential (r : Ring) (m : Mem) (k : Nat) (mode : Rnd) (n : Nat) : Nat :=
  (fp16.round mode false 0 (exactSum (mode == .rdn) [(exactMul (fading r.fade) (fp16.decode (Mem.read m (r.base + 2 * n) 2))).1, fp16.decode (Mem.read m (r.cell k n) 2)]).1).bits

def Ring.fires (r : Ring) (v : Nat) : Bool := !(fp16.decode v).isNan && !(fp16.decode r.theta).isNan && numLe (fp16.decode r.theta) (fp16.decode v)

theorem Ring.potential_lt (r : Ring) (m : Mem) (k : Nat) (mode : Rnd) (n : Nat) : r.potential m k mode n < 2 ^ 16 := fp16_round_lt ..

section Neurons
variable {r : Ring} {k : Nat} {mode : Rnd} (hmode : mode ≠ .rsto) (m : Mem)
include hmode

theorem neuronsGo_of_finite (watch : Bool) (c a : Nat) (q : Reg64) (h : watch = false ∨ ∀ n, a ≤ n → n < a + c → fp16.nonFinite (r.potential m k mode n) = false) :
    ∃ fl, neuronsGo m r k mode watch c a q = .ok ((List.range' a c).map (fun n => (n, r.potential m k mode n)), fl, q) := by
  induction c generalizing a with
  | zero => exact ⟨_, rfl⟩
  | succ c ih =>
    obtain ⟨fl, hrest⟩ := ih (a + 1) (h.imp_right (fun h n h1 h2 => h n (by omega) (by omega)))
    have hround := Fmt.round_srs hmode fp16 false q (exactSum (mode == .rdn) [(exactMul (fading r.fade) (fp16.decode (Mem.read m (r.base + 2 * a) 2))).1, fp16.decode (Mem.read m (r.cell k a) 2)]).1
    obtain ⟨hsrs, hbits⟩ := hround
    have hgo : ¬ (watch = true ∧ fp16.nonFinite (r.potential m k mode a) = true) := by
      rintro ⟨hw, hn⟩
      rcases h with h | h
      · exact absurd hw (by rw [h]; exact Bool.false_ne_true)
      · rw [h a le_rfl (by omega)] at hn
        exact Bool.false_ne_true hn
    rw [neuronsGo, hbits, hsrs, hrest]
    exact ⟨_, if_neg hgo⟩

theorem neuronsGo_of_infinite (c a : Nat) (q : Reg64) {n : Nat} (h1 : a ≤ n) (h2 : n < a + c) (hn : fp16.nonFinite (r.potential m k mode n) = true)
    (hfirst : ∀ j, a ≤ j → j < n → fp16.nonFinite (r.potential m k mode j) = false) : neuronsGo m r k mode true c a q = .error n := by
  induction c generalizing a with
  | zero => omega
  | succ c ih =>
    obtain ⟨hsrs, hbits⟩ := Fmt.round_srs hmode fp16 false q (exactSum (mode == .rdn) [(exactMul (fading r.fade) (fp16.decode (Mem.read m (r.base + 2 * a) 2))).1, fp16.decode (Mem.read m (r.cell k a) 2)]).1
    rw [neuronsGo, hbits, hsrs]
    rcases Nat.eq_or_lt_of_le h1 with rfl | hlt
    · exact if_pos ⟨rfl, hn⟩
    · have hgo : ¬ (true = true ∧ fp16.nonFinite (r.potential m k mode a) = true) := by
        rw [hfirst a le_rfl hlt]
        exact fun h => Bool.false_ne_true h.2
      refine (if_neg hgo).trans ?_
      rw [ih (a + 1) hlt (by omega) (fun j hj => hfirst j (by omega))]

end Neurons

/-! ## The memory after an update -/

section Written
variable {r : Ring} (hv : r.vreset < 2 ^ 16)

theorem Ring.place {n : Nat} (hn : n < r.n) (k : Nat) : r.base + 2 * n + 2 ≤ Ring.maskAt r.base r.n ∧ Ring.maskAt r.base r.n + n / 8 < Ring.slotsAt r.base r.n ∧ Ring.slotsAt r.base r.n ≤ r.cell k n := by
  rw [Ring.cell, Ring.slotsAt, Ring.maskAt]
  omega

theorem Ring.cell_add (k n : Nat) : r.cell k n = r.cell k 0 + 2 * n := by
  rw [Ring.cell, Ring.cell]
  omega

theorem neuronWrite_eq (k : Nat) (m : Mem) (n v : Nat) : neuronWrite r k m (n, v) =
    Mem.write (Mem.write (Mem.write m (r.base + 2 * n) 2 (if r.fires v = true then r.vreset else v)) (Ring.maskAt r.base r.n + n / 8) 1 (maskBit (r.fires v) (Mem.read m (Ring.maskAt r.base r.n + n / 8) 1) (n % 8)))
      (r.cell k n) 2 0 := rfl

variable {m : Mem} (hwf : m.wf = true) {k n v : Nat} (hn : n < r.n)
include hwf

theorem neuronWrite_wf : (neuronWrite r k m (n, v)).wf = true := by
  rw [neuronWrite_eq]
  exact Mem.wf_write _ _ _ _ (Mem.wf_write _ _ _ _ (Mem.wf_write _ _ _ _ hwf))

/-- Bytes other than the neuron's own stay. -/
theorem get_neuronWrite_ne {x : Nat} (h1 : x < r.base + 2 * n ∨ r.base + 2 * n + 2 ≤ x) (h2 : x ≠ Ring.maskAt r.base r.n + n / 8) (h3 : x < r.cell k n ∨ r.cell k n + 2 ≤ x) :
    (neuronWrite r k m (n, v)).get x = m.get x := by
  rw [neuronWrite_eq, Mem.get_write _ _ _ _ _ (Mem.wf_write _ _ _ _ (Mem.wf_write _ _ _ _ hwf)), if_neg (by omega), Mem.get_write _ _ _ _ _ (Mem.wf_write _ _ _ _ hwf), if_neg (by omega),
    Mem.get_write _ _ _ _ _ hwf, if_neg (by omega)]

theorem read_cell_neuronWrite : Mem.read (neuronWrite r k m (n, v)) (r.cell k n) 2 = 0 := by
  rw [neuronWrite_eq, Mem.read_write_self _ _ _ _ (Mem.wf_write _ _ _ _ (Mem.wf_write _ _ _ _ hwf)), Nat.zero_mod]

include hn

include hv in
theorem read_potential_neuronWrite (hlt : v < 2 ^ 16) : Mem.read (neuronWrite r k m (n, v)) (r.base + 2 * n) 2 = if r.fires v = true then r.vreset else v := by
  obtain ⟨h1, h2, h3⟩ := Ring.place hn k
  rw [neuronWrite_eq, Mem.read_write_ne _ _ _ _ _ _ (Mem.wf_write _ _ _ _ (Mem.wf_write _ _ _ _ hwf)) (by omega), Mem.read_write_ne _ _ _ _ _ _ (Mem.wf_write _ _ _ _ hwf) (by omega),
    Mem.read_write_self _ _ _ _ hwf]
  refine Nat.mod_eq_of_lt ?_
  split <;> assumption

/-- The neuron's mask bit is set where it fires; the other bits of the byte stay. -/
theorem getLsbD_mask_neuronWrite {j : Nat} (hj : j < 8) : ((neuronWrite r k m (n, v)).get (Ring.maskAt r.base r.n + n / 8)).getLsbD j = if j = n % 8 then r.fires v else (m.get (Ring.maskAt r.base r.n + n / 8)).getLsbD j := by
  obtain ⟨h1, h2, h3⟩ := Ring.place hn k
  rw [neuronWrite_eq, Mem.get_write _ _ _ _ _ (Mem.wf_write _ _ _ _ (Mem.wf_write _ _ _ _ hwf)), if_neg (by omega), Mem.get_write _ _ _ _ _ (Mem.wf_write _ _ _ _ hwf), if_pos (by omega), Nat.sub_self,
    Nat.pow_zero, Nat.div_one, BitVec.getLsbD_ofNat, testBit_maskBit, decide_eq_true hj, Bool.true_and, Mem.read_one]
  rfl

end Written

/-- The neurons a to a + c − 1 have their new potentials, mask bits and cleared slots in m', and every other byte is m's. -/
structure Ring.Updated (r : Ring) (k a c : Nat) (v : Nat → Nat) (m m' : Mem) : Prop where
  wf : m'.wf = true
  potential : ∀ n, a ≤ n → n < a + c → Mem.read m' (r.base + 2 * n) 2 = if r.fires (v n) = true then r.vreset else v n
  cell : ∀ n, a ≤ n → n < a + c → Mem.read m' (r.cell k n) 2 = 0
  mask : ∀ n, a ≤ n → n < a + c → (m'.get (Ring.maskAt r.base r.n + n / 8)).getLsbD (n % 8) = r.fires (v n)
  rest : ∀ x, (∀ n, a ≤ n → n < a + c → x ≠ r.base + 2 * n ∧ x ≠ r.base + 2 * n + 1 ∧ x ≠ r.cell k n ∧ x ≠ r.cell k n + 1 ∧ x ≠ Ring.maskAt r.base r.n + n / 8) → m'.get x = m.get x

theorem Ring.updated_foldl {r : Ring} (hv : r.vreset < 2 ^ 16) {k a : Nat} {v : Nat → Nat} (hlt : ∀ n, v n < 2 ^ 16) {m : Mem} (hwf : m.wf = true) (c : Nat) (hac : a + c ≤ r.n) :
    r.Updated k a c v m (((List.range' a c).map (fun n => (n, v n))).foldl (neuronWrite r k) m) := by
  induction c with
  | zero => exact ⟨hwf, fun n _ _ => by omega, fun n _ _ => by omega, fun n _ _ => by omega, fun x _ => rfl⟩
  | succ c ih =>
    have hprev := ih (by omega)
    rw [List.range'_1_concat, List.map_append, List.foldl_append, List.map_cons, List.map_nil, List.foldl_cons, List.foldl_nil]
    generalize ((List.range' a c).map (fun n => (n, v n))).foldl (neuronWrite r k) m = u at hprev ⊢
    have hN : a + c < r.n := by omega
    have hcell := fun n => Ring.cell_add (r := r) k n
    refine ⟨neuronWrite_wf hprev.wf, fun n h1 h2 => ?potential, fun n h1 h2 => ?cell, fun n h1 h2 => ?mask, fun x hx => ?rest⟩
    case potential =>
      by_cases hn : n = a + c
      · subst hn
        exact read_potential_neuronWrite hv hprev.wf hN (hlt _)
      · obtain ⟨hp, hm, hs⟩ := Ring.place hN k
        obtain ⟨hp', hm', hs'⟩ := Ring.place (show n < r.n by omega) k
        rw [← hprev.potential n h1 (by omega)]
        exact Mem.read_congr _ _ _ _ (fun x hx1 hx2 => get_neuronWrite_ne hprev.wf (by omega) (by omega) (by omega))
    case cell =>
      by_cases hn : n = a + c
      · subst hn
        exact read_cell_neuronWrite hprev.wf
      · obtain ⟨hp, hm, hs⟩ := Ring.place hN k
        obtain ⟨hp', hm', hs'⟩ := Ring.place (show n < r.n by omega) k
        rw [← hprev.cell n h1 (by omega)]
        have hc := hcell n
        have hc' := hcell (a + c)
        exact Mem.read_congr _ _ _ _ (fun x hx1 hx2 => get_neuronWrite_ne hprev.wf (by omega) (by omega) (by omega))
    case mask =>
      by_cases hn : n = a + c
      · subst hn
        rw [getLsbD_mask_neuronWrite hprev.wf hN (by omega), if_pos rfl]
      · rw [← hprev.mask n h1 (by omega)]
        by_cases hbyte : n / 8 = (a + c) / 8
        · rw [hbyte, getLsbD_mask_neuronWrite hprev.wf hN (by omega), if_neg (by omega)]
        · obtain ⟨hp, hm, hs⟩ := Ring.place hN k
          obtain ⟨hp', hm', hs'⟩ := Ring.place (show n < r.n by omega) k
          rw [get_neuronWrite_ne hprev.wf (by omega) (by omega) (by omega)]
    case rest =>
      obtain ⟨h1, h2, h3, h4, h5⟩ := hx (a + c) (by omega) (by omega)
      rw [get_neuronWrite_ne hprev.wf (by omega) h5 (by omega)]
      exact hprev.rest x (fun n hn1 hn2 => hx n hn1 (by omega))

/-! ## The instruction (R322) -/

theorem State.eccDouble_of_none {s : State} (h : s.softErrors = []) (a n : Nat) : s.eccDouble a n = none := by
  rw [State.eccDouble, h]
  rfl

theorem State.eccCorrect_of_none {s : State} (h : s.softErrors = []) (a n : Nat) : s.eccCorrect a n = s := by
  have hs : ({ s with softErrors := [] } : State) = s := by rw [← h]
  rw [State.eccCorrect, h]
  exact hs

theorem withSpmEcc_of_none {s : State} (h : s.softErrors = []) (l : List (Nat × Nat)) (k : State → Act) : withSpmEcc s l k = k s := by
  have hfind : l.findSome? (fun r => s.eccDouble r.1 r.2) = none := List.findSome?_eq_none_iff.2 (fun r _ => State.eccDouble_of_none h r.1 r.2)
  rw [withSpmEcc, hfind]
  exact congrArg k (foldl_eq_self (fun r _ => State.eccCorrect_of_none h r.1 r.2))

/-- The potentials, mask bits and slots of neurons are written, over any storage error of their mask bytes. -/
def State.neuronsWritten (s : State) (r : Ring) (k a c : Nat) (l : List (Nat × Nat)) : State :=
  { s.rewritten (Ring.maskAt r.base r.n + a / 8) ((a + c - 1) / 8 - a / 8 + 1) with spm := l.foldl (neuronWrite r k) s.spm }

/-- NRN on its core's ring, for a ring that nothing holds. -/
def neuronUpdate (r : Ring) (a c : Nat) (s : State) : Act :=
  match neuronsGo s.spm r (s.ringStep (s.pidOf s.cur) r % r.d) s.me.mode s.me.watch c a s.me.srs with
  | .error n => .trap 9 (r64 n)
  | .ok (l, fl, q) => .done ((s.neuronsWritten r (s.ringStep (s.pidOf s.cur) r % r.d) a c l).wakeMonitors.withFlags fl q)

/-- The scratchpad ranges that NRN reads. -/
def neuronReads (r : Ring) (k a c : Nat) : List (Nat × Nat) := [(r.base + 2 * a, 2 * c), (Ring.maskAt r.base r.n + a / 8, (a + c - 1) / 8 - a / 8 + 1), (r.cell k a, 2 * c)]

/-- NRN on the words of its group. -/
def nrnBody (f : BitVec 6) (a c : Nat) (s : State) : Act :=
  match (s.core (cidOf s.cur)).ring with
  | none => .trapOn [] 1 ((Instr.nrn f).word.zeroExtend 64)
  | some r =>
    if r.n < a + c then .trap 1 ((Instr.nrn f).word.zeroExtend 64)
    else if c = 0 then .done s
    else afterAcquire s .acquire (fun s =>
      if s.ownInFlight r.base (Ring.bytes r.n r.d) then .wait s .pending else withSpmEcc s (neuronReads r (s.ringStep (s.pidOf s.cur) r % r.d) a c) (neuronUpdate r a c))

theorem exec_nrn {s : State} {f : BitVec 6} (hr : ready (.nrn f) s = true) :
    exec (.nrn f) s = .next (s.take (.nrn f) (nrnBody f (s.getG f.toNat).toNat (s.getG (f.toNat + 1)).toNat s)) := by
  have hexec : exec (.nrn f) s = execNrn f s := rfl
  rw [hexec, execNrn, run_ready _ _ _ hr]
  rfl

section Nrn
variable {s : State} {f : BitVec 6} {a c : Nat} {r : Ring} (hring : (s.core (cidOf s.cur)).ring = some r)
include hring

theorem nrnBody_of_range (h : r.n < a + c) : nrnBody f a c s = .trap 1 ((Instr.nrn f).word.zeroExtend 64) := by
  rw [nrnBody, hring]
  exact if_pos h

theorem nrnBody_of_zero (h : a + c ≤ r.n) (hc : c = 0) : nrnBody f a c s = .done s := by
  rw [nrnBody, hring]
  exact (if_neg (Nat.not_lt.2 h)).trans (if_pos hc)

theorem nrnBody_of_free (h : a + c ≤ r.n) (hc : c ≠ 0) (hown : ∀ p ∈ s.ops, p.owner ≠ s.cur) (hsoft : s.softErrors = []) : nrnBody f a c s = neuronUpdate r a c s := by
  rw [nrnBody, hring]
  refine (if_neg (Nat.not_lt.2 h)).trans ((if_neg hc).trans ?_)
  rw [afterAcquire, State.accessesHeld_of_none hown, if_neg Bool.false_ne_true, State.ownInFlight_of_none hown, if_neg Bool.false_ne_true, withSpmEcc_of_none hsoft]

end Nrn

/-- Neurons updated, with the flags they raise. -/
theorem neuronUpdate_of_finite {s : State} {r : Ring} {a c : Nat} (hmode : s.me.mode ≠ .rsto) (hw : ∀ q ∈ s.ops, ∀ b w e, q.kind ≠ .waitw b w e)
    (h : s.me.watch = false ∨ ∀ n, a ≤ n → n < a + c → fp16.nonFinite (r.potential s.spm (s.ringStep (s.pidOf s.cur) r % r.d) s.me.mode n) = false) :
    ∃ u : State, neuronUpdate r a c s = .done u ∧ u.me.win = s.me.win ∧ u.me.srs = s.me.srs ∧ u.ext = s.ext
      ∧ u.spm = ((List.range' a c).map (fun n => (n, r.potential s.spm (s.ringStep (s.pidOf s.cur) r % r.d) s.me.mode n))).foldl (neuronWrite r (s.ringStep (s.pidOf s.cur) r % r.d)) s.spm := by
  obtain ⟨fl, hgo⟩ := neuronsGo_of_finite (r := r) (k := s.ringStep (s.pidOf s.cur) r % r.d) hmode s.spm s.me.watch c a s.me.srs h
  rw [neuronUpdate, hgo]
  generalize (List.range' a c).map (fun n => (n, r.potential s.spm (s.ringStep (s.pidOf s.cur) r % r.d) s.me.mode n)) = l
  generalize s.ringStep (s.pidOf s.cur) r % r.d = k
  have hwake : (s.neuronsWritten r k a c l).wakeMonitors = s.neuronsWritten r k a c l := State.wakeMonitors_of_none hw
  have hme : (s.neuronsWritten r k a c l).me = s.me := rfl
  dsimp only
  rw [hwake]
  refine ⟨_, rfl, ?_, ?_, rfl, rfl⟩
  · rw [State.withFlags, State.me_modMe, hme]
  · rw [State.withFlags, State.me_modMe]

theorem neuronUpdate_of_infinite {s : State} {r : Ring} {a c n : Nat} (hmode : s.me.mode ≠ .rsto) (hwatch : s.me.watch = true) (h1 : a ≤ n) (h2 : n < a + c)
    (hn : fp16.nonFinite (r.potential s.spm (s.ringStep (s.pidOf s.cur) r % r.d) s.me.mode n) = true)
    (hfirst : ∀ j, a ≤ j → j < n → fp16.nonFinite (r.potential s.spm (s.ringStep (s.pidOf s.cur) r % r.d) s.me.mode j) = false) : neuronUpdate r a c s = .trap 9 (r64 n) := by
  rw [neuronUpdate, hwatch, neuronsGo_of_infinite hmode s.spm c a s.me.srs h1 h2 hn hfirst]

theorem Ring.fires_iff (r : Ring) (v : Nat) : r.fires v = true ↔ (fp16.decode v).isNan = false ∧ (fp16.decode r.theta).isNan = false ∧ numLe (fp16.decode r.theta) (fp16.decode v) = true := by
  simp [Ring.fires, and_assoc]

theorem ringsAndNeurons : Claims.RingsAndNeurons := by
  intro s
  refine ⟨delayRing, ?_⟩
  intro f i a c hr
  have hrun : exec i s = .next (s.take i (nrnBody f a c s)) := exec_nrn hr
  refine ⟨fun hring => ?noRing, ?ring⟩
  case noRing =>
    rw [hrun, nrnBody, hring]
    rfl
  intro r hring mask k cell lam v fires
  refine ⟨fun h => ?range, fun h hc => ?zero, fun h hc _ hvr _ hsoft hown hmode hwf hw => ⟨fun hfin => ?updated, fun hwatch n h1 h2 hn hfirst => ?watched⟩⟩
  case range =>
    rw [hrun, nrnBody_of_range hring h]
    rfl
  case zero =>
    rw [hrun, nrnBody_of_zero hring h hc]
    rfl
  case updated =>
    obtain ⟨u, hu, hwin, hsrs, hext, hspm⟩ := neuronUpdate_of_finite hmode hw hfin
    have hup := Ring.updated_foldl (r := r) (k := k) (a := a) hvr (fun n => Ring.potential_lt r s.spm k s.me.mode n) hwf c h
    rw [← hspm] at hup
    have hfires : ∀ n, r.fires (v n) = true ↔ fires n := fun n => r.fires_iff (v n)
    refine ⟨u, ?_, hwin, hsrs, hext, fun n h1 h2 => ⟨fun hf => ?_, fun hf => ?_, hup.cell n h1 h2, ?_⟩, fun x hx => hup.rest x (fun n h1 h2 => hx n h1 h2)⟩
    · rw [hrun, nrnBody_of_free hring h hc hown hsoft, hu]
      rfl
    · rw [hup.potential n h1 h2]
      exact if_pos ((hfires n).2 hf)
    · rw [hup.potential n h1 h2]
      exact if_neg (fun hf' => hf ((hfires n).1 hf'))
    · have hmask := hup.mask n h1 h2
      exact (iff_of_eq (congrArg (fun b => b = true) hmask)).trans (hfires n)
  case watched =>
    rw [hrun, nrnBody_of_free hring h hc hown hsoft, neuronUpdate_of_infinite hmode hwatch h1 h2 hn hfirst]
    rfl

end Sys2Proof.Machine
end

section
/-! Events and WAITEV (O58): EVSEND, the deposit and what an event's end leaves as it is, and the notices that WAITEV takes; with the obligation. -/

namespace Sys2Proof.Machine

/-! ## EVSEND (R317, R321) -/

/-- EVSEND on the words of its group. -/
def evsendBody (f : BitVec 6) (n : BitVec 1) (a b : Reg64) (s : State) : Act :=
  if bits a 14 2 ≠ 0 ∨ bits a 28 36 ≠ 0 then .trapOn (inGrp f [0]) 1 ((Instr.evsend f n).word.zeroExtend 64)
  else if bits b 22 42 ≠ 0 ∨ bits b 16 6 = 0 then .trapOn (inGrp f [1]) 1 ((Instr.evsend f n).word.zeroExtend 64)
  else if ¬ s.holds (s.pidOf s.cur) (bits a 0 14 / 256) ∨ s.coresOut.contains (bits a 0 14) ∨ s.clustersOut.contains (bits a 0 14 / 256) then .trap 3 a
  else .done (s.post (.event (bits a 0 14) (bits a 16 12) (bits b 0 16) (bits b 16 6) (n == 1) (s.stepGroup s.me.uid) (s.stepOf s.me.uid) (s.strictGroups s.me.uid)) (fun q => { q with mute := true }))

theorem exec_evsend {s : State} {f : BitVec 6} {n : BitVec 1} (hr : ready (.evsend f n) s = true) :
    exec (.evsend f n) s = .next (s.take (.evsend f n) (evsendBody f n (s.getG f.toNat) (s.getG (f.toNat + 1)) s)) := by
  have hexec : exec (.evsend f n) s = execEvsend f n s := rfl
  rw [hexec, execEvsend, run_ready _ _ _ hr]
  rfl

theorem eventSend {s : State} (f : BitVec 6) (n : BitVec 1) : let i := Instr.evsend f n
    let a := s.getG f.toNat
    let b := s.getG (f.toNat + 1)
    let cid := bits a 0 14
    let d := bits b 16 6
    let wrong := bits a 14 2 ≠ 0 ∨ bits a 28 36 ≠ 0 ∨ bits b 22 42 ≠ 0 ∨ d = 0
    let there := s.holds (s.pidOf s.cur) (cid / 256) = true ∧ s.coresOut.contains cid = false ∧ s.clustersOut.contains (cid / 256) = false
    ready i s = true →
    (wrong → exec i s = .next (s.trapMe i 0x01 (i.word.zeroExtend 64)))
    ∧ (¬ wrong → ¬ there → exec i s = .next (s.trapMe i 0x03 a))
    ∧ (¬ wrong → there → ∃ u : State, ∃ o : Op, ∃ l, exec i s = .next (u.commit i) ∧ u.ops = s.ops ++ [o] ∧ o.id = s.nextId ∧ o.owner = s.cur
        ∧ o.kind = .event cid (bits a 16 12) (bits b 0 16) d (n == 1) (s.stepGroup s.me.uid) (s.stepOf s.me.uid) l ∧ u.harts = s.harts ∧ u.spm = s.spm) := by
  intro i a b cid d wrong there hr
  have hrun : exec i s = .next (s.take i (evsendBody f n a b s)) := exec_evsend hr
  have hfields : ¬ wrong → ¬ (bits a 14 2 ≠ 0 ∨ bits a 28 36 ≠ 0) ∧ ¬ (bits b 22 42 ≠ 0 ∨ bits b 16 6 = 0) := by
    intro h
    exact ⟨fun h' => h (h'.imp_right .inl), fun h' => h (.inr (.inr h'))⟩
  have hthere : (¬ s.holds (s.pidOf s.cur) (bits a 0 14 / 256) = true ∨ s.coresOut.contains (bits a 0 14) = true ∨ s.clustersOut.contains (bits a 0 14 / 256) = true) ↔ ¬ there := by
    simp only [there, cid, not_and_or, Bool.not_eq_false]
  refine ⟨fun h => ?_, fun h hno => ?_, fun h hyes => ?_⟩
  · rw [hrun, evsendBody]
    by_cases ha : bits a 14 2 ≠ 0 ∨ bits a 28 36 ≠ 0
    · rw [if_pos ha]
      rfl
    · rw [if_neg ha, if_pos (h.resolve_left (fun h' => ha (.inl h')) |>.resolve_left (fun h' => ha (.inr h')))]
      rfl
  · obtain ⟨ha, hb⟩ := hfields h
    rw [hrun, evsendBody, if_neg ha, if_neg hb, if_pos (hthere.2 hno)]
    rfl
  · obtain ⟨ha, hb⟩ := hfields h
    rw [evsendBody, if_neg ha, if_neg hb, if_neg (fun h' => hthere.1 h' hyes)] at hrun
    exact ⟨_, _, _, hrun, rfl, rfl, rfl, rfl, rfl, rfl⟩

/-! ## What an event's end leaves as it is (R315, R318) -/

/-- The two states differ in their clusters at most. -/
def State.SameButClusters (s t : State) : Prop := t = { s with clusters := t.clusters }

theorem State.SameButClusters.refl (s : State) : s.SameButClusters s := rfl

theorem State.SameButClusters.trans {s t u : State} (h : s.SameButClusters t) (h' : t.SameButClusters u) : s.SameButClusters u := by
  rw [State.SameButClusters] at h h' ⊢
  rw [h']
  generalize u.clusters = c
  rw [h]

theorem State.sameButClusters_setPhaser (s : State) (id : Nat) (p : Phaser) : s.SameButClusters (s.setPhaser id p) := rfl

theorem State.sameButClusters_foldl {β : Type} {f : State → β → State} (hf : ∀ (s : State) (b : β), s.SameButClusters (f s b)) (l : List β) (s : State) : s.SameButClusters (l.foldl f s) := by
  induction l generalizing s with
  | nil => exact .refl s
  | cons b l ih => exact (hf s b).trans (ih (f s b))

theorem State.sameButClusters_countEvent (s : State) (pid : BitVec 16) (group : Option Nat) (late : Bool) : s.SameButClusters (s.countEvent pid group late) := by
  unfold State.countEvent
  split
  · exact .refl s
  · split
    · exact s.sameButClusters_setPhaser _ _
    · exact .refl s

theorem State.sameButClusters_completeOnce (s : State) (id : Nat) (forced : Bool) : s.SameButClusters (s.completeOnce id forced) := by
  unfold State.completeOnce
  split
  · exact .refl s
  · dsimp only
    split
    · split
      · exact s.sameButClusters_setPhaser _ _
      · split
        · exact s.sameButClusters_setPhaser _ _
        · exact .refl s
    · exact .refl s

theorem State.sameButClusters_signalCtl (s : State) (id : Nat) : s.SameButClusters (s.signalCtl id) := by
  unfold State.signalCtl
  split
  · exact .refl s
  · refine State.sameButClusters_foldl (fun s m => ?_) _ _
    split
    · exact .refl s
    · dsimp only
      split
      · exact .refl s
      · split
        · exact .trans (t := s.modCluster _ _) rfl (State.sameButClusters_setPhaser _ _ _)
        · exact .refl s

theorem State.sameButClusters_completeGo (f : Nat) (s : State) (id : Nat) (forced : Bool) : s.SameButClusters (State.completeGo f s id forced) := by
  induction f generalizing s forced with
  | zero => exact .refl s
  | succ f ih =>
    have honce := s.sameButClusters_completeOnce id forced
    unfold State.completeGo
    dsimp only
    split
    · exact honce
    · split
      · exact honce
      · exact (honce.trans (State.sameButClusters_signalCtl _ id)).trans (ih _ _)

theorem State.sameButClusters_pokeGroups (s : State) : s.SameButClusters s.pokeGroups :=
  State.sameButClusters_foldl (fun s id => s.sameButClusters_completeGo _ id false) _ s

section Same
variable {s t : State} (h : s.SameButClusters t)
include h

theorem State.SameButClusters.ops : t.ops = s.ops := by rw [h]
theorem State.SameButClusters.harts : t.harts = s.harts := by rw [h]
theorem State.SameButClusters.spm : t.spm = s.spm := by rw [h]
theorem State.SameButClusters.cores : t.cores = s.cores := by rw [h]
theorem State.SameButClusters.softErrors : t.softErrors = s.softErrors := by rw [h]

end Same

/-- An event that has ended is in flight no longer, and leaves all but clusters as its deposit left it. -/
theorem State.event_ended (u : State) (id : Nat) : ((u.dropOp id).pokeGroups).op? id = none ∧ ((u.dropOp id).pokeGroups).harts = u.harts ∧ ((u.dropOp id).pokeGroups).spm = u.spm ∧ ((u.dropOp id).pokeGroups).cores = u.cores := by
  have hsame := (u.dropOp id).sameButClusters_pokeGroups
  refine ⟨?_, hsame.harts, hsame.spm, hsame.cores⟩
  rw [State.op?, hsame.ops, State.dropOp, List.find?_eq_none]
  intro o ho
  simpa using (List.mem_filter.1 ho).2

/-! ## The deposit (R321) -/

/-- The ring of a core that takes an event of a group for a neuron, so many steps later. -/
def State.liveRing (s : State) (pid : BitVec 16) (cid neuron d : Nat) (group : Option Nat) : Option Ring :=
  match (s.core cid).ring, group with
  | some r, some id => if r.ph = id ∧ ((s.groupOf pid id).bind (fun p => p.group)).isSome ∧ neuron < r.n ∧ d < r.d then some r else none
  | _, _ => none

/-- The deposit at a ring. -/
def State.depositAt (s : State) (pid : BitVec 16) (cid neuron val d : Nat) (ntf : Bool) (group : Option Nat) (u : Nat) (r : Ring) : State :=
  let st := s.ringStep pid r
  let s := if u < st then s.countEvent pid group true else s
  let k := (st + d) % r.d
  let a := r.cell k neuron
  if (s.eccDouble a 2).isSome then (s.spmRecord a).countEvent pid group false
  else
    let s := ((s.eccCorrect a 2).writeSpm a 2 (fp16.round .rne false 0 (exactSum false [fp16.decode (Mem.read s.spm a 2), fp16.decode val]).1).bits).wakeMonitors
    if ntf then s.modCore cid (fun c => c.notify (noticeWord k neuron val)) else s

theorem State.deposit_of_none {s : State} {pid : BitVec 16} {cid neuron d : Nat} {group : Option Nat} (h : s.liveRing pid cid neuron d group = none) (val : Nat) (ntf : Bool) (u : Nat) :
    s.deposit pid cid neuron val d ntf group u = s.countEvent pid group false := by
  have heq : s.deposit pid cid neuron val d ntf group u = match s.liveRing pid cid neuron d group with | none => s.countEvent pid group false | some r => s.depositAt pid cid neuron val d ntf group u r := rfl
  rw [heq, h]

theorem State.deposit_of_some {s : State} {pid : BitVec 16} {cid neuron d : Nat} {group : Option Nat} {r : Ring} (h : s.liveRing pid cid neuron d group = some r) (val : Nat) (ntf : Bool) (u : Nat) :
    s.deposit pid cid neuron val d ntf group u = s.depositAt pid cid neuron val d ntf group u r := by
  have heq : s.deposit pid cid neuron val d ntf group u = match s.liveRing pid cid neuron d group with | none => s.countEvent pid group false | some r => s.depositAt pid cid neuron val d ntf group u r := rfl
  rw [heq, h]

theorem State.liveRing_eq_none {s : State} {pid : BitVec 16} {cid neuron d : Nat} {group : Option Nat}
    (h : (s.core cid).ring = none ∨ group = none ∨ (∃ k, group = some k ∧ s.holds pid (k / 512) = false) ∨ ∃ r, (s.core cid).ring = some r ∧ (group ≠ some r.ph ∨ r.n ≤ neuron ∨ r.d ≤ d)) :
    s.liveRing pid cid neuron d group = none := by
  unfold State.liveRing
  split
  · next r id hr =>
    refine if_neg ?_
    rintro ⟨hph, hgroup, hn, hd⟩
    rcases h with h | h | ⟨k, hk, hholds⟩ | ⟨r', hr', h⟩
    · rw [h] at hr
      exact absurd hr (by simp)
    · exact absurd h (by simp)
    · obtain rfl : id = k := Option.some.inj hk
      rw [State.groupOf, hholds, if_neg Bool.false_ne_true] at hgroup
      exact absurd hgroup (by simp)
    · obtain rfl : r' = r := Option.some.inj (hr'.symm.trans hr)
      rcases h with h | h | h
      · exact h (by rw [hph])
      · omega
      · omega
  · rfl

/-- A deposit adds the value once rounded to the slot of its step, with a notice where asked. -/
theorem State.depositAt_spec {s : State} {pid : BitVec 16} {cid neuron val d u : Nat} {ntf : Bool} {group : Option Nat} {r : Ring} (hsoft : s.softErrors = []) (hw : ∀ q ∈ s.ops, ∀ b w e, q.kind ≠ .waitw b w e) :
    let k := (s.ringStep pid r + d) % r.d
    let t := s.depositAt pid cid neuron val d ntf group u r
    t.harts = s.harts ∧ t.spm = Mem.write s.spm (r.cell k neuron) 2 (fp16.round .rne false 0 (exactSum false [fp16.decode (Mem.read s.spm (r.cell k neuron) 2), fp16.decode val]).1).bits
      ∧ t.core cid = if ntf then (s.core cid).notify (noticeWord k neuron val) else s.core cid := by
  intro k t
  obtain ⟨s₁, hs₁, hsame⟩ : ∃ s₁ : State, (if u < s.ringStep pid r then s.countEvent pid group true else s) = s₁ ∧ s.SameButClusters s₁ := by
    refine ⟨_, rfl, ?_⟩
    split
    · exact s.sameButClusters_countEvent pid group true
    · exact .refl s
  have hsoft₁ : s₁.softErrors = [] := hsame.softErrors.trans hsoft
  have hcore : s₁.core cid = s.core cid := by rw [State.core, hsame.cores, State.core]
  obtain ⟨bits, hbits⟩ : ∃ bits, bits = (fp16.round .rne false 0 (exactSum false [fp16.decode (Mem.read s.spm (r.cell k neuron) 2), fp16.decode val]).1).bits := ⟨_, rfl⟩
  have hwake : (s₁.writeSpm (r.cell k neuron) 2 bits).wakeMonitors = s₁.writeSpm (r.cell k neuron) 2 bits := State.wakeMonitors_of_none (hsame.ops ▸ hw)
  have ht : t = if ntf = true then (s₁.writeSpm (r.cell k neuron) 2 bits).modCore cid (fun c => c.notify (noticeWord k neuron val)) else s₁.writeSpm (r.cell k neuron) 2 bits := by
    simp only [t, State.depositAt, hs₁]
    rw [State.eccDouble_of_none hsoft₁, State.eccCorrect_of_none hsoft₁, hsame.spm, ← hbits, hwake]
    rfl
  rw [ht, ← hbits, ← hsame.spm, ← hsame.harts, ← hcore]
  cases ntf
  · exact ⟨rfl, rfl, rfl⟩
  · rw [if_pos rfl, if_pos rfl]
    exact ⟨rfl, rfl, State.core_modCore_self ..⟩

theorem exec_eventDeposit {s : State} {id : Nat} {o : Op} {cid n v d : Nat} {ntf : Bool} {grp : Option Nat} {st : Nat} {l : List (Nat × Nat)} (ho : s.op? id = some o) (hid : o.id = id)
    (hk : o.kind = .event cid n v d ntf grp st l) (hone : ∀ p ∈ s.ops, p.owner = o.owner → p = o) :
    exec (.eventDeposit id) s = .next (((if s.holds o.pid (cid / 256) then s.deposit o.pid cid n v d ntf grp st else s.countEvent o.pid grp false).dropOp id).pokeGroups) := by
  have hexec : exec (.eventDeposit id) s = execEventDeposit id s := rfl
  rw [hexec, execEventDeposit, ho]
  dsimp only
  rw [hk]
  refine congrArg Host.Outcome.next (if_neg ?_)
  rw [Bool.not_eq_true, List.any_eq_false]
  intro p hp hearlier
  simp only [Bool.and_eq_true, beq_iff_eq, decide_eq_true_eq] at hearlier
  obtain ⟨⟨howner, hlt⟩, _⟩ := hearlier
  rw [hone p hp howner, hid] at hlt
  exact Nat.lt_irrefl id hlt

theorem eventDeposit {s : State} (id : Nat) (o : Op) (cid n v d : Nat) (ntf : Bool) (grp : Option Nat) (st : Nat) (l : List (Nat × Nat)) (ho : s.op? id = some o) (hid : o.id = id)
    (hk : o.kind = .event cid n v d ntf grp st l) (hone : ∀ p ∈ s.ops, p.owner = o.owner → p = o) (hwf : s.spm.wf = true) (hw : ∀ p ∈ s.ops, ∀ b w e, p.kind ≠ .waitw b w e) :
    (∀ r k q g, s.holds o.pid (cid / 256) = true → s.softErrors = [] → (s.core cid).ring = some r → grp = some k → r.ph = k → s.holds o.pid (k / 512) = true → s.phaser? k = some q → q.group = some g → n < r.n → d < r.d →
      let a := r.base + 64 * ((2 * r.n + 63) / 64) + 64 * ((r.n + 511) / 512) + 2 * ((q.phase + d) % r.d * r.n + n)
      ∃ t : State, exec (.eventDeposit id) s = .next t ∧ t.op? id = none ∧ t.harts = s.harts
        ∧ Claims.holdsAt t.spm s.spm a 2 (fp16.round .rne false 0 (exactSum false [fp16.decode (Mem.read s.spm a 2), fp16.decode v]).1).bits
        ∧ ((s.core cid).notices.length < 64 → v < 2 ^ 16 → n < 2 ^ 12 → r.d ≤ 64 → (t.core cid).notices = (s.core cid).notices ++ (if ntf then [r64 (2 ^ 62 + (q.phase + d) % r.d * 2 ^ 48 + n * 2 ^ 32 + v)] else []))
        ∧ ((s.core cid).notices.length = 64 → ntf = true → (t.core cid).notices = (s.core cid).notices ∧ (t.core cid).noticeDrops = (s.core cid).noticeDrops + 1))
    ∧ ((s.holds o.pid (cid / 256) = false ∨ (s.core cid).ring = none ∨ grp = none ∨ (∃ k, grp = some k ∧ s.holds o.pid (k / 512) = false) ∨ ∃ r, (s.core cid).ring = some r ∧ (grp ≠ some r.ph ∨ r.n ≤ n ∨ r.d ≤ d)) →
      ∃ t : State, exec (.eventDeposit id) s = .next t ∧ t.op? id = none ∧ t.spm = s.spm ∧ t.cores = s.cores ∧ t.harts = s.harts) := by
  have hexec := exec_eventDeposit ho hid hk hone
  refine ⟨?deposited, fun h => ?discarded⟩
  case deposited =>
    intro r k q g hholds hsoft hring hgrp hph hgh hq hg hn hd a
    subst hph
    have hgroup : s.groupOf o.pid r.ph = some q := by rw [State.groupOf, if_pos hgh, hq]
    have hlive : s.liveRing o.pid cid n d grp = some r := by simp [State.liveRing, hring, hgrp, hgroup, hg, hn, hd]
    have hstep : s.ringStep o.pid r = q.phase := by simp [State.ringStep, hgroup, hg]
    rw [if_pos hholds, State.deposit_of_some hlive] at hexec
    obtain ⟨hharts, hspm, hcore⟩ := State.depositAt_spec (pid := o.pid) (cid := cid) (neuron := n) (val := v) (d := d) (u := st) (ntf := ntf) (group := grp) (r := r) hsoft hw
    obtain ⟨hgone, hh, hm, hc⟩ := (s.depositAt o.pid cid n v d ntf grp st r).event_ended id
    rw [hstep] at hspm hcore
    have hcore' : (((s.depositAt o.pid cid n v d ntf grp st r).dropOp id).pokeGroups).core cid = if ntf then (s.core cid).notify (noticeWord ((q.phase + d) % r.d) n v) else s.core cid := by
      rw [State.core, hc]
      exact hcore
    refine ⟨_, hexec, hgone, hh.trans hharts, fun x => ?bytes, fun hroom _ _ _ => ?notice, fun hfull hntf => ?full⟩
    case bytes =>
      rw [hm, hspm, Mem.get_write _ _ _ _ _ hwf]
      rfl
    case notice =>
      rw [hcore']
      cases ntf
      · exact (List.append_nil _).symm
      · rw [if_pos rfl, if_pos rfl, CoreState.notify, if_pos hroom]
        rfl
    case full =>
      rw [hcore', if_pos hntf, CoreState.notify, if_neg (by omega)]
      exact ⟨rfl, rfl⟩
  case discarded =>
    obtain ⟨u, hu, hsame⟩ : ∃ u : State, (if s.holds o.pid (cid / 256) = true then s.deposit o.pid cid n v d ntf grp st else s.countEvent o.pid grp false) = u ∧ s.SameButClusters u := by
      refine ⟨_, rfl, ?_⟩
      split
      · next hholds =>
        rw [State.deposit_of_none (State.liveRing_eq_none (h.resolve_left (by rw [hholds]; exact Bool.noConfusion)))]
        exact s.sameButClusters_countEvent o.pid grp false
      · exact s.sameButClusters_countEvent o.pid grp false
    rw [hu] at hexec
    obtain ⟨hgone, hh, hm, hc⟩ := u.event_ended id
    exact ⟨_, hexec, hgone, hm.trans hsame.spm, hc.trans hsame.cores, hh.trans hsame.harts⟩

/-! ## WAITEV (R323) -/

/-- How many task slots of the hart's core with a lower number wait for events, as the statement counts them. -/
def State.waitsBefore (s : State) (h : Nat) : Nat :=
  ((List.range (h % 5)).filter (fun i => let x := s.slot (h / 5 * 5 + i); x.live && x.blocked.isSome && (x.waiting.map (fun w => w.1)) == some .event)).length

theorem State.lowerWaits_eq (s : State) (h : Nat) : s.lowerWaits h = s.waitsBefore h := List.countP_eq_length_filter

theorem State.takeNotice_of_some {s : State} {h : Nat} {w : Reg64} (hw : (s.core (cidOf h)).notices[s.waitsBefore h]? = some w) :
    s.takeNotice h = some (s.modCore (cidOf h) (fun c => { c with notices := c.notices.eraseIdx (s.waitsBefore h) }), w) := by
  rw [State.takeNotice, State.lowerWaits_eq, hw]
  rfl

theorem State.takeNotice_of_none {s : State} {h : Nat} (hn : (s.core (cidOf h)).notices.length ≤ s.waitsBefore h) : s.takeNotice h = none := by
  rw [State.takeNotice, State.lowerWaits_eq, List.getElem?_eq_none hn]
  rfl

/-- The state in which WAITEV waits, its operation posted. -/
def State.awaiting (s : State) (t : BitVec 6) : State :=
  (s.post (.waitev (s.stepGroup s.me.uid) (s.stepOf s.me.uid)) (fun q => { q with mute := true, off := if t = 0 then none else some (s.me.gOff t.toNat) })).modMe (fun x => { x with blocked := some s.nextId })

theorem exec_waitev {s : State} {t : BitVec 6} (hr : ready (.waitev t) s = true) :
    exec (.waitev t) s = .next (s.take (.waitev t) (match s.takeNotice s.cur with | some (u, w) => .done (u.putG t.toNat w) | none => .wait (s.awaiting t) .event)) := by
  have hexec : exec (.waitev t) s = execWaitev t s := rfl
  rw [hexec, execWaitev, run_ready _ _ _ hr]
  rfl

theorem waitForEvent {s : State} (t : BitVec 6) (hr : ready (.waitev t) s = true) :
    (∀ w, (s.core (cidOf s.cur)).notices[s.waitsBefore s.cur]? = some w →
      exec (.waitev t) s = .next (((s.modCore (cidOf s.cur) (fun x => { x with notices := x.notices.eraseIdx (s.waitsBefore s.cur) })).putG t.toNat w).commit (.waitev t)))
    ∧ ((s.core (cidOf s.cur)).notices.length ≤ s.waitsBefore s.cur → ∃ u : State, ∃ o : Op, exec (.waitev t) s = .next u ∧ u.ops = s.ops ++ [o] ∧ o.kind = .waitev (s.stepGroup s.me.uid) (s.stepOf s.me.uid)
        ∧ u.me.blocked = some o.id ∧ u.me.pc = s.me.pc) := by
  have hexec := exec_waitev hr
  refine ⟨fun w hw => ?_, fun hn => ?_⟩
  · rw [State.takeNotice_of_some hw] at hexec
    exact hexec
  · rw [State.takeNotice_of_none hn] at hexec
    refine ⟨_, _, hexec, rfl, rfl, ?_, ?_⟩
    · change ((s.awaiting t).mark .event).me.blocked = some s.nextId
      rw [State.mark, State.me_modMe, State.awaiting, State.me_modMe]
    · change ((s.awaiting t).mark .event).me.pc = s.me.pc
      rw [State.mark, State.me_modMe, State.awaiting, State.me_modMe]
      rfl

/-! ## A waiting slot goes on (R323) -/

/-- A waiting instruction outside loops completes in sequence. -/
theorem State.slot_goOn {s : State} {h : Nat} (hl : (s.slot h).loops = []) : (s.goOn h).slot h = { (s.slot h).resume with pc := (s.slot h).pc + 4 } := by
  have hres : ((s.setSlot h (s.slot h).resume).slot h).loops = [] := by
    rw [State.slot_setSlot_self]
    exact hl
  have hgo : s.goOn h = s.advance h 4 := by
    rw [State.goOn, hl]
    rfl
  rw [hgo, State.advance, State.backEdge]
  dsimp only
  rw [hres]
  dsimp only
  rw [State.slot_modSlot_self, State.slot_setSlot_self]
  rfl

/-- A value arrives in the register of a waiting slot, and the slot goes on. -/
def State.arriveAt (s : State) (h : Nat) (o : Op) (w : Reg64) : State := (match o.off with | some off => s.modSlot h (fun x => x.arrive off w) | none => s).unblock o

theorem State.slot_arriveAt {s : State} {h : Nat} {o : Op} {w : Reg64} {x : Slot} (hx : s.slot h = x) (howner : o.owner = h) (hlive : x.live = true) (hblocked : x.blocked = some o.id) (hl : x.loops = []) (hwf : x.win.wf = true) :
    ((s.arriveAt h o w).slot h).pc = x.pc + 4 ∧ ((s.arriveAt h o w).slot h).blocked = none ∧ ∀ off, o.off = some off → Claims.holdsAt ((s.arriveAt h o w).slot h).win x.win off 8 w.toNat := by
  obtain ⟨u, hu, y, hy, hykeeps, hywin⟩ : ∃ u : State, (match o.off with | some off => s.modSlot h (fun x => x.arrive off w) | none => s) = u ∧ ∃ y, u.slot h = y
      ∧ (y.live = x.live ∧ y.blocked = x.blocked ∧ y.loops = x.loops ∧ y.pc = x.pc) ∧ ∀ off, o.off = some off → y.win = Mem.write x.win off 8 w.toNat := by
    cases hoff : o.off with
    | none => exact ⟨s, rfl, x, hx, ⟨rfl, rfl, rfl, rfl⟩, fun off h => absurd h (by simp)⟩
    | some off =>
      refine ⟨_, rfl, x.arrive off w, by rw [State.slot_modSlot_self, hx], ⟨rfl, rfl, rfl, rfl⟩, fun off' h' => ?_⟩
      obtain rfl : off = off' := Option.some.inj h'
      rfl
  obtain ⟨h1, h2, h3, h4⟩ := hykeeps
  have hslot : (u.dropOp o.id).slot h = y := hy
  have hunblock : s.arriveAt h o w = (u.dropOp o.id).goOn h := by
    rw [State.arriveAt, hu, State.unblock, howner, hy]
    exact if_pos ⟨h1.trans hlive, h2.trans hblocked⟩
  rw [hunblock, State.slot_goOn (by rw [hslot, h3, hl]), hslot]
  refine ⟨by rw [← h4], rfl, fun off hoff b => ?_⟩
  have hwin : y.resume.win = Mem.write x.win off 8 w.toNat := hywin off hoff
  change Mem.get y.resume.win b = _
  rw [hwin, Mem.get_write _ _ _ _ _ hwf]
  rfl

theorem exec_waitevWake {s : State} {cid sl : Nat} {o : Op} {grp : Option Nat} {st : Nat} (hsl : sl < 4) (hblocked : (s.slot (hartOf cid sl)).blocked = some o.id) (ho : s.op? o.id = some o)
    (hk : o.kind = .waitev grp st) : exec (.waitevWake cid sl) s = .next (match s.takeNotice (hartOf cid sl) with
      | some (u, w) => u.arriveAt (hartOf cid sl) o w
      | none => match grp.bind (s.groupOf o.pid) with
        | some p => if st < p.phase then s.arriveAt (hartOf cid sl) o (stepWord p.phase) else s
        | none => s) := by
  have hexec : exec (.waitevWake cid sl) s = execWaitevWake cid sl s := rfl
  have hop : (s.slot (hartOf cid sl)).blocked.bind s.op? = some o := by rw [hblocked, Option.bind_some, ho]
  rw [hexec, execWaitevWake]
  dsimp only
  rw [if_neg (by omega), hop]
  dsimp only
  rw [hk]
  rfl

theorem eventWake {s : State} (cid sl : Nat) (o : Op) (grp : Option Nat) (st : Nat) (hsl : sl < 4) : let h := hartOf cid sl
    let x := s.slot h
    x.live = true → x.blocked = some o.id → s.op? o.id = some o → o.owner = h → o.kind = .waitev grp st → x.loops = [] → x.win.wf = true →
    let goes := fun (w : Reg64) => ∃ u : State, exec (.waitevWake cid sl) s = .next u ∧ (u.slot h).pc = x.pc + 4 ∧ (u.slot h).blocked = none ∧ (∀ off, o.off = some off → Claims.holdsAt (u.slot h).win x.win off 8 w.toNat)
    (∀ w, (s.core cid).notices[s.waitsBefore h]? = some w → goes w)
    ∧ ((s.core cid).notices.length ≤ s.waitsBefore h →
      (∀ k q, grp = some k → s.holds o.pid (k / 512) = true → s.phaser? k = some q → st < q.phase → goes (r64 (2 ^ 63 + q.phase % 2 ^ 32)))
      ∧ ((∀ k q, grp = some k → s.holds o.pid (k / 512) = true → s.phaser? k = some q → q.phase ≤ st) → exec (.waitevWake cid sl) s = .next s)) := by
  intro h x hlive hblocked ho howner hk hl hwf goes
  have hexec := exec_waitevWake hsl hblocked ho hk
  have hcid : cidOf (hartOf cid sl) = cid := by
    rw [cidOf, hartOf]
    omega
  refine ⟨fun w hw => ?_, fun hn => ⟨fun k q hg hh hq hlt => ?_, fun hno => ?_⟩⟩
  · rw [State.takeNotice_of_some (by rw [hcid]; exact hw)] at hexec
    exact ⟨_, hexec, State.slot_arriveAt rfl howner hlive hblocked hl hwf⟩
  · have hgroup : grp.bind (s.groupOf o.pid) = some q := by rw [hg, Option.bind_some, State.groupOf, if_pos hh, hq]
    rw [State.takeNotice_of_none (by rw [hcid]; exact hn), hgroup] at hexec
    exact ⟨_, hexec.trans (congrArg Host.Outcome.next (if_pos hlt)), State.slot_arriveAt rfl howner hlive hblocked hl hwf⟩
  · rw [State.takeNotice_of_none (by rw [hcid]; exact hn)] at hexec
    cases hgroup : grp.bind (s.groupOf o.pid) with
    | none =>
      rw [hgroup] at hexec
      exact hexec
    | some q =>
      obtain ⟨k, hg, hgq⟩ := Option.bind_eq_some_iff.1 hgroup
      rw [State.groupOf] at hgq
      split at hgq
      · next hh =>
        rw [hgroup] at hexec
        exact hexec.trans (congrArg Host.Outcome.next (if_neg (Nat.not_lt.2 (hno k q hg hh hgq))))
      · exact absurd hgq (by simp)

theorem events : Claims.Events := by
  intro s
  refine ⟨eventSend, eventDeposit, ?_, eventWake⟩
  intro t i c j _ hr
  exact waitForEvent t hr

/-- Settles O58: STEPADV and the ticks by the phaser's cases, DRING and NRN byte by byte, events and notices by what their end leaves. -/
theorem stepsRingsAndEvents : Obligations.StepsRingsAndEvents := ⟨stepAdvance, ringsAndNeurons, events⟩

end Sys2Proof.Machine
end

section
/-! Proofs: decoding the bytes of an instruction (O3, O4). A word is fixed bits with fields added where these bits are 0, apart from one another; so what
a selector or a field of the decoder reads is a field's value or fixed bits, and a closed check on the places decides which. -/

namespace Sys2Proof

/-! ## Words as packed fields (R76, R79) -/

/-- Bits `lo + n - 1 : lo` of a number. -/
def bitsAt (lo n m : Nat) : Nat := m / 2 ^ lo % 2 ^ n

/-- Adding a field above some bits leaves these bits. -/
theorem bitsAt_add_of_above {lo n l : Nat} (m x : Nat) (h : lo + n ≤ l) : bitsAt lo n (m + x * 2 ^ l) = bitsAt lo n m := by
  obtain ⟨j, rfl⟩ := Nat.exists_eq_add_of_le h
  have hx : x * 2 ^ (lo + n + j) = x * 2 ^ j * 2 ^ n * 2 ^ lo := by ring
  rw [bitsAt, hx, Nat.add_mul_div_right _ _ (by positivity), Nat.add_mul_mod_self_right, bitsAt]

section FreeBits
variable {m x l k : Nat} (hm : bitsAt l k m = 0) (hx : x < 2 ^ k)
include hm hx

/-- A field added where a number's bits are 0 is what these bits hold. -/
theorem bitsAt_add_same : bitsAt l k (m + x * 2 ^ l) = x := by
  rw [bitsAt] at *
  rw [Nat.add_mul_div_right _ _ (by positivity), Nat.add_mod, hm, Nat.zero_add, Nat.mod_mod, Nat.mod_eq_of_lt hx]

/-- Adding a field below some bits, where the number's bits are 0, leaves these bits. -/
theorem bitsAt_add_of_below {lo n : Nat} (h : l + k ≤ lo) : bitsAt lo n (m + x * 2 ^ l) = bitsAt lo n m := by
  obtain ⟨j, rfl⟩ := Nat.exists_eq_add_of_le h
  obtain ⟨q, hq⟩ := Nat.dvd_of_mod_eq_zero hm
  have hcut : (m + x * 2 ^ l) / 2 ^ l / 2 ^ k = m / 2 ^ l / 2 ^ k := by
    rw [Nat.add_mul_div_right _ _ (by positivity), hq, Nat.mul_add_div (by positivity), Nat.div_eq_of_lt hx, Nat.mul_div_cancel_left _ (by positivity), Nat.add_zero]
  simp only [bitsAt, pow_add, ← Nat.div_div_eq_div_mul, hcut]

end FreeBits

/-- One field of a word: its lowest bit and its value. -/
structure WordField where
  {width : Nat}
  lo : Nat
  val : BitVec width

/-- The bits of a word that a field takes: the lowest one, and how many. -/
def WordField.place (f : WordField) : Nat × Nat := (f.lo, f.width)

/-- Two ranges of bits have no bit in common. -/
def apart (p q : Nat × Nat) : Bool := p.1 + p.2 ≤ q.1 || q.1 + q.2 ≤ p.1

theorem apart_iff (p q : Nat × Nat) : apart p q = true ↔ p.1 + p.2 ≤ q.1 ∨ q.1 + q.2 ≤ p.1 := by
  rw [apart, Bool.or_eq_true, decide_eq_true_iff, decide_eq_true_iff]

theorem apart_comm (p q : Nat × Nat) : apart p q = apart q p := Bool.or_comm ..

/-- A number with fields added, each at its lowest bit. -/
def packed (m : Nat) : List WordField → Nat
  | [] => m
  | f :: fs => packed (m + f.val.toNat * 2 ^ f.lo) fs

/-- The word with fixed bits and fields. -/
def packedWord (m : Nat) (fs : List WordField) : Word := BitVec.ofNat 32 (packed m fs)

/-- Fields at these places stand where the fixed bits are 0, apart from one another. -/
def fits (m : Nat) : List (Nat × Nat) → Bool
  | [] => true
  | p :: ps => bitsAt p.1 p.2 m == 0 && ps.all (apart p) && fits m ps

/-- A range of bits of a word is the place of a field, or apart from every field. -/
def reads (p : Nat × Nat) (ps : List (Nat × Nat)) : Bool := p.1 + p.2 ≤ 32 && ps.all (fun q => q == p || apart p q)

/-- What such a range holds: the value of the field that stands there, or what the fixed bits hold. -/
def valueAt (lo n fixed : Nat) : List WordField → Nat
  | [] => fixed
  | f :: fs => if f.lo = lo ∧ f.width = n then f.val.toNat else valueAt lo n fixed fs

section Packed
variable {lo n m : Nat} {f : WordField} {fs : List WordField}

/-- Bits apart from an added field are those of before. -/
theorem bitsAt_add_of_apart (hm : bitsAt f.lo f.width m = 0) (h : apart (lo, n) f.place = true) :
    bitsAt lo n (m + f.val.toNat * 2 ^ f.lo) = bitsAt lo n m := by
  rcases (apart_iff _ _).1 h with h | h
  · exact bitsAt_add_of_above m _ h
  · exact bitsAt_add_of_below hm f.val.isLt h

/-- Places that fit still fit once a field apart from them is added. -/
theorem fits_add (hm : bitsAt f.lo f.width m = 0) {ps : List (Nat × Nat)} (ha : ps.all (apart f.place) = true) (hf : fits m ps = true) :
    fits (m + f.val.toNat * 2 ^ f.lo) ps = true := by
  induction ps with
  | nil => rfl
  | cons p ps ih =>
    simp only [List.all_cons, fits, Bool.and_eq_true, beq_iff_eq] at ha hf ⊢
    obtain ⟨⟨hp, hps⟩, hfit⟩ := hf
    exact ⟨⟨by rw [bitsAt_add_of_apart hm (by rw [apart_comm]; exact ha.1), hp], hps⟩, ih ha.2 hfit⟩

/-- Bits apart from every field are the fixed bits. -/
theorem bitsAt_packed_of_apart (hf : fits m (fs.map WordField.place) = true) (ha : (fs.map WordField.place).all (apart (lo, n)) = true) :
    bitsAt lo n (packed m fs) = bitsAt lo n m := by
  induction fs generalizing m with
  | nil => rfl
  | cons g gs ih =>
    simp only [List.map_cons, List.all_cons, fits, Bool.and_eq_true, beq_iff_eq] at ha hf
    obtain ⟨⟨hg, hgs⟩, hfit⟩ := hf
    rw [packed, ih (fits_add hg hgs hfit) ha.2, bitsAt_add_of_apart hg ha.1]

/-- Bits that are a field's place or apart from every field hold that field, or the fixed bits. -/
theorem bitsAt_packed (hf : fits m (fs.map WordField.place) = true) (hr : (fs.map WordField.place).all (fun q => q == (lo, n) || apart (lo, n) q) = true) :
    bitsAt lo n (packed m fs) = valueAt lo n (bitsAt lo n m) fs := by
  induction fs generalizing m with
  | nil => rfl
  | cons g gs ih =>
    simp only [List.map_cons, List.all_cons, fits, Bool.and_eq_true, Bool.or_eq_true, beq_iff_eq] at hr hf
    obtain ⟨⟨hg, hgs⟩, hfit⟩ := hf
    rw [packed, valueAt]
    split
    · next hs =>
      obtain ⟨rfl, rfl⟩ := hs
      rw [bitsAt_packed_of_apart (fits_add hg hgs hfit) hgs, bitsAt_add_same (l := g.lo) (k := g.width) hg g.val.isLt]
    · next hs => rw [ih (fits_add hg hgs hfit) hr.2, bitsAt_add_of_apart hg (hr.1.resolve_left (fun h => hs (Prod.mk.inj h)))]

/-- What a selector reads from a packed word. -/
theorem sel_packedWord (hf : fits m (fs.map WordField.place) = true) (hr : reads (lo, n) (fs.map WordField.place) = true) :
    sel lo n (packedWord m fs) = valueAt lo n (bitsAt lo n m) fs := by
  simp only [reads, Bool.and_eq_true, decide_eq_true_eq] at hr
  obtain ⟨j, hj⟩ := Nat.exists_eq_add_of_le hr.1
  rw [← bitsAt_packed hf hr.2, sel, packedWord, BitVec.toNat_ofNat, hj, pow_add, pow_add, mul_assoc, Nat.mod_mul_right_div_self, Nat.mod_mul_right_mod, bitsAt]

end Packed

/-- A field is a selector's bits as a bit vector. -/
theorem field_eq_sel (lo n : Nat) (w : Word) : field lo n w = BitVec.ofNat n (sel lo n w) :=
  BitVec.eq_of_toNat_eq (by simp [field, sel])

theorem sel_word0 {lo n m : Nat} (hr : reads (lo, n) [] = true) : sel lo n (word0 m) = valueAt lo n (bitsAt lo n m) [] :=
  sel_packedWord (fs := []) rfl hr

theorem sel_word1 {n1 lo n m l1 : Nat} {x1 : BitVec n1}
    (hf : fits m [(l1, n1)] = true) (hr : reads (lo, n) [(l1, n1)] = true) :
    sel lo n (word1 m l1 x1) = valueAt lo n (bitsAt lo n m) [⟨l1, x1⟩] :=
  sel_packedWord (fs := [⟨l1, x1⟩]) hf hr

theorem sel_word2 {n1 n2 lo n m l1 l2 : Nat} {x1 : BitVec n1} {x2 : BitVec n2}
    (hf : fits m [(l1, n1), (l2, n2)] = true) (hr : reads (lo, n) [(l1, n1), (l2, n2)] = true) :
    sel lo n (word2 m l1 x1 l2 x2) = valueAt lo n (bitsAt lo n m) [⟨l1, x1⟩, ⟨l2, x2⟩] :=
  sel_packedWord (fs := [⟨l1, x1⟩, ⟨l2, x2⟩]) hf hr

theorem sel_word3 {n1 n2 n3 lo n m l1 l2 l3 : Nat} {x1 : BitVec n1} {x2 : BitVec n2} {x3 : BitVec n3}
    (hf : fits m [(l1, n1), (l2, n2), (l3, n3)] = true) (hr : reads (lo, n) [(l1, n1), (l2, n2), (l3, n3)] = true) :
    sel lo n (word3 m l1 x1 l2 x2 l3 x3) = valueAt lo n (bitsAt lo n m) [⟨l1, x1⟩, ⟨l2, x2⟩, ⟨l3, x3⟩] :=
  sel_packedWord (fs := [⟨l1, x1⟩, ⟨l2, x2⟩, ⟨l3, x3⟩]) hf hr

theorem sel_word4 {n1 n2 n3 n4 lo n m l1 l2 l3 l4 : Nat} {x1 : BitVec n1} {x2 : BitVec n2} {x3 : BitVec n3} {x4 : BitVec n4}
    (hf : fits m [(l1, n1), (l2, n2), (l3, n3), (l4, n4)] = true) (hr : reads (lo, n) [(l1, n1), (l2, n2), (l3, n3), (l4, n4)] = true) :
    sel lo n (word4 m l1 x1 l2 x2 l3 x3 l4 x4) = valueAt lo n (bitsAt lo n m) [⟨l1, x1⟩, ⟨l2, x2⟩, ⟨l3, x3⟩, ⟨l4, x4⟩] :=
  sel_packedWord (fs := [⟨l1, x1⟩, ⟨l2, x2⟩, ⟨l3, x3⟩, ⟨l4, x4⟩]) hf hr

theorem sel_word5 {n1 n2 n3 n4 n5 lo n m l1 l2 l3 l4 l5 : Nat} {x1 : BitVec n1} {x2 : BitVec n2} {x3 : BitVec n3} {x4 : BitVec n4} {x5 : BitVec n5}
    (hf : fits m [(l1, n1), (l2, n2), (l3, n3), (l4, n4), (l5, n5)] = true) (hr : reads (lo, n) [(l1, n1), (l2, n2), (l3, n3), (l4, n4), (l5, n5)] = true) :
    sel lo n (word5 m l1 x1 l2 x2 l3 x3 l4 x4 l5 x5) = valueAt lo n (bitsAt lo n m) [⟨l1, x1⟩, ⟨l2, x2⟩, ⟨l3, x3⟩, ⟨l4, x4⟩, ⟨l5, x5⟩] :=
  sel_packedWord (fs := [⟨l1, x1⟩, ⟨l2, x2⟩, ⟨l3, x3⟩, ⟨l4, x4⟩, ⟨l5, x5⟩]) hf hr

theorem sel_word6 {n1 n2 n3 n4 n5 n6 lo n m l1 l2 l3 l4 l5 l6 : Nat} {x1 : BitVec n1} {x2 : BitVec n2} {x3 : BitVec n3} {x4 : BitVec n4} {x5 : BitVec n5} {x6 : BitVec n6}
    (hf : fits m [(l1, n1), (l2, n2), (l3, n3), (l4, n4), (l5, n5), (l6, n6)] = true) (hr : reads (lo, n) [(l1, n1), (l2, n2), (l3, n3), (l4, n4), (l5, n5), (l6, n6)] = true) :
    sel lo n (word6 m l1 x1 l2 x2 l3 x3 l4 x4 l5 x5 l6 x6) = valueAt lo n (bitsAt lo n m) [⟨l1, x1⟩, ⟨l2, x2⟩, ⟨l3, x3⟩, ⟨l4, x4⟩, ⟨l5, x5⟩, ⟨l6, x6⟩] :=
  sel_packedWord (fs := [⟨l1, x1⟩, ⟨l2, x2⟩, ⟨l3, x3⟩, ⟨l4, x4⟩, ⟨l5, x5⟩, ⟨l6, x6⟩]) hf hr

theorem sel_word7 {n1 n2 n3 n4 n5 n6 n7 lo n m l1 l2 l3 l4 l5 l6 l7 : Nat} {x1 : BitVec n1} {x2 : BitVec n2} {x3 : BitVec n3} {x4 : BitVec n4} {x5 : BitVec n5} {x6 : BitVec n6} {x7 : BitVec n7}
    (hf : fits m [(l1, n1), (l2, n2), (l3, n3), (l4, n4), (l5, n5), (l6, n6), (l7, n7)] = true) (hr : reads (lo, n) [(l1, n1), (l2, n2), (l3, n3), (l4, n4), (l5, n5), (l6, n6), (l7, n7)] = true) :
    sel lo n (word7 m l1 x1 l2 x2 l3 x3 l4 x4 l5 x5 l6 x6 l7 x7) = valueAt lo n (bitsAt lo n m) [⟨l1, x1⟩, ⟨l2, x2⟩, ⟨l3, x3⟩, ⟨l4, x4⟩, ⟨l5, x5⟩, ⟨l6, x6⟩, ⟨l7, x7⟩] :=
  sel_packedWord (fs := [⟨l1, x1⟩, ⟨l2, x2⟩, ⟨l3, x3⟩, ⟨l4, x4⟩, ⟨l5, x5⟩, ⟨l6, x6⟩, ⟨l7, x7⟩]) hf hr

/-! ## One word (R76, R77, R79) -/

/-- The word of an instruction, where it has one, decodes to it. -/
def Decodes (i : Instr) : Prop := ∀ w, encodeWord i = some w → decodeWord w = some i

theorem Decodes.of_encodeWord {i : Instr} {w : Word} (he : encodeWord i = some w) (hd : decodeWord w = some i) : Decodes i := by
  intro v hv
  rw [he, Option.some.injEq] at hv
  rw [← hv, hd]

/-- Major 0x01: ALU. -/
@[simp] theorem decodes_alu :
    (∀ (d a b : BitVec 6) (w c : BitVec 1), Decodes (.add d a b w c) ∧ Decodes (.sub d a b w c) ∧ Decodes (.mul d a b w c) ∧ Decodes (.mulh d a b w c)
      ∧ Decodes (.mulhn d a b w c) ∧ Decodes (.madd d a b w c) ∧ Decodes (.div d a b w c) ∧ Decodes (.divn d a b w c) ∧ Decodes (.rem d a b w c) ∧ Decodes (.remn d a b w c)
      ∧ Decodes (.and d a b w c) ∧ Decodes (.or d a b w c) ∧ Decodes (.xor d a b w c) ∧ Decodes (.andn d a b w c) ∧ Decodes (.shl d a b w c) ∧ Decodes (.shr d a b w c)
      ∧ Decodes (.sar d a b w c) ∧ Decodes (.rol d a b w c) ∧ Decodes (.min d a b w c) ∧ Decodes (.max d a b w c) ∧ Decodes (.minn d a b w c) ∧ Decodes (.maxn d a b w c)
      ∧ Decodes (.slt d a b w c) ∧ Decodes (.sltn d a b w c) ∧ Decodes (.seq d a b w c) ∧ Decodes (.sext d a b w c) ∧ Decodes (.zext d a b w c) ∧ Decodes (.sel d a b w c))
    ∧ (∀ (d a : BitVec 6) (w : BitVec 1), Decodes (.clz d a w) ∧ Decodes (.ctz d a w) ∧ Decodes (.pop d a w) ∧ Decodes (.brev d a w) ∧ Decodes (.bswap d a w)) := by
  and_intros <;> intros <;> and_intros
  all_goals refine .of_encodeWord rfl ?_
  all_goals simp (disch := decide) [decodeWord, decodeMajor01, sel_word3, sel_word5, field_eq_sel, valueAt, bitsAt]

/-- Major 0x02: ALUI. -/
@[simp] theorem decodes_alui :
    (∀ (d a : BitVec 6) (i : BitVec 10), Decodes (.addi d a i) ∧ Decodes (.andi d a i) ∧ Decodes (.ori d a i) ∧ Decodes (.xori d a i) ∧ Decodes (.slti d a i)
      ∧ Decodes (.sltni d a i) ∧ Decodes (.muli d a i)) ∧ (∀ (d a s : BitVec 6), Decodes (.shli d a s) ∧ Decodes (.shri d a s) ∧ Decodes (.sari d a s)) := by
  and_intros <;> intros <;> and_intros
  all_goals refine .of_encodeWord rfl ?_
  all_goals simp (disch := decide) [decodeWord, decodeMajor02, sel_word3, field_eq_sel, valueAt, bitsAt]

/-- Major 0x03, 0x04: LI and LEA. -/
@[simp] theorem decodes_liLea :
    (∀ (d : BitVec 6) (i : BitVec 14), Decodes (.li d i) ∧ Decodes (.lih d i)) ∧ (∀ (d a : BitVec 6) (i : BitVec 14), Decodes (.lea d a i)) := by
  and_intros <;> intros <;> and_intros
  all_goals refine .of_encodeWord rfl ?_
  all_goals simp (disch := decide) [decodeWord, decodeMajor03, decodeMajor04, sel_word2, sel_word3, field_eq_sel, valueAt, bitsAt]

/-- Major 0x05 to 0x0B: BEQ to BZ. -/
@[simp] theorem decodes_branch :
    (∀ (a b : BitVec 6) (o : BitVec 14), Decodes (.beq a b o) ∧ Decodes (.bne a b o) ∧ Decodes (.blt a b o) ∧ Decodes (.bge a b o) ∧ Decodes (.bltn a b o)
      ∧ Decodes (.bgen a b o)) ∧ (∀ (a : BitVec 6) (o : BitVec 14), Decodes (.bez a o) ∧ Decodes (.bnz a o)) := by
  and_intros <;> intros <;> and_intros
  all_goals refine .of_encodeWord rfl ?_
  all_goals simp (disch := decide) [decodeWord, decodeMajor05, decodeMajor06, decodeMajor07, decodeMajor08, decodeMajor09, decodeMajor0A, decodeMajor0B, sel_word2, sel_word3, field_eq_sel, valueAt, bitsAt]

/-- Major 0x0C to 0x0E: J, CALL and JR. -/
@[simp] theorem decodes_jump :
    (∀ (o : BitVec 26), Decodes (.j o) ∧ Decodes (.call o)) ∧ (∀ (a : BitVec 6), Decodes (.jr a) ∧ Decodes (.callr a)) ∧ Decodes .ret := by
  and_intros <;> intros <;> and_intros
  all_goals refine .of_encodeWord rfl ?_
  all_goals simp (disch := decide) [decodeWord, decodeMajor0C, decodeMajor0D, decodeMajor0E, sel_word0, sel_word1, field_eq_sel, valueAt, bitsAt]

/-- Major 0x0F: LOOP. -/
@[simp] theorem decodes_loop :
    (∀ (r c : BitVec 1) (a : BitVec 6) (l : BitVec 8), Decodes (.loop r c a l)) ∧ (∀ (r c : BitVec 1) (l : BitVec 8) (n : BitVec 12), Decodes (.loopi r c n l)) ∧ Decodes .lbrk := by
  and_intros <;> intros
  all_goals refine .of_encodeWord rfl ?_
  all_goals simp (disch := decide) [decodeWord, decodeMajor0F, sel_word0, sel_word4, field_eq_sel, valueAt, bitsAt]

/-- Major 0x10: RPT. -/
@[simp] theorem decodes_rpt (l d a b : BitVec 4) (n : BitVec 8) (v : BitVec 2) :
    Decodes (.rpt l n d a b v) := by
  refine .of_encodeWord rfl ?_
  simp (disch := decide) [decodeWord, decodeMajor10, sel_word6, field_eq_sel, valueAt, bitsAt]

/-- Major 0x11 to 0x13: LD, ST and LDM/STM. -/
@[simp] theorem decodes_loadStore :
    (∀ (t b : BitVec 6) (s : BitVec 2) (x : BitVec 1) (o : BitVec 11), Decodes (.ld t b s x o)) ∧ (∀ (t b : BitVec 6) (s : BitVec 2) (o : BitVec 11), Decodes (.st t b s o))
    ∧ (∀ (t b p : BitVec 6) (c : BitVec 5), Decodes (.ldm t b c p) ∧ Decodes (.stm t b c p)) := by
  and_intros <;> intros <;> and_intros
  all_goals refine .of_encodeWord rfl ?_
  all_goals simp (disch := decide) [decodeWord, decodeMajor11, decodeMajor12, decodeMajor13, sel_word4, sel_word5, field_eq_sel, valueAt, bitsAt]

/-- Major 0x14: FE. -/
@[simp] theorem decodes_fullEmpty (t b : BitVec 6) (o : BitVec 11) :
    Decodes (.ldfe t b o) ∧ Decodes (.ldff t b o) ∧ Decodes (.stfe t b o) ∧ Decodes (.stf t b o) ∧ Decodes (.waitw t b o) := by
  and_intros
  all_goals refine .of_encodeWord rfl ?_
  all_goals simp (disch := decide) [decodeWord, decodeMajor14, sel_word3, field_eq_sel, valueAt, bitsAt]

/-- Major 0x15, 0x16: ATOM and RADD. -/
@[simp] theorem decodes_atomic :
    (∀ (d a b : BitVec 6) (w n : BitVec 1) (o : BitVec 2), Decodes (.aadd d a b w n o) ∧ Decodes (.aand d a b w n o) ∧ Decodes (.aor d a b w n o) ∧ Decodes (.axor d a b w n o)
      ∧ Decodes (.amin d a b w n o) ∧ Decodes (.amax d a b w n o) ∧ Decodes (.aminn d a b w n o) ∧ Decodes (.amaxn d a b w n o) ∧ Decodes (.aswp d a b w n o)
      ∧ Decodes (.acas d a b w n o) ∧ Decodes (.faadd d a b w n o) ∧ Decodes (.famin d a b w n o) ∧ Decodes (.famax d a b w n o))
    ∧ (∀ (a b : BitVec 6) (t : BitVec 1), Decodes (.radd a b t)) := by
  and_intros <;> intros <;> and_intros
  all_goals refine .of_encodeWord rfl ?_
  all_goals simp (disch := decide) [decodeWord, decodeMajor15, decodeMajor16, sel_word3, sel_word6, field_eq_sel, valueAt, bitsAt]

/-- Major 0x17: FENCE. -/
@[simp] theorem decodes_fence :
    (∀ (r : BitVec 1) (s : BitVec 3), Decodes (.fence r s)) ∧ (∀ (d : BitVec 6), Decodes (.acq d) ∧ Decodes (.rel d) ∧ Decodes (.bind d) ∧ Decodes (.unbind d)) := by
  and_intros <;> intros <;> and_intros
  all_goals refine .of_encodeWord rfl ?_
  all_goals simp (disch := decide) [decodeWord, decodeMajor17, sel_word1, sel_word2, field_eq_sel, valueAt, bitsAt]

/-- Major 0x18: PH. -/
@[simp] theorem decodes_phaser :
    (∀ (d : BitVec 6) (m : BitVec 2), Decodes (.phnew d m) ∧ Decodes (.phjoin d m))
    ∧ (∀ (d : BitVec 6), Decodes (.phleave d) ∧ Decodes (.phsig d) ∧ Decodes (.phwait d) ∧ Decodes (.phnext d) ∧ Decodes (.phfree d)) := by
  and_intros <;> intros <;> and_intros
  all_goals refine .of_encodeWord rfl ?_
  all_goals simp (disch := decide) [decodeWord, decodeMajor18, sel_word1, sel_word2, field_eq_sel, valueAt, bitsAt]

/-- Major 0x19: MSG. -/
@[simp] theorem decodes_message :
    (∀ (f t : BitVec 6), Decodes (.qsend f t)) ∧ (∀ (f p : BitVec 6), Decodes (.qpeek f p)) ∧ (∀ (f t n : BitVec 6), Decodes (.msend f t n) ∧ Decodes (.msendw f t n)) := by
  and_intros <;> intros <;> and_intros
  all_goals refine .of_encodeWord rfl ?_
  all_goals simp (disch := decide) [decodeWord, decodeMajor19, sel_word2, sel_word3, field_eq_sel, valueAt, bitsAt]

/-- Major 0x1A: TASK. -/
@[simp] theorem decodes_task :
    (∀ (f : BitVec 6), Decodes (.spawn f) ∧ Decodes (.fork f) ∧ Decodes (.joinc f)) ∧ (∀ (f t : BitVec 6), Decodes (.launch f t)) ∧ Decodes .exit ∧ Decodes .yield := by
  and_intros <;> intros <;> and_intros
  all_goals refine .of_encodeWord rfl ?_
  all_goals simp (disch := decide) [decodeWord, decodeMajor1A, sel_word0, sel_word1, sel_word2, field_eq_sel, valueAt, bitsAt]

/-- Major 0x1B: PIPE. -/
@[simp] theorem decodes_pipe :
    (∀ (f t : BitVec 6), Decodes (.pipedecl f t) ∧ Decodes (.pipego f t)) ∧ (∀ (f t : BitVec 6) (x : BitVec 1), Decodes (.pipewait f t x)) := by
  and_intros <;> intros <;> and_intros
  all_goals refine .of_encodeWord rfl ?_
  all_goals simp (disch := decide) [decodeWord, decodeMajor1B, sel_word2, sel_word3, field_eq_sel, valueAt, bitsAt]

/-- Major 0x1C: VIEW/LANE, but for VIEW of one base. -/
@[simp] theorem decodes_viewLane :
    (∀ (d : BitVec 6), Decodes (.viewRegister d) ∧ Decodes (.lclaimRegister d) ∧ Decodes (.lrn d)) ∧ (∀ (d : BitVec 6) (r : BitVec 7), Decodes (.lclaim d r)) ∧ Decodes .lyield := by
  and_intros <;> intros <;> and_intros
  all_goals refine .of_encodeWord rfl ?_
  all_goals simp (disch := decide) [decodeWord, decodeMajor1C, sel_word0, sel_word1, sel_word2, field_eq_sel, valueAt, bitsAt]

/-- Major 0x1D: CPY. -/
@[simp] theorem decodes_copy :
    (∀ (f t : BitVec 6), Decodes (.cpy f t) ∧ Decodes (.cpys f t)) ∧ (∀ (f t p : BitVec 6), Decodes (.cpyt f t p) ∧ Decodes (.cpytSet f t p))
    ∧ (∀ (f t : BitVec 6) (o : BitVec 4), Decodes (.cpyd f t o)) := by
  and_intros <;> intros <;> and_intros
  all_goals refine .of_encodeWord rfl ?_
  all_goals simp (disch := decide) [decodeWord, decodeMajor1D, sel_word2, sel_word3, field_eq_sel, valueAt, bitsAt]

/-- Major 0x1E: RC. -/
@[simp] theorem decodes_remote :
    (∀ (f t n : BitVec 6) (r : BitVec 1), Decodes (.rcall f t n r)) ∧ (∀ (m : BitVec 3), Decodes (.rret m)) := by
  and_intros <;> intros
  all_goals refine .of_encodeWord rfl ?_
  all_goals simp (disch := decide) [decodeWord, decodeMajor1E, sel_word1, sel_word4, field_eq_sel, valueAt, bitsAt]

/-- Major 0x1F: SYS. -/
@[simp] theorem decodes_system :
    (∀ (d : BitVec 6) (c : BitVec 12), Decodes (.trap d c)) ∧ Decodes .eret ∧ Decodes .nop ∧ Decodes .canck ∧ Decodes .halt
    ∧ (∀ (d : BitVec 6) (n : BitVec 12), Decodes (.sysr d n) ∧ Decodes (.sysw d n)) ∧ (∀ (c : BitVec 12), Decodes (.brk c)) := by
  and_intros <;> intros <;> and_intros
  all_goals refine .of_encodeWord rfl ?_
  all_goals simp (disch := decide) [decodeWord, decodeMajor1F, sel_word0, sel_word1, sel_word2, field_eq_sel, valueAt, bitsAt]

/-- Major 0x20: VINT. -/
@[simp] theorem decodes_vectorInt :
    (∀ (d a b : BitVec 5) (k t : BitVec 3) (s : BitVec 1), Decodes (.vadd d a b k t s) ∧ Decodes (.vsub d a b k t s) ∧ Decodes (.vmul d a b k t s))
    ∧ (∀ (d a b : BitVec 5) (k t : BitVec 3), Decodes (.vmulh d a b k t) ∧ Decodes (.vmin d a b k t) ∧ Decodes (.vmax d a b k t) ∧ Decodes (.vminn d a b k t)
      ∧ Decodes (.vmaxn d a b k t) ∧ Decodes (.vand d a b k t) ∧ Decodes (.vor d a b k t) ∧ Decodes (.vxor d a b k t) ∧ Decodes (.vshl d a b k t) ∧ Decodes (.vshr d a b k t)
      ∧ Decodes (.vsar d a b k t)) ∧ (∀ (d a : BitVec 5) (k t : BitVec 3) (s : BitVec 1), Decodes (.vabs d a k t s)) := by
  and_intros <;> intros <;> and_intros
  all_goals refine .of_encodeWord rfl ?_
  all_goals simp (disch := decide) [decodeWord, decodeMajor20, sel_word5, sel_word6, field_eq_sel, valueAt, bitsAt]

/-- Major 0x21: VFP. -/
@[simp] theorem decodes_vectorFloat :
    (∀ (d a b : BitVec 5) (k t : BitVec 3) (s : BitVec 1), Decodes (.vfadd d a b k t s) ∧ Decodes (.vfsub d a b k t s) ∧ Decodes (.vfmul d a b k t s)
      ∧ Decodes (.vfma d a b k t s) ∧ Decodes (.vfms d a b k t s) ∧ Decodes (.vfnma d a b k t s) ∧ Decodes (.vfdiv d a b k t s))
    ∧ (∀ (d a b : BitVec 5) (k t : BitVec 3), Decodes (.vfmin d a b k t) ∧ Decodes (.vfmax d a b k t))
    ∧ (∀ (d a : BitVec 5) (k t : BitVec 3) (s : BitVec 1), Decodes (.vfsqrt d a k t s))
    ∧ (∀ (d a : BitVec 5) (k t : BitVec 3), Decodes (.vfabs d a k t) ∧ Decodes (.vfneg d a k t) ∧ Decodes (.vfclass d a k t)) := by
  and_intros <;> intros <;> and_intros
  all_goals refine .of_encodeWord rfl ?_
  all_goals simp (disch := decide) [decodeWord, decodeMajor21, sel_word4, sel_word5, sel_word6, field_eq_sel, valueAt, bitsAt]

/-- Major 0x22: VCMP. -/
@[simp] theorem decodes_compare :
    (∀ (d a b : BitVec 5) (k t : BitVec 3), Decodes (.vceq d a b k t) ∧ Decodes (.vcne d a b k t) ∧ Decodes (.vclt d a b k t) ∧ Decodes (.vcle d a b k t)
      ∧ Decodes (.vfceq d a b k t) ∧ Decodes (.vfclt d a b k t) ∧ Decodes (.vfcle d a b k t))
    ∧ (∀ (d a b : BitVec 5), Decodes (.kand d a b) ∧ Decodes (.kor d a b) ∧ Decodes (.kxor d a b))
    ∧ (∀ (d a : BitVec 5), Decodes (.knot d a) ∧ Decodes (.kpop d a) ∧ Decodes (.kfirst d a) ∧ Decodes (.kmovK d a) ∧ Decodes (.kmovG d a) ∧ Decodes (.kmovKg d a)) := by
  and_intros <;> intros <;> and_intros
  all_goals refine .of_encodeWord rfl ?_
  all_goals simp (disch := decide) [decodeWord, decodeMajor22, sel_word2, sel_word3, sel_word5, field_eq_sel, valueAt, bitsAt]

/-- Major 0x23: VPERM. -/
@[simp] theorem decodes_move :
    (∀ (d a : BitVec 5) (k t : BitVec 3), Decodes (.vbcast d a k t) ∧ Decodes (.vcomp d a k t) ∧ Decodes (.vexpd d a k t) ∧ Decodes (.vmov d a k t))
    ∧ (∀ (d : BitVec 5) (t : BitVec 3) (c : BitVec 6) (y : BitVec 2), Decodes (.vbcastConstant d c y t))
    ∧ (∀ (d a b : BitVec 5) (k t : BitVec 3), Decodes (.vslideup d a b k t) ∧ Decodes (.vslidedn d a b k t) ∧ Decodes (.vperm d a b k t) ∧ Decodes (.vmerge d a b k t)
      ∧ Decodes (.vins d a b k t)) ∧ (∀ (d a b : BitVec 5) (t : BitVec 3), Decodes (.vextr d a b t)) := by
  and_intros <;> intros <;> and_intros
  all_goals refine .of_encodeWord rfl ?_
  all_goals simp (disch := decide) [decodeWord, decodeMajor23, sel_word4, sel_word5, field_eq_sel, valueAt, bitsAt]

/-- Major 0x24: VRED. -/
@[simp] theorem decodes_reduce (d a : BitVec 5) (k t : BitVec 3) :
    Decodes (.vrsum d a k t) ∧ Decodes (.vrtsum d a k t) ∧ Decodes (.vrmax d a k t) ∧ Decodes (.vrmin d a k t) := by
  and_intros
  all_goals refine .of_encodeWord rfl ?_
  all_goals simp (disch := decide) [decodeWord, decodeMajor24, sel_word4, field_eq_sel, valueAt, bitsAt]

/-- Major 0x25: VCVT. -/
@[simp] theorem decodes_convert :
    (∀ (d a : BitVec 5) (s : BitVec 1) (e : BitVec 4) (k t r : BitVec 3), Decodes (.vcvt d a s e k t r)) ∧ (∀ (d a b : BitVec 5) (k t r : BitVec 3), Decodes (.vpack d a b k t r))
    ∧ (∀ (d a : BitVec 5) (k t : BitVec 3) (p : BitVec 2) (z h : BitVec 1), Decodes (.vunpk d a p z h k t)) := by
  and_intros <;> intros
  all_goals refine .of_encodeWord rfl ?_
  all_goals simp (disch := decide) [decodeWord, decodeMajor25, sel_word6, sel_word7, field_eq_sel, valueAt, bitsAt]

/-- Major 0x26: VMEM. -/
@[simp] theorem decodes_vectorMemory (d a b : BitVec 5) (k t : BitVec 3) :
    Decodes (.vld d a b k t) ∧ Decodes (.vst d a b k t) ∧ Decodes (.vlds d a b k t) ∧ Decodes (.vsts d a b k t) ∧ Decodes (.vldx d a b k t) ∧ Decodes (.vstx d a b k t)
    ∧ Decodes (.vstxc d a b k t) := by
  and_intros
  all_goals refine .of_encodeWord rfl ?_
  all_goals simp (disch := decide) [decodeWord, decodeMajor26, sel_word5, field_eq_sel, valueAt, bitsAt]

/-- Major 0x27: VSPEC. -/
@[simp] theorem decodes_special :
    (∀ (d a b : BitVec 5), Decodes (.vtild d a b)) ∧ (∀ (d a b : BitVec 5) (k t : BitVec 3), Decodes (.vti d a b k t) ∧ Decodes (.visect d a b k t)) := by
  and_intros <;> intros <;> and_intros
  all_goals refine .of_encodeWord rfl ?_
  all_goals simp (disch := decide) [decodeWord, decodeMajor27, sel_word3, sel_word5, field_eq_sel, valueAt, bitsAt]

/-- Major 0x28: MX. -/
@[simp] theorem decodes_matrix :
    (∀ (f : BitVec 6), Decodes (.mxcfg f) ∧ Decodes (.mxwr f)) ∧ (∀ (t : BitVec 6), Decodes (.mxgo t)) ∧ (∀ (y : BitVec 2) (n : BitVec 3), Decodes (.mxz y n))
    ∧ (∀ (f t : BitVec 6), Decodes (.mxrd f t) ∧ Decodes (.mxrectForm f t) ∧ Decodes (.mxrectFree f t)) ∧ (∀ (s : BitVec 4), Decodes (.mxsp s)) := by
  and_intros <;> intros <;> and_intros
  all_goals refine .of_encodeWord rfl ?_
  all_goals simp (disch := decide) [decodeWord, decodeMajor28, sel_word1, sel_word2, field_eq_sel, valueAt, bitsAt]

/-- Major 0x29, 0x2A: OPM and QNT. -/
@[simp] theorem decodes_operand :
    (∀ (t n : BitVec 6), Decodes (.oclaim t n)) ∧ (∀ (f : BitVec 6), Decodes (.orel f)) ∧ (∀ (t f : BitVec 6), Decodes (.ofill f t))
    ∧ (∀ (s : BitVec 3), Decodes (.semp s) ∧ Decodes (.semv s)) ∧ (∀ (t f : BitVec 6) (r : BitVec 1), Decodes (.qnt f t r)) := by
  and_intros <;> intros <;> and_intros
  all_goals refine .of_encodeWord rfl ?_
  all_goals simp (disch := decide) [decodeWord, decodeMajor29, decodeMajor2A, sel_word1, sel_word2, sel_word3, field_eq_sel, valueAt, bitsAt]

/-- Major 0x2B: PLAS. -/
@[simp] theorem decodes_plastic :
    (∀ (f : BitVec 6) (l : BitVec 4) (r : BitVec 3), Decodes (.trc f l r)) ∧ (∀ (f t : BitVec 6) (s : BitVec 4) (c : BitVec 1), Decodes (.reward f t s c))
    ∧ (∀ (f t : BitVec 6) (s : BitVec 4), Decodes (.plreg f t s) ∧ Decodes (.pldrop f t s)) := by
  and_intros <;> intros <;> and_intros
  all_goals refine .of_encodeWord rfl ?_
  all_goals simp (disch := decide) [decodeWord, decodeMajor2B, sel_word3, sel_word4, field_eq_sel, valueAt, bitsAt]

/-- Major 0x2C: EVT. -/
@[simp] theorem decodes_event :
    (∀ (f : BitVec 6) (n : BitVec 1), Decodes (.evsend f n)) ∧ (∀ (t : BitVec 6), Decodes (.waitev t)) ∧ (∀ (f t : BitVec 6), Decodes (.stepadv f t) ∧ Decodes (.dring f t))
    ∧ (∀ (f : BitVec 6), Decodes (.nrn f)) := by
  and_intros <;> intros <;> and_intros
  all_goals refine .of_encodeWord rfl ?_
  all_goals simp (disch := decide) [decodeWord, decodeMajor2C, sel_word1, sel_word2, field_eq_sel, valueAt, bitsAt]

/-- Major 0x2D: DQ. -/
@[simp] theorem decodes_deltaQueue :
    (∀ (f t : BitVec 6), Decodes (.dqdecl f t))
    ∧ (∀ (f t h : BitVec 6), Decodes (.dqpush f t h) ∧ Decodes (.dqpop f t h) ∧ Decodes (.dqarr f t h) ∧ Decodes (.dqjoin f t h) ∧ Decodes (.dqclose f t h))
    ∧ (∀ (t h : BitVec 6), Decodes (.dqcons t h) ∧ Decodes (.dqfront t h)) ∧ (∀ (f h : BitVec 6), Decodes (.dqlook f h)) := by
  and_intros <;> intros <;> and_intros
  all_goals refine .of_encodeWord rfl ?_
  all_goals simp (disch := decide) [decodeWord, decodeMajor2D, sel_word2, sel_word3, field_eq_sel, valueAt, bitsAt]

/-- VIEW of one base with a constant: the word of the base 3 and the constant 0 is VIEW's with a register, and has no other meaning (R167). -/
@[simp] theorem decodes_view (s : BitVec 2) (b : BitVec 10) : Decodes (.view s b) := by
  by_cases hsb : s = 3 ∧ b = 0
  · intro w hw
    cases (if_pos hsb).symm.trans hw
  · have hs := s.isLt
    have hb := b.isLt
    have hne : ¬ (s.toNat = 3 ∧ b.toNat = 0) := fun h => hsb ⟨BitVec.eq_of_toNat_eq h.1, BitVec.eq_of_toNat_eq h.2⟩
    have hreg : sel 5 15 (word2 0x70000000 18 s 8 b) ≠ 24576 := by
      simp only [sel, word2, BitVec.toNat_ofNat]
      omega
    refine .of_encodeWord (if_neg hsb) ?_
    simp (disch := decide) [decodeWord, decodeMajor1C, hreg, sel_word2, field_eq_sel, valueAt, bitsAt]

theorem Decodes.of_encodeWord_none {i : Instr} (he : encodeWord i = none) : Decodes i := by
  intro w hw
  rw [he] at hw
  cases hw

/-- Every instruction but an X pair is what its word decodes to; an event of the part has no word. -/
theorem decodes_of_encodeExt_none {i : Instr} (hx : encodeExt i = none) : Decodes i := by
  cases i
  case addiX | andiX | oriX | xoriX | shliX | shriX | sariX | sltiX | sltniX | muliX | liX | lihX | leaX => cases hx
  all_goals first | exact .of_encodeWord_none rfl | simp

/-! ## X pairs (R78, R132) -/

/-- The X word of a pair is one, and its extension joins the instruction of the second word to the pair. -/
def PairDecodes (i : Instr) : Prop :=
  ∀ x w, encodeExt i = some x → encodeWord i = some w → sel 26 6 x = 0x3E ∧ ∃ j, decodeWord w = some j ∧ withExt (field 0 26 x) j = some i

theorem PairDecodes.of_decodes {i j : Instr} {x : Word} (hj : Decodes j) (hx : encodeExt i = some x) (hw : encodeWord i = encodeWord j)
    (h3e : sel 26 6 x = 0x3E) (hp : withExt (field 0 26 x) j = some i) : PairDecodes i := by
  intro y w hy he
  rw [hx, Option.some.injEq] at hy
  exact hy ▸ ⟨h3e, j, hj w (hw ▸ he), hp⟩

/-- The X word with extension `e` is one and holds it. -/
theorem sel_extWord (e : BitVec 26) : sel 26 6 (word1 0xF8000000 0 e) = 0x3E := by
  simp (disch := decide) [sel_word1, valueAt, bitsAt]
theorem field_extWord (e : BitVec 26) : field 0 26 (word1 0xF8000000 0 e) = e := by
  simp (disch := decide) [field_eq_sel, sel_word1, valueAt]

/-- Every X pair is what its second word decodes to, with the extension of its X word. -/
theorem pairDecodes (i : Instr) : PairDecodes i := by
  cases i
  case addiX d a i e => exact .of_decodes (j := .addi d a i) (by simp) rfl rfl (sel_extWord e) (by rw [field_extWord]; rfl)
  case andiX d a i e => exact .of_decodes (j := .andi d a i) (by simp) rfl rfl (sel_extWord e) (by rw [field_extWord]; rfl)
  case oriX d a i e => exact .of_decodes (j := .ori d a i) (by simp) rfl rfl (sel_extWord e) (by rw [field_extWord]; rfl)
  case xoriX d a i e => exact .of_decodes (j := .xori d a i) (by simp) rfl rfl (sel_extWord e) (by rw [field_extWord]; rfl)
  case shliX d a s => exact .of_decodes (j := .shli d a s) (by simp) rfl rfl rfl rfl
  case shriX d a s => exact .of_decodes (j := .shri d a s) (by simp) rfl rfl rfl rfl
  case sariX d a s => exact .of_decodes (j := .sari d a s) (by simp) rfl rfl rfl rfl
  case sltiX d a i e => exact .of_decodes (j := .slti d a i) (by simp) rfl rfl (sel_extWord e) (by rw [field_extWord]; rfl)
  case sltniX d a i e => exact .of_decodes (j := .sltni d a i) (by simp) rfl rfl (sel_extWord e) (by rw [field_extWord]; rfl)
  case muliX d a i e => exact .of_decodes (j := .muli d a i) (by simp) rfl rfl (sel_extWord e) (by rw [field_extWord]; rfl)
  case liX d i e => exact .of_decodes (j := .li d i) (by simp) rfl rfl (sel_extWord e) (by rw [field_extWord]; rfl)
  case lihX d i e => exact .of_decodes (j := .lih d i) (by simp) rfl rfl (sel_extWord e) (by rw [field_extWord]; rfl)
  case leaX d a i e => exact .of_decodes (j := .lea d a i) (by simp) rfl rfl (sel_extWord e) (by rw [field_extWord]; rfl)
  all_goals exact fun _ _ hx => nomatch hx

/-! ## Bytes (R8) -/

/-- A word's bytes, first the lowest. -/
theorem bytesOfWord_eq (w : Word) :
    bytesOfWord w = [BitVec.ofNat 8 w.toNat, BitVec.ofNat 8 (w.toNat / 2 ^ 8), BitVec.ofNat 8 (w.toNat / 2 ^ 8 / 2 ^ 8), BitVec.ofNat 8 (w.toNat / 2 ^ 8 / 2 ^ 8 / 2 ^ 8)] := rfl

/-- A word is what its four bytes hold. -/
theorem wordOfBytes_bytes (w : Word) :
    wordOfBytes (BitVec.ofNat 8 w.toNat) (BitVec.ofNat 8 (w.toNat / 2 ^ 8)) (BitVec.ofNat 8 (w.toNat / 2 ^ 8 / 2 ^ 8)) (BitVec.ofNat 8 (w.toNat / 2 ^ 8 / 2 ^ 8 / 2 ^ 8)) = w := by
  have hw := w.isLt
  refine BitVec.eq_of_toNat_eq ?_
  simp only [wordOfBytes, BitVec.toNat_ofNat]
  omega

/-- Bytes that begin with a word's decode as that word with the one after it, where there is one. -/
theorem decode_bytesOfWord (w : Word) (rest : List Byte) : ∃ next, decode (bytesOfWord w ++ rest) = decodeWords w next := by
  rw [bytesOfWord_eq]
  exact ⟨_, congrArg (decodeWords · _) (wordOfBytes_bytes w)⟩

theorem decode_bytesOfWord_pair (x w : Word) (rest : List Byte) : decode (bytesOfWord x ++ bytesOfWord w ++ rest) = decodeWords x (some w) := by
  rw [bytesOfWord_eq, bytesOfWord_eq]
  exact congrArg₂ decodeWords (wordOfBytes_bytes x) (congrArg some (wordOfBytes_bytes w))

/-- A word that decodes is no X word. -/
theorem sel_ne_of_decodeWord {w : Word} {i : Instr} (h : decodeWord w = some i) : sel 26 6 w ≠ 0x3E := by
  intro hx
  simp [decodeWord, hx] at h

/-- Settles O3: a word decodes to its instruction, and an X pair to the instruction of its second word with the X word's extension. -/
theorem decodeEncodeAgree : Obligations.DecodeEncodeAgree := by
  intro i rest he
  obtain ⟨w, hw⟩ := Option.isSome_iff_exists.1 he
  cases hx : encodeExt i with
  | none =>
    obtain ⟨next, hd⟩ := decode_bytesOfWord w rest
    have hi : decodeWord w = some i := decodes_of_encodeExt_none hx w hw
    simp [encode, hx, hw, hd, decodeWords, sel_ne_of_decodeWord hi, hi, Instr.words]
  | some x =>
    obtain ⟨h3e, j, hj, hp⟩ := pairDecodes i x w hx hw
    simp [encode, hx, hw, -List.append_assoc, decode_bytesOfWord_pair, decodeWords, h3e, hj, hp, Instr.words]

/-- Settles O4: each word or byte list is decoded. -/
theorem decodedWords : Obligations.DecodedWords := by
  unfold Obligations.DecodedWords
  decide +kernel

end Sys2Proof
end

section
/-! Proofs: completion in straight code and the frame of the register-only scalar instructions (O6). -/

namespace Sys2Proof.Machine

/-! ## Completion in straight code (R106, R141) -/

/-- A second write of a slot replaces the first. -/
theorem State.setSlot_setSlot (s : State) (h : Nat) (x y : Slot) : (s.setSlot h x).setSlot h y = s.setSlot h y := by
  simp only [State.setSlot, Tab.set_set]

theorem State.modSlot_setSlot (s : State) (h : Nat) (x : Slot) (f : Slot → Slot) : (s.setSlot h x).modSlot h f = s.setSlot h (f x) := by
  rw [State.modSlot, State.slot_setSlot_self, State.setSlot_setSlot]

/-- A change of the issuing slot that leaves it as it is in this state is none. -/
theorem State.modMe_congr {s : State} {f g : Slot → Slot} (h : f s.me = g s.me) : s.modMe f = s.modMe g := congrArg (s.setSlot s.cur) h

/-- Another hart is not the issuing one. -/
theorem State.slot_modMe_ne {s : State} {h : Nat} (f : Slot → Slot) (hh : h ≠ s.cur) : (s.modMe f).slot h = s.slot h := s.slot_modSlot_ne s.cur h f hh

/-- The waits of a completed instruction have ended, and the pc is past its bytes. -/
def Slot.passed (x : Slot) (len : Nat) : Slot := { x.resume with pc := x.pc + r64 len }

/-- Where no body ends, the back-edge test leaves the pc to the next instruction. -/
theorem State.backEdge_of_ne {s : State} {h : Nat} {last : Reg64} (hl : ∀ t ∈ (s.slot h).loops.head?, t.last ≠ last) (f : Nat) (next : Reg64) :
    s.backEdge f h last next = s.modSlot h (fun x => { x with pc := next }) := by
  cases f with
  | zero => rfl
  | succ f =>
    rw [State.backEdge]
    cases hx : (s.slot h).loops with
    | nil => rfl
    | cons t rest => exact if_pos (hl t (by rw [hx]; rfl))

theorem State.advance_of_ne {s : State} {h len : Nat} (hl : ∀ t ∈ (s.slot h).loops.head?, t.last ≠ (s.slot h).pc + r64 len - 4) :
    s.advance h len = s.modSlot h (fun x => x.passed len) := by
  have hr : ∀ t ∈ ((s.setSlot h (s.slot h).resume).slot h).loops.head?, t.last ≠ (s.slot h).pc + r64 len - 4 := by
    rw [State.slot_setSlot_self]
    exact hl
  rw [State.advance, State.backEdge_of_ne hr, State.modSlot_setSlot]
  rfl

/-- Of a slot only the ports' entries differ. -/
def Slot.SameButPorts (x y : Slot) : Prop :=
  y = { x with q0 := y.q0, q1 := y.q1, q2 := y.q2, q3 := y.q3, vq0 := y.vq0, vq1 := y.vq1, inbox := y.inbox }

theorem Slot.SameButPorts.trans {x y z : Slot} (h : x.SameButPorts y) (h' : y.SameButPorts z) : x.SameButPorts z := by
  rw [Slot.SameButPorts] at *
  rw [h', h]

/-- Taking an operand's entry changes ports alone (R69, R72). -/
theorem Slot.sameButPorts_dequeue (x : Slot) (o : Opd) : x.SameButPorts (x.dequeue o) := by
  rw [Slot.dequeue]
  split
  · split
    · split
      · split <;> rfl
      · rw [Slot.setQueue]
        split_ifs <;> rfl
    · rfl
    · split <;> rfl
  · rfl

theorem Slot.sameButPorts_foldl_dequeue (l : List Opd) (x : Slot) : x.SameButPorts (l.foldl Slot.dequeue x) := by
  induction l generalizing x with
  | nil => rfl
  | cons o l ih => exact (x.sameButPorts_dequeue o).trans (ih _)

/-- In straight code an instruction takes its ports' entries and the pc moves past it. -/
theorem State.commit_of_straight {i : Instr} {s : State} (hs : Claims.straight i s) :
    s.commit i = s.modMe (fun x => ((opds i).foldl Slot.dequeue x).passed (4 * i.words)) := by
  obtain ⟨hrpt, hloops⟩ := hs
  have hports := Slot.sameButPorts_foldl_dequeue (opds i) s.me
  have hme : (s.dequeueAll i).me = (opds i).foldl Slot.dequeue s.me := s.me_modMe _
  have hr : ¬ (s.dequeueAll i).me.rptOn = true := by
    rw [hme, hports]
    simp [hrpt]
  have hl : ∀ t ∈ (s.dequeueAll i).me.loops.head?, t.last ≠ (s.dequeueAll i).me.pc + r64 (4 * i.words) - 4 := by
    rw [hme, hports]
    exact hloops
  rw [State.commit, if_neg hr]
  exact (State.advance_of_ne hl).trans (State.modMe_modMe ..)

/-- An instruction that reads no inbound port takes no entry. -/
theorem Slot.foldl_dequeue_of_no_inbound {l : List Opd} (h : ∀ o ∈ l, o.inbound = false) (x : Slot) : l.foldl Slot.dequeue x = x := by
  induction l generalizing x with
  | nil => rfl
  | cons o l ih =>
    have ho : x.dequeue o = x := by simp [Slot.dequeue, h o List.mem_cons_self]
    rw [List.foldl_cons, ho]
    exact ih (fun p hp => h p (List.mem_cons_of_mem o hp)) x

theorem State.commit_of_no_inbound {i : Instr} {s : State} (hs : Claims.straight i s) (hn : ∀ o ∈ opds i, o.inbound = false) :
    s.commit i = s.modMe (fun x => x.passed (4 * i.words)) := by
  rw [State.commit_of_straight hs]
  exact State.modMe_congr (congrArg (fun x : Slot => x.passed (4 * i.words)) (Slot.foldl_dequeue_of_no_inbound hn s.me))

theorem sequentialCompletion : Claims.SequentialCompletion := by
  intro i s hs hn
  rw [State.commit_of_no_inbound hs hn]
  exact ⟨s.me_modMe _, fun h hh => State.slot_modMe_ne _ hh, rfl, rfl, rfl, rfl, rfl, rfl, rfl, rfl⟩

/-! ## The frame of a register write (R64, R289) -/

/-- The words that stay bad once a window range is written. -/
theorem Slot.mended_eq (x : Slot) (off n : Nat) : x.mended off n = x.bad.filter (fun b => decide (b + 4 ≤ off) || decide (off + n ≤ b)) := by
  refine congrArg (fun p => x.bad.filter p) (funext fun b => ?_)
  simp only [overlaps, Bool.not_and, ← decide_not, Nat.not_lt, Bool.or_comm]

/-- A register write changes the window and the bad words alone. -/
theorem Slot.putG_eq (x : Slot) (n : Nat) (v : Reg64) :
    x.putG n v = { x with win := (x.putG n v).win, bad := x.bad.filter (fun b => decide (n = 0) || decide (b + 4 ≤ x.gBase + 8 * n) || decide (x.gBase + 8 * n + 8 ≤ b)) } := by
  by_cases hn : n = 0
  · simp [hn]
  · have hbad : (x.putG n v).bad = x.mended (x.gOff n) 8 := by rw [Slot.putG, if_neg hn]
    have hrest : x.putG n v = { x with win := (x.putG n v).win, bad := (x.putG n v).bad } := by rw [Slot.putG, if_neg hn]
    rw [hrest, hbad, Slot.mended_eq]
    simp only [hn, decide_false, Bool.false_or]
    rfl

/-- Window bytes outside the register written are those of before. -/
theorem Slot.get_putG_of_outside {x : Slot} {n : Nat} (v : Reg64) (hwf : x.win.wf = true) {a : Nat} (ha : n = 0 ∨ a < x.gBase + 8 * n ∨ x.gBase + 8 * n + 8 ≤ a) :
    (x.putG n v).win.get a = x.win.get a := by
  by_cases hn : n = 0
  · rw [hn, Slot.putG_zero]
  · rw [Slot.putG, if_neg hn]
    exact (Mem.get_write _ _ _ _ _ hwf).trans (if_neg (by simp only [Slot.gOff]; omega))

theorem State.putG_of_storage {s : State} {n : Nat} (v : Reg64) (hn : n < 56) : s.putG n v = s.modMe (fun x => x.putG n v) := if_pos hn

/-- A storage register is no port. -/
theorem Opd.inbound_of_storage {o : Opd} {n : Nat} (hreg : o.reg = .g n) (hn : n < 56) : o.inbound = false := by
  simp only [Opd.inbound, hreg, Bool.and_eq_false_imp, Bool.or_eq_false_iff, Bool.and_eq_false_imp, decide_eq_true_eq, decide_eq_false_iff_not, beq_eq_false_iff_ne]
  omega

/-- What a register-only instruction reads and writes is a storage register, none of them a port. -/
theorem no_inbound_of_storage {i : Instr} {d a b : BitVec 6} (ha : a.toNat < 56) (hb : b.toNat < 56) (hd : d.toNat < 56)
    (ho : ∀ o ∈ opds i, o.reg ∈ ([.g d.toNat, .g a.toNat, .g b.toNat] : List RegName)) : ∀ o ∈ opds i, o.inbound = false := by
  intro o h
  have hreg := ho o h
  simp only [List.mem_cons, List.not_mem_nil, or_false] at hreg
  obtain hr | hr | hr := hreg
  · exact Opd.inbound_of_storage hr hd
  · exact Opd.inbound_of_storage hr ha
  · exact Opd.inbound_of_storage hr hb

/-- The frame of a register write followed by the completion in straight code. -/
theorem putG_commit_frame {s : State} {i : Instr} {n : Nat} (v : Reg64) (hn : n < 56) (hs : Claims.straight i s)
    (hin : ∀ o ∈ opds i, o.inbound = false) : (s.putG n v).commit i = s.modMe (fun x => (x.putG n v).passed (4 * i.words)) := by
  have hme : (s.putG n v).me = s.me.putG n v := by rw [State.putG_of_storage v hn, State.me_modMe]
  have hs' : Claims.straight i (s.putG n v) := by
    rw [Claims.straight, hme, Slot.putG_eq]
    exact hs
  rw [State.commit_of_no_inbound hs' hin, State.putG_of_storage v hn, State.modMe_modMe]

theorem registerFrame : Claims.RegisterFrame := by
  intro s d a b w c m10 m6 m14 e i t hi ha hb hd hwf hs hr he
  have hin : ∀ o ∈ opds i, o.inbound = false := by
    refine no_inbound_of_storage ha hb hd ?_
    delta opds
    fin_cases hi <;> simp [gd, gs, gdn, gsn, bOpd]
  have hv : ∃ v, exec i s = .next ((s.putG d.toNat v).commit i) := by
    fin_cases hi <;> exact ⟨_, run_ready _ _ _ hr⟩
  obtain ⟨v, hv⟩ := hv
  have ht : t = s.modMe (fun x => (x.putG d.toNat v).passed (4 * i.words)) := by
    rw [← putG_commit_frame v hd hs hin]
    exact Host.Outcome.next.inj (he.symm.trans hv)
  have hme : t.me = (s.me.putG d.toNat v).passed (4 * i.words) := by rw [ht, State.me_modMe]
  have hwin : t.me.win = (s.me.putG d.toNat v).win := by rw [hme]; rfl
  refine ⟨by rw [ht]; rfl, fun h hh => ht ▸ State.slot_modMe_ne _ hh, ?_, fun x hx => ?_, fun n hne hn => ?_⟩
  · have hz : (d = 0) = (d.toNat = 0) := propext ⟨congrArg BitVec.toNat, fun h => BitVec.eq_of_toNat_eq h⟩
    simp only [hme, hz]
    exact congrArg (fun x : Slot => x.passed (4 * i.words)) (Slot.putG_eq s.me d.toNat v)
  · have hx' : d.toNat = 0 ∨ x < s.me.gBase + 8 * d.toNat ∨ s.me.gBase + 8 * d.toNat + 8 ≤ x := hx.imp_left (congrArg BitVec.toNat)
    rw [hwin, Slot.get_putG_of_outside v hwf hx']
  · rw [← Slot.getG_putG_ne s.me d.toNat n v hwf hne, hme]
    rfl

/-- Settles O6: a register-only instruction writes its destination and commits, and in straight code the commit passes on. -/
theorem completionAndFrame : Obligations.CompletionAndFrame := ⟨sequentialCompletion, registerFrame⟩

end Sys2Proof.Machine
end

section
/-! Proofs: the results of the immediate operations, LI, LIH and LEA (O13). -/

namespace Sys2Proof.Machine

/-- A ready instruction whose effect is one register written writes it and completes. -/
theorem exec_writes {i : Instr} {s : State} {n : Nat} {v : Reg64} {body : State → Act} (he : exec i s = run i s body) (hb : body s = .done (s.putG n v))
    (hr : ready i s = true) : exec i s = .next ((s.putG n v).commit i) := by
  rw [he, run_ready i s body hr, hb]
  rfl

/-- Bits 63:40 replaced are those of the new value over the rest of the old one (R133). -/
theorem setBits_high (x v : Reg64) : setBits x 40 24 v.toNat = (v.setWidth 24 ++ x.setWidth 40 : BitVec 64) := by
  have hx := x.isLt
  refine BitVec.eq_of_toNat_eq ?_
  have happ : (v.setWidth 24 ++ x.setWidth 40 : BitVec 64).toNat = v.toNat % 2 ^ 24 * 2 ^ 40 + x.toNat % 2 ^ 40 := by
    rw [BitVec.toNat_append, ← Nat.shiftLeft_add_eq_or_of_lt (x.setWidth 40).isLt, Nat.shiftLeft_eq, BitVec.toNat_setWidth, BitVec.toNat_setWidth]
  rw [happ, setBits, BitVec.toNat_ofNat, bits]
  omega

theorem aluImmediateResults : Claims.AluImmediateResults := by
  intro s d a q m e
  and_intros <;> exact exec_writes rfl rfl

theorem immediateAndAddressResults : Claims.ImmediateAndAddressResults := by
  intro s d a m e
  have high (v : Reg64) : putHigh d v s = .done (s.putG d.toNat (v.setWidth 24 ++ (s.getG d.toNat).setWidth 40 : BitVec 64)) := by
    rw [putHigh, setBits_high]
  exact ⟨exec_writes rfl rfl, exec_writes rfl rfl, exec_writes rfl (high _), exec_writes rfl (high _), exec_writes rfl rfl, exec_writes rfl rfl⟩

/-- Settles O13: each operation is one register written, its value the claim's by definition but for LIH's, which is computed from its parts. -/
theorem immediateResults : Obligations.ImmediateResults := ⟨aluImmediateResults, immediateAndAddressResults⟩

end Sys2Proof.Machine
end

section
/-! Proofs: what reset leaves (O5). -/

namespace Sys2Proof.Machine

/-- A memory that holds nothing reads 0 (log 1). -/
theorem Mem.read_nil (a n : Nat) : Mem.read [] a n = 0 := by
  induction n generalizing a with
  | zero => rfl
  | succ n ih => rw [Mem.read, ih]; rfl

/-- Every hart of the reset state is one nothing has run on. -/
theorem State.slot_reset (h : Nat) : State.reset.slot h = Slot.initial h := rfl

/-! ## A hart nothing has run on (R63, R177, R178, R330, log 4, log 8) -/

section Initial
variable {h : Nat}

theorem Slot.initial_of_isNib (hn : isNib h = true) : Slot.initial h = { srs := r64 (nibOf h * 2 ^ 32 + 0xFFFFFFFE) ^^^ seedXor, winSize := 8192 } := if_pos hn

theorem isControl_of_isNib (hn : isNib h = true) : isControl h = false := by
  simp only [isNib, isControl, decide_eq_true_eq, decide_eq_false_iff_not] at *
  omega

theorem isHandler_of_isNib (hn : isNib h = true) : isHandler h = false := by
  simp only [isNib, isHandler, decide_eq_true_eq, decide_eq_false_iff_not] at *
  omega

theorem isHandler_of_isControl (hc : isControl h = true) : isHandler h = false := by
  simp only [isControl, isHandler, decide_eq_true_eq, decide_eq_false_iff_not] at *
  omega

/-- What the harts of every kind have in common. -/
theorem Slot.initial_common (h : Nat) : let x := Slot.initial h
    x.live = isControl h ∧ x.rcTimeout = 2000 ∧ x.gBase = 0 ∧ x.kBase = 448 ∧ x.vBase = 512 ∧ x.fcr = 0 ∧ x.xvec = 0 ∧ x.loops = [] ∧ x.acks = 0 ∧ x.inbox = [] := by
  rw [Slot.initial]
  split
  · next hn => simp [isControl_of_isNib hn]
  · split
    · next hc => simp [hc]
    · next hc => split <;> simp [hc]

theorem Slot.initial_priv (h : Nat) : (Slot.initial h).priv = if isHandler h then 1 else if isControl h then 2 else 0 := by
  rw [Slot.initial]
  split
  · next hn => simp [isHandler_of_isNib hn, isControl_of_isNib hn, Slot.priv, bits]
  · split
    · next hc => simp [isHandler_of_isControl hc, Slot.priv, bits]
    · next hc => split <;> simp [*, Slot.priv, bits]

theorem Slot.win_initial (h : Nat) : (Slot.initial h).win = [] := by
  rw [Slot.initial]
  split_ifs <;> rfl

theorem Slot.getG_initial (h n : Nat) : (Slot.initial h).getG n = 0 := by
  rw [Slot.getG, Slot.win_initial, Mem.read_nil]
  split <;> rfl

end Initial

/-- Settles O5: every field of the reset state is its type's empty value but for a hart's, which depend on its kind. -/
theorem resetState : Obligations.ResetState := by
  refine ⟨?_, fun a => ⟨rfl, rfl, rfl, rfl, rfl, rfl, rfl, fun h => ?_⟩, rfl, rfl, rfl, rfl, rfl, rfl, rfl, fun h => ?_, fun _ => ⟨rfl, rfl, rfl⟩,
    fun _ => ⟨rfl, rfl, rfl, fun _ => ⟨rfl, rfl, rfl, rfl⟩⟩, fun _ => ⟨rfl, rfl, rfl⟩, fun _ => rfl, rfl, rfl, rfl⟩
  · exact { spm := rfl, ext := rfl, nibMem := rfl, tblMem := rfl, opMem := rfl, accMem := rfl, imem := rfl, win := List.forall_mem_nil _, saved := List.forall_mem_nil _ }
  · rw [State.slot_reset, Slot.win_initial]
    rfl
  · obtain ⟨hlive, hrc, hg, hk, hv, hfcr, hxvec, hloops, hacks, hinbox⟩ := Slot.initial_common h
    refine ⟨hlive, hrc, hg, hk, hv, hfcr, hxvec, hloops, hacks, hinbox, Slot.getG_initial h, fun hn => ?_, Slot.initial_priv h⟩
    rw [State.slot_reset, Slot.initial_of_isNib hn]
    rfl

end Sys2Proof.Machine
end

section
/-! Proofs: register views and ports (O8). -/

namespace Sys2Proof.Machine

/-! ## Storage registers (R63, R64, R289) -/

theorem Slot.getG_of_ne_zero {x : Slot} {n : Nat} (hn : n ≠ 0) : x.getG n = r64 (Mem.read x.win (x.gBase + 8 * n) 8) := if_neg hn

theorem State.getG_of_storage {s : State} {n : Nat} (hn : n < 56) : s.getG n = s.me.getG n := if_pos hn

/-- The bytes of a storage register are the window's. -/
theorem Slot.byteOf_getG (x : Slot) {n i : Nat} (hn : n ≠ 0) (hi : i < 8) : Claims.byteOf (x.getG n).toNat i = x.win.get (x.gBase + 8 * n + i) := by
  have hlt : Mem.read x.win (x.gBase + 8 * n) 8 < 2 ^ 64 := Mem.read_lt _ _ 8
  rw [Slot.getG_of_ne_zero hn, r64, BitVec.toNat_ofNat, Nat.mod_eq_of_lt hlt, Mem.byteOf_read _ _ _ _ hi]

theorem Slot.putG_of_ne_zero {x : Slot} {n : Nat} (hn : n ≠ 0) (v : Reg64) :
    x.putG n v = { x with win := Mem.write x.win (x.gBase + 8 * n) 8 v.toNat, bad := x.bad.filter (fun b => decide (b + 4 ≤ x.gBase + 8 * n) || decide (x.gBase + 8 * n + 8 ≤ b)) } := by
  rw [← Slot.mended_eq]
  exact if_neg hn

theorem scalarRegisterViews : Claims.ScalarRegisterViews := by
  intro s d v
  refine ⟨rfl, (State.putG_of_storage v (by decide)).trans (State.modMe_congr rfl), fun h0 hd i hi => ?_, fun h0 hd hwf => ⟨Mem.write s.me.win (s.me.gBase + 8 * d) 8 v.toNat, ?_, fun o => ?_⟩⟩
  · rw [State.getG_of_storage hd, Slot.byteOf_getG _ h0.ne' hi]
  · rw [State.putG_of_storage v hd]
    exact State.modMe_congr (Slot.putG_of_ne_zero h0.ne' v)
  · exact Mem.get_write _ _ _ _ _ hwf

/-! ## Outbound ports (R69, R71) -/

section Outbound
variable {cl c sl : Nat} (hc : c < 256) (hsl : sl < 4)
include hc hsl

/-- The neighbours a core's slot sends to: the next core, the one before, and the next slot. -/
theorem outTarget_of_core : outTarget ((cl * 256 + c) * 5 + sl) 60 = ((cl * 256 + (c + 1) % 256) * 5 + sl, 0)
    ∧ outTarget ((cl * 256 + c) * 5 + sl) 61 = ((cl * 256 + (c + 255) % 256) * 5 + sl, 1)
    ∧ outTarget ((cl * 256 + c) * 5 + sl) 62 = ((cl * 256 + c) * 5 + (sl + 1) % 4, 2) := by
  have hcid : cidOf ((cl * 256 + c) * 5 + sl) = cl * 256 + c := by simp only [cidOf]; omega
  have hslot : slOf ((cl * 256 + c) * 5 + sl) = sl := by simp only [slOf]; omega
  have hcore : (cl * 256 + c) % 256 = c := by omega
  have hcluster : (cl * 256 + c) / 256 * 256 = cl * 256 := by omega
  simp [outTarget, coreOf, hcid, hslot, hcore, hcluster, hartOf]

theorem isControl_of_core (hcl : cl < 64) : isControl ((cl * 256 + c) * 5 + sl) = false := by
  simp only [isControl, decide_eq_false_iff_not]
  omega

end Outbound

theorem State.putG_of_outbound {s : State} {n : Nat} (hctl : isControl s.cur = false) (hn : 60 ≤ n ∧ n < 63) (v : Reg64) :
    s.putG n v = s.modSlot (outTarget s.cur n).1 (fun x => x.setQueue (outTarget s.cur n).2 (x.queue (outTarget s.cur n).2 ++ [v])) := by
  rw [State.putG, if_neg (by omega), if_neg (not_or.2 ⟨by omega, not_or.2 ⟨by omega, by simp [hctl]⟩⟩)]

theorem outboundPorts : Claims.OutboundPorts := by
  intro s v c sl hc hsl cl hcl hcur
  obtain ⟨h60, h61, h62⟩ := outTarget_of_core (cl := cl) hc hsl
  have hctl : isControl s.cur = false := hcur ▸ isControl_of_core hc hsl hcl
  refine ⟨?_, ?_, ?_, ?_⟩
  · rw [State.putG_of_outbound hctl (by omega), hcur, h60]
    rfl
  · rw [State.putG_of_outbound hctl (by omega), hcur, h61]
    rfl
  · rw [State.putG_of_outbound hctl (by omega), hcur, h62]
    rfl
  · have hwindow : s.getG 60 = r64 (s.sendWindow s.cur 60) := rfl
    rw [hwindow, State.sendWindow, if_neg (by simp [hctl]), hcur, h60, apply_ite r64]
    rfl

/-! ## Inbound ports (R69, R72, R106) -/

/-- Only the inbound operands take an entry. -/
theorem Slot.foldl_dequeue_filter (l : List Opd) (x : Slot) : l.foldl Slot.dequeue x = (l.filter Opd.inbound).foldl Slot.dequeue x := by
  induction l generalizing x with
  | nil => rfl
  | cons o l ih =>
    rw [List.foldl_cons, ih]
    cases ho : o.inbound with
    | true => rw [List.filter_cons_of_pos ho, List.foldl_cons]
    | false =>
      have hx : x.dequeue o = x := by simp [Slot.dequeue, ho]
      rw [List.filter_cons_of_neg (by simp [ho]), hx]

/-- An instruction with one inbound operand takes that port's entry. -/
theorem State.me_commit_of_one_inbound {i : Instr} {s : State} {o : Opd} (hs : Claims.straight i s) (ho : (opds i).filter Opd.inbound = [o]) :
    (s.commit i).me = (s.me.dequeue o).passed (4 * i.words) := by
  rw [State.commit_of_straight hs, State.me_modMe, Slot.foldl_dequeue_filter, ho]
  rfl

/-- The oldest message loses its first word, and goes with its last. -/
theorem Slot.dequeue_inbox {x : Slot} {v : Reg64} {l : List Reg64} {rest : List (List Reg64)} (hx : x.inbox = (v :: l) :: rest) :
    x.dequeue ⟨.g 63, false, true⟩ = { x with inbox := if l = [] then rest else l :: rest } := by
  rw [Slot.dequeue]
  cases l <;> simp [Opd.inbound, hx]

section Waits
variable {i : Instr} {s : State}

/-- With nothing on its way to a register no operand is pending. -/
theorem Slot.pending_of_none {x : Slot} (hp : x.pend = []) (o : Opd) : x.pending o = false := by
  rw [Slot.pending, hp]
  split <;> simp

theorem State.portPending_of_no_ops (ho : s.ops = []) (o : Opd) : s.portPending o = false := by
  simp only [State.portPending, State.portHeld, ho, List.any_nil]
  split <;> simp

/-- With nothing pending, an empty inbound port makes the instruction wait for the port, or for the inbox. -/
theorem issueWait_of_empty (hp : s.me.pend = []) (ho : s.ops = []) (he : ∃ o ∈ opds i, s.me.emptyPort o = true) :
    issueWait i s = some (if (opds i).any (fun o => s.me.emptyPort o && o.reg == .g 63) then .inbox else .port) := by
  have hpend : ¬ ((s.touched i).any s.me.pending = true ∨ (opds i).any s.portPending = true) := by
    simp [Slot.pending_of_none hp, State.portPending_of_no_ops ho]
  rw [issueWait, if_neg hpend, if_pos (List.any_eq_true.2 he)]

/-- An instruction whose effect traps in no state waits in its own slot. -/
theorem run_waits {body : State → Act} {w : Wait} (hi : s.me.issues = true) (ht : issueTrap i s = none) (hw : issueWait i s = some w) (hb : ∃ t, body s = .done t) :
    run i s body = .next (s.mark w) := by
  obtain ⟨t, hb⟩ := hb
  simp [run, runState, hi, ht, hw, hb]

theorem Slot.emptyPort_inbox {x : Slot} {o : Opd} : x.emptyPort o = true ∧ o.reg = .g 63 ↔ x.inbox = [] ∧ o.write = false ∧ o.reg = .g 63 := by
  constructor
  · rintro ⟨he, hr⟩
    simp only [Slot.emptyPort, Opd.inbound, hr, Bool.and_eq_true, Bool.not_eq_true', if_true, List.isEmpty_iff] at he
    exact ⟨he.2, he.1.1, hr⟩
  · rintro ⟨hi, hw, hr⟩
    simp [Slot.emptyPort, Opd.inbound, hi, hw, hr]

/-- An operand that reads an inbound port without an entry. -/
theorem Slot.emptyPort_of_empty {x : Slot} {o : Opd} (hw : o.write = false)
    (he : (o.reg = .g 56 ∧ x.q0 = []) ∨ (o.reg = .g 57 ∧ x.q1 = []) ∨ (o.reg = .g 58 ∧ x.q2 = []) ∨ (o.reg = .g 59 ∧ x.q3 = []) ∨ (o.reg = .g 63 ∧ x.inbox = [])) :
    x.emptyPort o = true := by
  obtain ⟨hr, hq⟩ | ⟨hr, hq⟩ | ⟨hr, hq⟩ | ⟨hr, hq⟩ | ⟨hr, hq⟩ := he <;> simp [Slot.emptyPort, Opd.inbound, Slot.queue, hw, hr, hq]

end Waits

theorem inboundPorts : Claims.InboundPorts := by
  intro s d a b w c m
  refine ⟨fun i hs => ?_, fun v l => ?_, fun v l => ?_, fun v l rest h => ?_, fun i hi hissues htrap hpend hops he => ?_⟩
  · have taken {o : Opd} := State.me_commit_of_one_inbound (o := o) hs
    exact ⟨taken, taken, taken, taken, taken, taken, fun v l rest hx ho => (taken ho).trans (by rw [Slot.dequeue_inbox (x := s.me) hx]; rfl)⟩
  · and_intros <;> intro h <;> simp [State.getG, Slot.queue, h]
  · and_intros <;> intro h <;> simp [State.getV, h]
  · simp [State.getG, h]
  · obtain ⟨o, ho, hw, he⟩ := he
    have hwait := issueWait_of_empty hpend hops ⟨o, ho, Slot.emptyPort_of_empty hw he⟩
    have hexec (k : Wait) (hk : issueWait i s = some k) : exec i s = .next (s.mark k) := by
      fin_cases hi <;> exact run_waits hissues htrap hk ⟨_, rfl⟩
    refine ⟨_, ?_, hexec _ hwait, ?_⟩
    · split_ifs <;> simp
    · simp only [ite_eq_left_iff, reduceCtorEq, imp_false, not_not, List.any_eq_true, Bool.and_eq_true, beq_iff_eq, Slot.emptyPort_inbox]
      exact ⟨fun ⟨o, ho, hi, h⟩ => ⟨hi, o, ho, h⟩, fun ⟨hi, o, ho, h⟩ => ⟨o, ho, hi, h⟩⟩

/-- Settles O8: a register's bytes are the window's, an outbound port is a neighbour's queue, and of an instruction's operands its inbound ports
alone are dequeued. -/
theorem registerViewsAndPorts : Obligations.RegisterViewsAndPorts := ⟨scalarRegisterViews, outboundPorts, inboundPorts⟩

end Sys2Proof.Machine
end

section
/-! Proofs: VIEW and the lane grants (O16). -/

namespace Sys2Proof.Machine

/-- A ready instruction whose effect is a state completes from it. -/
theorem exec_done {i : Instr} {s t : State} {body : State → Act} (he : exec i s = run i s body) (hb : body s = .done t) (hr : ready i s = true) :
    exec i s = .next (t.commit i) := by
  rw [he, run_ready i s body hr, hb]
  rfl

/-- A ready instruction whose effect is a trap takes it. -/
theorem exec_traps {i : Instr} {s : State} {c : Nat} {v : Reg64} {body : State → Act} (he : exec i s = run i s body) (hb : body s = .trap c v) (hr : ready i s = true) :
    exec i s = .next (s.trapMe i c v) := by
  rw [he, run_ready i s body hr, hb]
  rfl

/-! ## VIEW (R63, R167) -/

section Bases
variable {s : State} {g k v : Nat}

theorem setBases_of_misaligned (h : g % 8 ≠ 0 ∨ k % 8 ≠ 0 ∨ v % 8 ≠ 0) : ∃ c ∈ [g, k, v], c % 8 ≠ 0 ∧ setBases g k v s = .trap 2 (r64 c) := by
  have hfind : ([g, k, v].find? (fun b => b % 8 != 0)).isSome = true := by simpa [List.find?_isSome] using h
  obtain ⟨c, hc⟩ := Option.isSome_iff_exists.1 hfind
  have hodd : (c % 8 != 0) = true := List.find?_some (p := fun b => b % 8 != 0) hc
  exact ⟨c, List.mem_of_find?_eq_some hc, bne_iff_ne.1 hodd, by rw [setBases, hc]⟩

variable (hg : g % 8 = 0) (hk : k % 8 = 0) (hv : v % 8 = 0)
include hg hk hv

theorem find_misaligned_eq_none : [g, k, v].find? (fun b => b % 8 != 0) = none := by simp [hg, hk, hv]

theorem setBases_of_outside (h : s.me.winSize ≤ g ∨ s.me.winSize ≤ k ∨ s.me.winSize ≤ v) : ∃ c ∈ [g, k, v], s.me.winSize ≤ c ∧ setBases g k v s = .trap 3 (r64 c) := by
  have hfind : ([g, k, v].find? (fun b => decide (s.me.winSize ≤ b))).isSome = true := by simpa [List.find?_isSome] using h
  obtain ⟨c, hc⟩ := Option.isSome_iff_exists.1 hfind
  have hout : decide (s.me.winSize ≤ c) = true := List.find?_some (p := fun b => decide (s.me.winSize ≤ b)) hc
  exact ⟨c, List.mem_of_find?_eq_some hc, of_decide_eq_true hout, by rw [setBases, find_misaligned_eq_none hg hk hv]; simp only [hc]⟩

theorem setBases_of_inside (h : g < s.me.winSize ∧ k < s.me.winSize ∧ v < s.me.winSize) :
    setBases g k v s = .done (s.modMe (fun x => { x with gBase := g, kBase := k, vBase := v })) := by
  have hfind : [g, k, v].find? (fun b => decide (s.me.winSize ≤ b)) = none := by simpa using h
  rw [setBases, find_misaligned_eq_none hg hk hv]
  simp only [hfind]

end Bases

theorem viewBases : Claims.ViewBases := by
  intro s q b d
  have hlow : bits (s.getG d.toNat) 0 16 = (s.getG d.toNat).toNat % 2 ^ 16 := by rw [bits, pow_zero, Nat.div_one]
  have hbody := congrArg (fun g => setBases g (bits (s.getG d.toNat) 16 16) (bits (s.getG d.toNat) 32 16) s) hlow
  refine ⟨fun hr hin => exec_done rfl (if_neg (Nat.not_le.2 hin)) hr, fun hr hout => exec_traps rfl (if_pos hout) hr, fun hr => ⟨?_, ?_, ?_⟩⟩
  · intro hg hk hu hgin hkin huin
    exact exec_done rfl (hbody.trans (setBases_of_inside hg hk hu ⟨hgin, hkin, huin⟩)) hr
  · intro h
    obtain ⟨c, hc, hodd, hset⟩ := setBases_of_misaligned (s := s) h
    exact ⟨c, hc, hodd, exec_traps rfl (hbody.trans hset) hr⟩
  · intro hg hk hu h
    obtain ⟨c, hc, hout, hset⟩ := setBases_of_outside hg hk hu h
    exact ⟨c, hc, hout, exec_traps rfl (hbody.trans hset) hr⟩

/-! ## The share rule (R168) -/

/-- What demands have been given after L full rounds and one that served the first k of them. -/
def dealt (L : Nat) : Nat → List Nat → List Nat
  | _, [] => []
  | 0, d :: ds => min d L :: dealt L 0 ds
  | k + 1, d :: ds => min d (L + 1) :: dealt L k ds

theorem getD_dealt (L k : Nat) (ds : List Nat) (i : Nat) : (dealt L k ds).getD i 0 = min (ds.getD i 0) (L + if i < k then 1 else 0) := by
  induction ds generalizing k i with
  | nil => simp [dealt]
  | cons d ds ih =>
    cases k with
    | zero =>
      cases i with
      | zero => simp [dealt]
      | succ i => simpa [dealt] using ih 0 i
    | succ k =>
      cases i with
      | zero => simp [dealt]
      | succ i => simpa [dealt] using ih k i

theorem length_dealt (L k : Nat) (ds : List Nat) : (dealt L k ds).length = ds.length := by
  induction ds generalizing k with
  | nil => rfl
  | cons d ds ih => cases k <;> simp [dealt, ih]

/-- A round that served all of them is a full one. -/
theorem dealt_of_length_le {L k : Nat} {ds : List Nat} (h : ds.length ≤ k) : dealt L k ds = dealt (L + 1) 0 ds := by
  induction ds generalizing k with
  | nil => simp [dealt]
  | cons d ds ih =>
    obtain ⟨k, rfl⟩ := Nat.exists_eq_succ_of_ne_zero (by simp at h; omega : k ≠ 0)
    rw [dealt, dealt, ih (by simpa using h)]

theorem dealt_zero_zero (ds : List Nat) : dealt 0 0 ds = ds.map (fun _ => 0) := by
  induction ds with
  | nil => rfl
  | cons d ds ih => simp [dealt, ih]

/-- Demands below the level are met. -/
theorem dealt_of_met {L : Nat} {ds : List Nat} (h : ∀ d ∈ ds, d ≤ L) : dealt L 0 ds = ds := by
  induction ds with
  | nil => rfl
  | cons d ds ih => rw [dealt, min_eq_left (h d List.mem_cons_self), ih (fun x hx => h x (List.mem_cons_of_mem d hx))]

theorem shareRound_zero (as ds : List Nat) : shareRound as ds 0 = (as, 0) := by
  induction as generalizing ds with
  | nil => cases ds <;> rfl
  | cons a as ih => cases ds <;> simp [shareRound, ih]

theorem shareRound_met (ds : List Nat) (u : Nat) : shareRound ds ds u = (ds, u) := by
  induction ds with
  | nil => rfl
  | cons d ds ih => simp [shareRound, ih]

theorem shareGo_zero (f : Nat) (as ds : List Nat) : shareGo f as ds 0 = as := by
  induction f with
  | zero => rfl
  | succ f ih => rw [shareGo, shareRound_zero, ih]

theorem shareGo_met (f : Nat) (ds : List Nat) (u : Nat) : shareGo f ds ds u = ds := by
  induction f with
  | zero => rfl
  | succ f ih => rw [shareGo, shareRound_met, ih]

/-- A round at level L serves the first k demands, and it is a full one unless the units run out. -/
theorem shareRound_dealt (L : Nat) (ds : List Nat) (u : Nat) : ∃ k v, shareRound (dealt L 0 ds) ds u = (dealt L k ds, v)
    ∧ (dealt L k ds).sum + v = (dealt L 0 ds).sum + u ∧ v ≤ u ∧ (v = 0 ∨ (ds.length ≤ k ∧ (v < u ∨ ∀ d ∈ ds, d ≤ L))) := by
  induction ds generalizing u with
  | nil => exact ⟨0, u, rfl, rfl, le_rfl, .inr ⟨le_rfl, .inr (List.forall_mem_nil _)⟩⟩
  | cons d ds ih =>
    by_cases hu : u = 0
    · exact ⟨0, 0, by rw [hu, shareRound_zero], by rw [hu], Nat.zero_le u, .inl rfl⟩
    · by_cases hd : L < d
      · obtain ⟨k, v, hround, hsum, hle, hend⟩ := ih (u - 1)
        have hmin : min d L = L ∧ min d (L + 1) = L + 1 := by omega
        refine ⟨k + 1, v, ?_, ?_, by omega, hend.imp_right fun ⟨hk, _⟩ => ⟨by simpa using hk, .inl (by omega)⟩⟩
        · rw [dealt, shareRound, hmin.1, if_pos ⟨hd, Nat.pos_of_ne_zero hu⟩, hround, dealt, hmin.2]
        · simp only [dealt, List.sum_cons, hmin]
          omega
      · obtain ⟨k, v, hround, hsum, hle, hend⟩ := ih u
        have hmin : min d L = d ∧ min d (L + 1) = d := by omega
        refine ⟨k + 1, v, ?_, ?_, hle, hend.imp_right fun ⟨hk, hmet⟩ => ⟨by simpa using hk, hmet.imp_right fun hm => ?_⟩⟩
        · rw [dealt, shareRound, hmin.1, if_neg (fun h => absurd h.1 (lt_irrefl d)), hround, dealt, hmin.2]
        · simp only [dealt, List.sum_cons, hmin]
          omega
        · exact List.forall_mem_cons.2 ⟨Nat.not_lt.1 hd, hm⟩

/-- Rounds enough to spend the units end with them spent or every demand met. -/
theorem shareGo_dealt (ds : List Nat) (f L u : Nat) (hf : u < f) : ∃ M k v, shareGo f (dealt L 0 ds) ds u = dealt M k ds
    ∧ (dealt M k ds).sum + v = (dealt L 0 ds).sum + u ∧ (v = 0 ∨ dealt M k ds = ds) := by
  induction f generalizing L u with
  | zero => omega
  | succ f ih =>
    obtain ⟨k, v, hround, hsum, hle, hend⟩ := shareRound_dealt L ds u
    rw [shareGo, hround]
    obtain hv | ⟨hk, hlt | hmet⟩ := hend
    · exact ⟨L, k, 0, by rw [hv, shareGo_zero], hv ▸ hsum, .inl rfl⟩
    · obtain ⟨M, j, w, hgo, hsum', hend'⟩ := ih (L + 1) v (by omega)
      rw [dealt_of_length_le hk] at hsum ⊢
      exact ⟨M, j, w, hgo, hsum'.trans hsum, hend'⟩
    · have hfull : dealt L k ds = ds := (dealt_of_length_le hk).trans (dealt_of_met (fun d hd => (hmet d hd).trans (Nat.le_succ L)))
      exact ⟨L, k, v, by rw [hfull, shareGo_met], hsum, .inr hfull⟩

/-- What the share rule gives, a level and a last round, and what is left of the units. -/
theorem share_eq (ds : List Nat) (units : Nat) : ∃ M k v, share ds units = dealt M k ds ∧ (dealt M k ds).sum + v = units ∧ (v = 0 ∨ dealt M k ds = ds) := by
  obtain ⟨M, k, v, hgo, hsum, hend⟩ := shareGo_dealt ds (units + 1) 0 units (Nat.lt_succ_self units)
  rw [dealt_zero_zero] at hgo hsum
  exact ⟨M, k, v, hgo, by simpa using hsum, hend⟩

theorem sum_dealt_le (L k : Nat) (ds : List Nat) : (dealt L k ds).sum ≤ ds.sum := by
  induction ds generalizing k with
  | nil => simp [dealt]
  | cons d ds ih =>
    cases k with
    | zero => simpa [dealt] using Nat.add_le_add (min_le_left d L) (ih 0)
    | succ k => simpa [dealt] using Nat.add_le_add (min_le_left d (L + 1)) (ih k)

theorem sum_map_getD (l : List Nat) : ((List.range l.length).map (fun i => l.getD i 0)).sum = l.sum := by
  congr 1
  exact List.ext_getElem (by simp) (fun i _ h => by simp [h])

/-- The share rule is fair (R168). -/
theorem share_fair (n units : Nat) (d : Nat → Nat) : Claims.fair n units d (fun i => (share ((List.range n).map d) units).getD i 0) := by
  obtain ⟨M, k, v, hshare, hsum, hend⟩ := share_eq ((List.range n).map d) units
  have hlen : (dealt M k ((List.range n).map d)).length = n := by rw [length_dealt, List.length_map, List.length_range]
  have hget {i : Nat} (hi : i < n) : (dealt M k ((List.range n).map d)).getD i 0 = min (d i) (M + if i < k then 1 else 0) := by
    rw [getD_dealt]
    simp [hi]
  rw [hshare]
  refine ⟨fun i hi => (hget hi).trans_le (min_le_left _ _), ?_, fun i hi j hj hlt => ?_⟩
  · have hle := sum_dealt_le M k ((List.range n).map d)
    have hs := sum_map_getD (dealt M k ((List.range n).map d))
    rw [hlen] at hs
    rw [hs]
    obtain hv | hmet := hend
    · omega
    · rw [hmet] at hsum ⊢
      omega
  · simp only [hget hi, hget hj] at hlt ⊢
    split_ifs at * <;> omega

/-! ## The new grant (R168, R169) -/

theorem sumBelow_eq (n : Nat) (f : Nat → Nat) : sumBelow n f = ((List.range n).map f).sum := List.sum_eq_foldl.symm

/-- A renegotiation off a nib writes the new grant of its slot. -/
theorem State.slot_renegotiate {s : State} {h : Nat} (hn : isNib h = false) : (s.renegotiate h).slot h = { s.slot h with grant := s.newGrant h } := by
  rw [State.renegotiate, if_neg (by simp [hn])]
  have hself := s.slot_modSlot_self h (fun x => { x with grant := s.newGrant h })
  split
  · exact hself
  · exact hself

theorem State.slot_renegotiate_ne {s : State} {h k : Nat} (hk : k ≠ h) : (s.renegotiate h).slot k = s.slot k := by
  have hne := s.slot_modSlot_ne h k (fun x => { x with grant := s.newGrant h }) hk
  rw [State.renegotiate]
  split_ifs
  · rfl
  · exact hne
  · exact hne

@[simp] theorem State.renegotiate_cur (s : State) (h : Nat) : (s.renegotiate h).cur = s.cur := by
  rw [State.renegotiate]
  split_ifs <;> rfl

theorem State.grant_renegotiate {s : State} (hn : isNib s.cur = false) : (s.renegotiate s.cur).me.grant = s.newGrant s.cur := by
  rw [State.me, State.renegotiate_cur, State.slot_renegotiate hn]

/-- A grant is at most the request, in whole units of 4 lanes. -/
theorem State.newGrant_le (s : State) (h : Nat) : s.newGrant h ≤ 4 * s.demand h := by
  rw [State.newGrant]
  split
  · exact le_rfl
  · exact Nat.mul_le_mul_left 4 (min_le_left _ _)

theorem State.demand_le (s : State) (h : Nat) : 4 * s.demand h ≤ (s.slot h).request := by
  rw [State.demand]
  split <;> omega

/-- The new grant of a core's slot, over the shares of its octet and its core. -/
theorem State.newGrant_of_core {s : State} {h : Nat} (hc : isControl h = false) : s.newGrant h =
    4 * min (s.demand h) (min ((share ((List.range 4).map (fun i => s.demand (h / 5 * 5 + i)))
        ((share ((List.range 8).map (fun c => ((List.range 4).map (fun i => s.demand ((h / 40 * 8 + c) * 5 + i))).sum)) 16).getD (h / 5 % 8) 0)).getD (h % 5) 0)
      (s.grantUnits h + (16 - ((List.range 8).map (fun c => ((List.range 4).map (fun i => s.grantUnits ((h / 40 * 8 + c) * 5 + i))).sum)).sum))) := by
  have hpanel : panelOf h * 8 = h / 40 * 8 := by simp only [panelOf, cidOf]; omega
  rw [State.newGrant, if_neg (by simp [hc])]
  simp only [sumBelow_eq, hartOf, hpanel]
  rfl

theorem isControl_of_isTask {h : Nat} (ht : isTask h = true) : isControl h = false := by
  simp only [isTask, isControl, decide_eq_true_eq, decide_eq_false_iff_not] at *
  omega

theorem isNib_of_isTask {h : Nat} (ht : isTask h = true) : isNib h = false := by
  simp only [isTask, isNib, decide_eq_true_eq, decide_eq_false_iff_not] at *
  omega

theorem claim_of_not_nib {s : State} {d : BitVec 6} {n : Nat} (hn : isNib s.cur = false) :
    let t := (s.modMe (fun x => { x with request := (n + 3) / 4 * 4 })).renegotiate s.cur
    claim d n s = .done (t.putG d.toNat (r64 t.me.grant)) := if_neg (by simp [hn])

theorem laneGrants : Claims.LaneGrants := by
  intro s d r
  refine ⟨fun hn => ⟨fun hr => ?_, fun hr => ?_, fun hr => ?_, ?_⟩, fun ht => ?_, fun hn i hi hr => ?_, fun hr => exec_done rfl rfl hr⟩
  · exact exec_done rfl (claim_of_not_nib hn) hr
  · exact exec_done rfl (claim_of_not_nib hn) hr
  · exact exec_done rfl (if_neg (by simp [hn])) hr
  · rw [State.grant_renegotiate hn]
    exact (s.newGrant_le s.cur).trans (s.demand_le s.cur)
  · refine ⟨_, _, share_fair 8 16 _, share_fair 4 _ _, ?_, fun h hh => State.slot_renegotiate_ne hh⟩
    rw [State.grant_renegotiate (isNib_of_isTask ht), State.newGrant_of_core (isControl_of_isTask ht)]
    rfl
  · fin_cases hi
    · exact exec_done rfl (if_pos hn) hr
    · exact exec_done rfl (if_pos hn) hr
    · exact exec_done rfl (if_pos hn) hr

/-- Settles O16: VIEW by what the search for a bad base finds; the grants by the share rule, which is fair because after every round the demands are
met up to a level. -/
theorem viewsAndLanes : Obligations.ViewsAndLanes := ⟨viewBases, laneGrants⟩

end Sys2Proof.Machine
end

section
/-! Proofs: system instructions, fetch and status traps, and services (O18). -/

namespace Sys2Proof.Machine

/-! ## System instructions (R107, R118, R173 to R176) -/

/-- HALT outside a control core is privileged (R83, R176). -/
theorem issueTrap_halt_of_not_control {s : State} (hctl : isControl s.cur = false) (hroutine : s.me.routine = none) : issueTrap .halt s = some (5, 0x7C000007) := by
  have hword : (Instr.halt.word.zeroExtend 64 : Reg64) = 0x7C000007 := rfl
  have hpriv : privileged s.cur .halt = some 0x7C000007 := (if_neg (by simp [hctl])).trans (congrArg some hword)
  have hlegal : legal .halt = true := rfl
  have hhere : s.me.illegalHere .halt = false := rfl
  have hnumber : badNumber .halt = none := rfl
  simp [issueTrap, hroutine, hlegal, hhere, hnumber, hpriv]

theorem systemInstructions : Claims.SystemInstructions := by
  intro s d c
  refine ⟨fun hr hroutine hc => exec_done rfl (if_neg ?_) hr, fun hr hc => exec_traps rfl (if_pos (.inr hc)) hr, fun hr => exec_traps rfl rfl hr,
    fun hr => exec_done rfl rfl hr, fun hr hdead => exec_done rfl (if_neg (by simp [hdead])) hr, fun hr hdead => exec_traps rfl (if_pos hdead) hr,
    fun hr => ?yield, fun hr => ?exit, fun hr => exec_done rfl rfl hr,
    fun hctl hi hroutine => run_trap _ _ _ _ _ hi (issueTrap_halt_of_not_control hctl hroutine)⟩
  · rw [hroutine]
    simp [hc]
  case yield =>
    refine ⟨s.modMe (fun x => { x with notBefore := s.clk + 5 }), exec_done rfl rfl hr, ?_, fun n hn => ?_⟩
    · rw [State.me_modMe]
    · have hle : (s.modMe (fun x => { x with notBefore := s.clk + 5 })).me.notBefore ≤ s.clk + n := by
        simp only [State.mayIssue, Bool.and_eq_true, decide_eq_true_eq] at hn
        exact hn.2
      rw [State.me_modMe] at hle
      exact Nat.lt_of_add_lt_add_left hle
  case exit =>
    have htake : s.take .exit (.retire s) = s.modMe (Slot.beginRetire s.clk) := State.modMe_modMe s id _
    exact (run_ready .exit s .retire hr).trans (congrArg Host.Outcome.next htake)

/-! ## Fetch and status traps (R82, R138, R281) -/

section Withdraw
variable (s : State) (h : Nat)

/-- An instruction that counts as not issued no longer waits; of its slot a store on its way is its only other trace. -/
theorem State.slot_withdraw_self : ∃ n, (s.withdraw h).slot h = { s.slot h with acks := n, blocked := none, waiting := none } := by
  have hslot (t : State) (x : Slot) (f : CoreState → CoreState) : ((t.setSlot h x).modCore (cidOf h) f).slot h = x := t.slot_setSlot_self h x
  rw [State.withdraw, hslot]
  split
  · split <;> exact ⟨_, rfl⟩
  · exact ⟨_, rfl⟩

theorem State.slot_withdraw_ne {k : Nat} (hk : k ≠ h) : (s.withdraw h).slot k = s.slot k := by
  have hslot (t : State) (x : Slot) (f : CoreState → CoreState) : ((t.setSlot h x).modCore (cidOf h) f).slot k = t.slot k := t.slot_setSlot_ne h k x hk
  rw [State.withdraw, hslot]
  split <;> rfl

theorem State.spm_withdraw : (s.withdraw h).spm = s.spm := by
  have hspm (t : State) (x : Slot) (f : CoreState → CoreState) : ((t.setSlot h x).modCore (cidOf h) f).spm = t.spm := rfl
  rw [State.withdraw, hspm]
  split <;> rfl

end Withdraw

theorem fetchAndStatusTraps : Claims.FetchAndStatusTraps := by
  intro s w a cid sl
  refine ⟨fun hi => congrArg Host.Outcome.next (if_pos hi), fun hi => congrArg Host.Outcome.next (if_pos hi), ?_⟩
  intro h c v rest hsl htakes hq
  refine ⟨(s.withdraw h).modSlot h (fun x => { x with statusQ := rest }), ?_, ?_⟩
  · have htake : s.takeStatus h = ((s.withdraw h).modSlot h (fun x => { x with statusQ := rest })).trapAt h c v (s.slot h).pc 0 := by
      rw [State.takeStatus, if_pos htakes, hq]
    exact congrArg Host.Outcome.next ((if_pos hsl).trans htake)
  · obtain ⟨n, hn⟩ := s.slot_withdraw_self h
    rw [State.slot_modSlot_self, hn]
    exact ⟨rfl, rfl, rfl, rfl, fun k hk => (State.slot_modSlot_ne _ h k _ hk).trans (s.slot_withdraw_ne h hk), s.spm_withdraw h⟩

/-! ## Services and arrivals (R107, R125, R173, R176) -/

/-- A service whose code an end of service covers is served. -/
theorem serviceOp_of_service {s : State} {id c : Nat} {o : Op} {args : List Reg64} {ok : Nat → Bool} (k : Op → List Reg64 → State) (ho : s.op? id = some o)
    (hk : o.kind = .service c args) (hok : ok c = true) : serviceOp id ok k s = k o args := by
  rw [serviceOp, ho]
  simp only [hk, hok, if_true]

/-- The value for a register of a task in its slot (R125). -/
theorem State.resolve_of_register {s : State} {o : Op} {off : Nat} (hoff : o.off = some off) (hlive : (s.slot o.owner).live = true) (huid : (s.slot o.owner).uid = o.task)
    (v : Reg64) (more : List Reg64) :
    s.resolve o v more = s.modSlot o.owner (fun x => { x with win := Mem.write x.win off 8 v.toNat, bad := x.bad.filter (fun b => decide (b + 4 ≤ off) || decide (off + 8 ≤ b)), pend := x.pend.filter (fun p => p.2 != o.id) }) := by
  rw [State.resolve, hoff]
  simp only [← Slot.mended_eq]
  exact if_pos ⟨hlive, huid⟩

theorem servicesAndArrivals : Claims.ServicesAndArrivals := by
  intro s id n cid sl o
  refine ⟨fun ho c args hk => ⟨fun hc => ?_, fun hc => ?_⟩, fun ho v off hk hoff hlive huid => ?_, fun hn => congrArg Host.Outcome.next (if_pos hn), fun hsl hne hle => ?_⟩
  · exact congrArg Host.Outcome.next (serviceOp_of_service _ ho hk (by simp [hc]))
  · exact congrArg Host.Outcome.next (serviceOp_of_service _ ho hk (by simp [hc]))
  · have harr : exec (.pendingValueArrival id) s = .next ((s.resolve o v []).dropOp id) := by
      show execPendingValueArrival id s = _
      simp only [execPendingValueArrival, ho, hk]
    rw [harr, State.resolve_of_register hoff hlive huid]
  · exact congrArg Host.Outcome.next (if_pos ⟨hle, by omega, hne⟩)

/-- Settles O18: each system instruction and event runs its one branch. -/
theorem systemAndServices : Obligations.SystemAndServices := ⟨systemInstructions, fetchAndStatusTraps, servicesAndArrivals⟩

end Sys2Proof.Machine
end

section
/-! Proofs: queues and messages (O28). -/

namespace Sys2Proof.Machine

/-! ## Requests that leave the slot (R125, R403) -/

/-- With no slot of the core waiting for its request buffer, and a place free, a request leaves at once. -/
theorem withBuffer_of_buffered {s : State} (h : Claims.buffered s) (k : State → Act) : withBuffer s k = k (s.modCore (cidOf s.cur) (fun x => { x with bufWait := [] })) := by
  obtain ⟨hwait, hused⟩ := h
  have hfree : s.bufUsed (cidOf s.cur) + 0 < 8 := hused
  simp only [withBuffer, hwait, List.filter_nil, List.contains_nil, Bool.false_eq_true, if_false, List.length_nil, if_pos hfree]

/-- A change of an operation that leaves what it is, whose, and where its value goes. -/
def Op.KeepsHead (f : Op → Op) : Prop := ∀ q : Op, (f q).id = q.id ∧ (f q).owner = q.owner ∧ (f q).kind = q.kind ∧ (f q).off = q.off

theorem State.post_spec (s : State) (k : OpKind) (f : Op → Op) : ∃ q : Op, (s.post k f).ops = s.ops ++ [f q] ∧ q.id = s.nextId ∧ q.owner = s.cur ∧ q.kind = k := ⟨_, rfl, rfl, rfl, rfl⟩

/-- The operation posted with a result register, and the windows as before. -/
theorem State.postTo_spec (s : State) (t : BitVec 6) (k : OpKind) {f : Op → Op} (hf : Op.KeepsHead f) : ∃ o : Op, (s.postTo t.toNat k f).ops = s.ops ++ [o] ∧ o.id = s.nextId ∧ o.owner = s.cur
    ∧ o.kind = k ∧ o.off = (if t = 0 then none else some (s.me.gBase + 8 * t.toNat)) ∧ (s.postTo t.toNat k f).me.win = s.me.win := by
  let off := if t.toNat = 0 then none else some (s.me.gOff t.toNat)
  obtain ⟨q, hq, hid, howner, hkind⟩ := s.post_spec k (fun o => f { o with off := off })
  obtain ⟨hops, -, -, hwin⟩ := State.pendOn_frame (s.post k (fun o => f { o with off := off })) t.toNat s.nextId
  obtain ⟨hid', howner', hkind', hoff'⟩ := hf { q with off := off }
  have hoff : off = if t = 0 then none else some (s.me.gBase + 8 * t.toNat) := by
    have hzero : (t.toNat = 0) = (t = 0) := propext ⟨fun h => BitVec.eq_of_toNat_eq h, congrArg BitVec.toNat⟩
    simp only [off, hzero]
    rfl
  exact ⟨_, hops.trans hq, hid'.trans hid, howner'.trans howner, hkind'.trans hkind, hoff'.trans hoff, hwin⟩

/-- An instruction whose effect is one buffered operation for a result register. -/
theorem exec_sends {i : Instr} {s : State} {t : BitVec 6} {k : OpKind} {f : State → Op → Op} {body : State → Act} (hf : ∀ s, Op.KeepsHead (f s)) (he : exec i s = run i s (fun s => withBuffer s body))
    (hb : ∀ c, body (s.modCore (cidOf s.cur) c) = .done ((s.modCore (cidOf s.cur) c).postTo t.toNat k (f (s.modCore (cidOf s.cur) c)))) (hr : ready i s = true) (hbuf : Claims.buffered s) :
    ∃ u : State, ∃ o : Op, exec i s = .next (u.commit i) ∧ u.ops = s.ops ++ [o] ∧ o.id = s.nextId ∧ o.owner = s.cur ∧ o.kind = k
      ∧ o.off = (if t = 0 then none else some (s.me.gBase + 8 * t.toNat)) ∧ u.me.win = s.me.win := by
  obtain ⟨o, hops, hid, howner, hkind, hoff, hwin⟩ := (s.modCore (cidOf s.cur) (fun x => { x with bufWait := [] })).postTo_spec t k (hf _)
  exact ⟨_, o, exec_done he ((withBuffer_of_buffered hbuf body).trans (hb _)) hr, hops, hid, howner, hkind, hoff, hwin⟩

/-- The low bits of a word are its remainder. -/
theorem bits_zero_low (v : Reg64) (n : Nat) : bits v 0 n = v.toNat % 2 ^ n := by
  rw [bits, pow_zero, Nat.div_one]

/-! ## QSEND and QPEEK (R149, R150) -/

/-- What a QSEND value meets at a slot of a core. -/
def State.qsendStatus (s : State) (cid q : Nat) : Nat :=
  if s.coreOut cid then 3 else if ¬ (s.slot (hartOf cid q)).live then 2 else if 4 ≤ (s.slot (hartOf cid q)).q3.length then 1 else 0

section Arrival
variable {s : State} {id c q : Nat} {o : Op} {v : Reg64} (ho : s.op? id = some o) (hk : o.kind = .qsend c q v) (he : s.earlierMsg o = false)
include ho hk he

theorem exec_qsendDelivery : exec (.qsendDelivery id) s = .next (((if s.qsendStatus (o.cluster * 256 + c) q = 0 then s.modSlot (hartOf (o.cluster * 256 + c) q) (fun x => { x with q3 := x.q3 ++ [v] }) else s).resolve o
    (r64 (s.qsendStatus (o.cluster * 256 + c) q)) []).dropOp id) := by
  have hexec : exec (.qsendDelivery id) s = execQsendDelivery id s := rfl
  rw [hexec, execQsendDelivery, ho]
  simp only [hk, he, Bool.false_eq_true, if_false]
  rfl

theorem exec_qsendDelivery_of_discarded {st : Nat} (hst : s.qsendStatus (o.cluster * 256 + c) q = st) (hne : st ≠ 0) :
    exec (.qsendDelivery id) s = .next ((s.resolve o (r64 st) []).dropOp id) := by
  rw [exec_qsendDelivery ho hk he, hst, if_neg hne]

theorem exec_qsendDelivery_of_delivered (hst : s.qsendStatus (o.cluster * 256 + c) q = 0) :
    exec (.qsendDelivery id) s = .next (((s.modSlot (hartOf (o.cluster * 256 + c) q) (fun x => { x with q3 := x.q3 ++ [v] })).resolve o (r64 0) []).dropOp id) := by
  rw [exec_qsendDelivery ho hk he, hst, if_pos rfl]

end Arrival

theorem queueSendAndPeek : Claims.QueueSendAndPeek := by
  intro s f t p
  refine ⟨fun hr hbuf => ?send, fun hr hp => ?peek, fun hr => ?inbox, fun id o c q v ho hk he => ?arrival⟩
  case send =>
    rw [← bits_zero_low]
    exact exec_sends (f := fun _ q => { q with major := 0x19, sel := 0, buf := true }) (fun _ _ => ⟨rfl, rfl, rfl, rfl⟩) rfl (fun _ => rfl) hr hbuf
  case peek =>
    have hcases : p = 56 ∨ p = 57 ∨ p = 58 ∨ p = 59 := by bv_omega
    obtain rfl | rfl | rfl | rfl := hcases <;> exact exec_done rfl rfl hr
  case inbox =>
    have hlen : (s.me.inbox.map (fun m => m.headD 0)).length = s.me.inbox.length := List.length_map ..
    have hhead : (s.me.inbox.map (fun m => m.headD 0)).headD 0 = (s.me.inbox.headD []).headD 0 := by cases s.me.inbox <;> rfl
    rw [← hlen, ← hhead]
    exact exec_done rfl rfl hr
  case arrival =>
    intro h done out
    have hin (hout : out = false) : ¬ s.coreOut (o.cluster * 256 + c) = true := ne_true_of_eq_false hout
    refine ⟨fun hout => ?_, fun hout hlive => ?_, fun hout hlive hfull => ?_, fun hout hlive hroom => ?_⟩
    · exact exec_qsendDelivery_of_discarded ho hk he (if_pos hout) (by decide)
    · exact exec_qsendDelivery_of_discarded ho hk he ((if_neg (hin hout)).trans (if_pos (ne_true_of_eq_false hlive))) (by decide)
    · exact exec_qsendDelivery_of_discarded ho hk he ((if_neg (hin hout)).trans ((if_neg (not_not.2 hlive)).trans (if_pos hfull))) (by decide)
    · exact exec_qsendDelivery_of_delivered ho hk he ((if_neg (hin hout)).trans ((if_neg (not_not.2 hlive)).trans (if_neg (Nat.not_le.2 hroom))))

/-! ## Headers (R152) -/

theorem legal_of_ready {i : Instr} {s : State} (hr : ready i s = true) : legal i = true := by
  by_contra h
  have htrap := issueTrap_of_illegal (s := s) (.inl (Bool.eq_false_iff.2 h))
  simp [ready, htrap] at hr

theorem length_of_legal {f n : BitVec 6} (h : (f != 0 && (n == 2 || n == 4)) = true) : n.toNat < 16 := by
  have hn : f ≠ 0 ∧ (n = 2 ∨ n = 4) := by simpa using h
  obtain rfl | rfl := hn.2 <;> decide

/-- A header's fields, each within its place. -/
theorem bits_headerWord {n d q c : Nat} (hn : n < 16) (hd : d < 2 ^ 8) (hq : q < 2 ^ 16) (hc : c < 2 ^ 16) : let h := r64 (2 ^ 60 + n * 2 ^ 56 + d * 2 ^ 32 + q * 2 ^ 16 + c)
    bits h 60 4 = 1 ∧ bits h 0 16 = c ∧ bits h 16 16 = q ∧ bits h 32 8 = d := by
  have hlt : 2 ^ 60 + n * 2 ^ 56 + d * 2 ^ 32 + q * 2 ^ 16 + c < 2 ^ 64 := by omega
  simp only [bits, r64, BitVec.toNat_ofNat, Nat.mod_eq_of_lt hlt]
  omega

/-- A core's header names its kind, its slot and its part. -/
theorem State.bits_msgHeader {s : State} {n : Nat} (hn : n < 16) (hcore : s.cur < 81920) :
    bits (s.msgHeader n) 60 4 = 1 ∧ bits (s.msgHeader n) 0 16 = s.cur / 5 ∧ bits (s.msgHeader n) 16 16 = s.cur % 5 ∧ bits (s.msgHeader n) 32 8 = s.domIndex.toNat := by
  have hdom := s.domIndex.isLt
  have hword : s.msgHeader n = r64 (2 ^ 60 + n * 2 ^ 56 + s.domIndex.toNat * 2 ^ 32 + s.cur % 5 * 2 ^ 16 + s.cur / 5) := by
    simp only [State.msgHeader, isCore, hcore, decide_true, if_true]
    rfl
  rw [hword]
  exact bits_headerWord hn (by omega) (by omega) (by omega)

/-! ## Arrival (R152, R401, R415) -/

/-- The operation ends with a status. -/
def State.settled (s : State) (o : Op) (st : Nat) : State := (s.resolve o (r64 st) []).dropOp o.id

theorem State.op?_dropOp_self (s : State) (id : Nat) : (s.dropOp id).op? id = none := by
  simp [State.op?, State.dropOp]

/-- The unit a message is for: a slot of this part, or another part. -/
def State.msgUnit (s : State) (cid q part : Nat) : Nat := if part = s.domIndex.toNat then hartOf cid q else 2 ^ 20 + part

/-- A message's part is in the domain and nothing reaches it. -/
def State.msgLost (s : State) (o : Op) (part : Nat) : Prop := part ≠ s.domIndex.toNat ∧ part < s.domSize.toNat ∧ ¬ s.canReach o.owner (2 ^ 20 + part)

/-- A task of the slot is saved. -/
def State.msgSaved (s : State) (cid q : Nat) : Bool := s.saved.any (fun v => v.cid == cid && v.sl == q)

theorem State.msgSaved_iff {s : State} {cid q : Nat} : s.msgSaved cid q = true ↔ ∃ v ∈ s.saved, v.cid = cid ∧ v.sl = q := by
  simp [State.msgSaved]

/-- No message enters the slot's inbox now. -/
def State.msgFull (s : State) (cid q : Nat) : Bool :=
  if (s.slot (hartOf cid q)).live then !inboxRoom (hartOf cid q) (s.slot (hartOf cid q)) || !(s.slot (hartOf cid q)).held.isEmpty else s.msgSaved cid q

theorem State.msgFull_iff {s : State} {cid q : Nat} (hq : q < 4) : s.msgFull cid q = true ↔
    if (s.slot (hartOf cid q)).live = true then 16 ≤ (s.slot (hartOf cid q)).inbox.length ∨ (s.slot (hartOf cid q)).held ≠ [] else ∃ v ∈ s.saved, v.cid = cid ∧ v.sl = q := by
  have htask : isHandler (hartOf cid q) = false := by
    refine decide_eq_false (fun h => ?_)
    simp only [hartOf] at h
    omega
  rw [State.msgFull]
  split
  · simp [inboxRoom, htask]
  · exact State.msgSaved_iff

section Offer
variable {s : State} {o : Op} {hold : Bool} {cid q part : Nat} {words : List Reg64}

theorem State.offer_of_lost (h : s.msgLost o part) : s.offer o hold cid q part words = if s.clk < o.due then s else s.settled o 0xF := if_pos h

section Unlost
variable (h : ¬ s.msgLost o part)
include h

theorem State.offer_of_unreachable (hr : ¬ s.canReach o.owner (s.msgUnit cid q part)) : s.offer o hold cid q part words = s.settled o 3 :=
  (if_neg h).trans (if_pos hr)

theorem State.offer_of_peer (hr : s.canReach o.owner (s.msgUnit cid q part)) (hp : part ≠ s.domIndex.toNat) : ∃ st, s.offer o hold cid q part words = s.freeVal.2.settled o st :=
  ⟨_, (if_neg h).trans ((if_neg (not_not.2 hr)).trans (if_pos hp))⟩

end Unlost

theorem State.not_msgLost_of_own (hp : part = s.domIndex.toNat) : ¬ s.msgLost o part := fun h => h.1 hp

section Own
variable (hp : part = s.domIndex.toNat) (hr : s.canReach o.owner (s.msgUnit cid q part) = true)
include hp hr

theorem State.offer_of_barred (hout : s.coreOut cid = true ∨ ¬ s.holds o.pid (cid / 256) = true) : s.offer o hold cid q part words = s.settled o 3 :=
  (if_neg (not_msgLost_of_own hp)).trans ((if_neg (not_not.2 hr)).trans ((if_neg (not_not.2 hp)).trans (if_pos hout)))

/-- The slot's own case of a message that its core lets in. -/
theorem State.offer_of_admitted (hout : ¬ (s.coreOut cid = true ∨ ¬ s.holds o.pid (cid / 256) = true)) : s.offer o hold cid q part words =
    if ¬ (s.slot (hartOf cid q)).live = true ∧ ¬ s.msgSaved cid q = true then s.settled o 2
    else if s.msgFull cid q = true then (if hold = true then s.setOp { o with stage := 1, due := s.clk + 256 } else s.settled o 1)
    else (s.modSlot (hartOf cid q) (fun x => { x with inbox := x.inbox ++ [words] })).settled o 0 :=
  (if_neg (not_msgLost_of_own hp)).trans ((if_neg (not_not.2 hr)).trans ((if_neg (not_not.2 hp)).trans (if_neg hout)))

end Own

end Offer

/-- A message takes its own branch of the offer at each try. -/
theorem exec_offer {s : State} {id cid q part : Nat} {o : Op} {hold : Bool} {words : List Reg64} (ho : s.op? id = some o) (hk : o.kind = .msg hold cid q part words) {i : Instr}
    (hi : (i = .messageDelivery id ∧ o.stage = 0 ∧ s.earlierMsg o = false ∧ (s.canReach o.owner (s.msgUnit cid q part) = true → s.arrived o = true))
      ∨ (i = .msendwRetry id ∧ hold = true ∧ o.stage = 1 ∧ o.due ≤ s.clk)) : exec i s = .next (s.offer o hold cid q part words) := by
  obtain ⟨rfl, hstage, he, harr⟩ | ⟨rfl, rfl, hstage, hdue⟩ := hi
  · have hexec : exec (.messageDelivery id) s = execMessageDelivery id s := rfl
    rw [hexec, execMessageDelivery, ho]
    simp only [hk]
    refine congrArg Host.Outcome.next (if_neg ?_)
    rw [not_or, not_or, not_and_not_right]
    exact ⟨not_not.2 hstage, ne_true_of_eq_false he, harr⟩
  · have hexec : exec (.msendwRetry id) s = execMsendwRetry id s := rfl
    rw [hexec, execMsendwRetry, ho]
    simp only [hk]
    exact congrArg Host.Outcome.next (if_pos ⟨hstage, hdue⟩)

/-- What a message instruction sends. -/
def messageOf (s : State) (hold : Bool) (f n : BitVec 6) : OpKind :=
  .msg hold (bits (s.getG f.toNat) 0 14) (bits (s.getG f.toNat) 16 2) (bits (s.getG f.toNat) 32 5) (s.msgHeader n.toNat :: (List.range n.toNat).map (fun j => s.getG (f.toNat + 1 + j)))

theorem messagesSentAndDelivered : Claims.MessagesSentAndDelivered := by
  intro s
  refine ⟨fun f t n hold i hi hr hbuf => ?send, fun id o hold cid q part words ho hid hk hq => ?offer, fun cid sl w rest hsl hlive hheld hroom => ?held⟩
  case send =>
    have hn : n.toNat < 16 := by
      obtain ⟨rfl, rfl⟩ | ⟨rfl, rfl⟩ := hi <;> exact length_of_legal (legal_of_ready hr)
    have hexec : exec i s = message i hold f t n s := by
      obtain ⟨rfl, rfl⟩ | ⟨rfl, rfl⟩ := hi <;> rfl
    obtain ⟨u, o, hu, hops, hid, howner, hkind, -, hwin⟩ := exec_sends (t := t) (k := messageOf s hold f n) (f := fun s q => { q with major := 0x19, sel := if hold then 3 else 2, buf := true, due := s.clk + s.me.rcTimeout * 1800 })
      (fun _ _ => ⟨rfl, rfl, rfl, rfl⟩) hexec (fun _ => rfl) hr hbuf
    rw [messageOf, bits_zero_low] at hkind
    exact ⟨u, o, _, hu, hops, hid, howner, hkind, State.bits_msgHeader hn, hwin⟩
  case offer =>
    subst hid
    intro h own reach i hi done again saved full fits lost
    have hrun : exec i s = .next (s.offer o hold cid q part words) := exec_offer ho hk hi
    have hends {r : State} (hr : s.offer o hold cid q part words = r) : exec i s = .next r := hrun.trans (congrArg Host.Outcome.next hr)
    have hlost : s.msgLost o part ↔ lost := by
      refine and_congr_right fun hp => and_congr_right fun _ => ?_
      simp only [reach, own, if_neg hp, Bool.not_eq_true]
    have hbarred : ¬ (s.coreOut cid = true ∨ ¬ s.holds o.pid (cid / 256) = true) ↔
        cid < 16384 ∧ s.coresOut.contains cid = false ∧ s.clustersOut.contains (cid / 256) = false ∧ s.holds o.pid (cid / 256) = true := by
      simp only [State.coreOut, Bool.or_eq_true, decide_eq_true_eq, not_or, Nat.not_le, Bool.not_eq_true, Bool.not_eq_false, and_assoc]
    have hadmitted (hf : fits) : s.offer o hold cid q part words =
        if ¬ (s.slot h).live = true ∧ ¬ saved then s.settled o 2
        else if full then (if hold = true then s.setOp { o with stage := 1, due := s.clk + 256 } else s.settled o 1)
        else (s.modSlot h (fun x => { x with inbox := x.inbox ++ [words] })).settled o 0 := by
      obtain ⟨hp, hcid, hr, hcore, hcluster, hholds⟩ := hf
      rw [State.offer_of_admitted hp hr (hbarred.2 ⟨hcid, hcore, hcluster, hholds⟩)]
      simp only [State.msgSaved_iff, State.msgFull_iff hq]
      rfl
    have hthere (hfull : full) : ¬ (¬ (s.slot h).live = true ∧ ¬ saved) := by
      rintro ⟨hlive, hs⟩
      exact hs (by simpa only [full, if_neg hlive] using hfull)
    refine ⟨fun hany hl hf => hends ?_, fun hl hc => hends ?_, fun hl hd => hends ?_, fun hp hr => ?_, fun hf hlive hs => hends ?_, fun hf hfull hh => hends ?_, fun hf hfull hh => hends ?_,
      fun hf hlive hfull => hends ?_⟩
    · by_cases hr : reach = true
      · have hp : own := hany.resolve_right (by simp [hr])
        refine State.offer_of_barred hp hr (by_contra fun hb => hf ?_)
        obtain ⟨hcid, hcore, hcluster, hholds⟩ := hbarred.1 hb
        exact ⟨hp, hcid, hr, hcore, hcluster, hholds⟩
      · exact State.offer_of_unreachable (mt hlost.1 hl) hr
    · rw [State.offer_of_lost (hlost.2 hl), if_pos hc]
    · rw [State.offer_of_lost (hlost.2 hl), if_neg (Nat.not_lt.2 hd)]
      rfl
    · obtain ⟨st, hst⟩ := State.offer_of_peer (hold := hold) (words := words) (fun hl => ne_true_of_eq_false (hlost.1 hl).2.2 hr) hr hp
      exact ⟨_, hends hst, State.op?_dropOp_self _ _⟩
    · rw [hadmitted hf, if_pos ⟨by simp [hlive], hs⟩]
      rfl
    · rw [hadmitted hf, if_neg (hthere hfull), if_pos hfull, if_neg (ne_true_of_eq_false hh)]
      rfl
    · rw [hadmitted hf, if_neg (hthere hfull), if_pos hfull, if_pos hh]
    · rw [hadmitted hf, if_neg (fun hn => hn.1 hlive), if_neg hfull]
      rfl
  case held =>
    have hexec : exec (.heldMessageDelivery cid sl) s = execHeldMessageDelivery cid sl s := rfl
    have hin : inboxRoom (hartOf cid sl) (s.slot (hartOf cid sl)) = true := by
      rw [inboxRoom, decide_eq_true_eq]
      split <;> omega
    rw [hexec, execHeldMessageDelivery, hheld]
    exact congrArg Host.Outcome.next (if_pos ⟨hsl, hlive, hin⟩)

/-- Settles O28: what each instruction posts, and the one branch of a delivery that a target's state picks. -/
theorem queuesAndMessages : Obligations.QueuesAndMessages := ⟨queueSendAndPeek, messagesSentAndDelivered⟩

end Sys2Proof.Machine
end

section
/-! Proofs: element writes to vector registers and vector ports (O42). -/

namespace Sys2Proof.Machine

/-! ## Elements of a vector value (R62) -/

/-- An element depends on the bits below its end alone. -/
theorem elem_congr {w v v' i n : Nat} (h : v % 2 ^ n = v' % 2 ^ n) (hi : w * (i + 1) ≤ n) : elem w v i = elem w v' i := by
  have hlow (x : Nat) : elem w x i = x % 2 ^ n % 2 ^ (w * (i + 1)) / 2 ^ (w * i) := by
    rw [Nat.mod_mod_of_dvd _ (Nat.pow_dvd_pow 2 hi), Nat.mul_succ, Nat.pow_add, Nat.mod_mul_right_div_self]
    rfl
  rw [hlow, h, ← hlow]

section SetElem
variable (w v i x : Nat)

/-- The bits below the element, the new element, and the bits above it. -/
theorem setElem_eq : setElem w v i x = v % 2 ^ (w * i) + 2 ^ (w * i) * (x % 2 ^ w + 2 ^ w * (v / 2 ^ (w * i) / 2 ^ w)) := by
  have hv := Nat.mod_add_div v (2 ^ (w * i))
  have hq := Nat.mod_add_div (v / 2 ^ (w * i)) (2 ^ w)
  rw [← hq, Nat.mul_add] at hv
  rw [setElem, elem, Nat.mul_add, Nat.mul_comm (x % 2 ^ w), Nat.mul_comm (v / 2 ^ (w * i) % 2 ^ w)]
  omega

theorem setElem_mod : setElem w v i x % 2 ^ (w * i) = v % 2 ^ (w * i) := by
  rw [setElem_eq, Nat.add_mul_mod_self_left, Nat.mod_mod]

theorem setElem_div : setElem w v i x / 2 ^ (w * i) = x % 2 ^ w + 2 ^ w * (v / 2 ^ (w * i) / 2 ^ w) := by
  rw [setElem_eq, Nat.add_mul_div_left _ _ (Nat.two_pow_pos _), Nat.div_eq_of_lt (Nat.mod_lt _ (Nat.two_pow_pos _)), Nat.zero_add]

theorem elem_setElem_self : elem w (setElem w v i x) i = x % 2 ^ w := by
  rw [elem, setElem_div, Nat.add_mul_mod_self_left, Nat.mod_mod]

theorem elem_setElem_ne {j : Nat} (hj : j ≠ i) : elem w (setElem w v i x) j = elem w v j := by
  obtain hlt | hgt := Nat.lt_or_gt_of_ne hj
  · exact elem_congr (setElem_mod w v i x) (Nat.mul_le_mul_left w hlt)
  · have habove (u : Nat) : elem w u j = u / 2 ^ (w * i) / 2 ^ w / 2 ^ (w * (j - i - 1)) % 2 ^ w := by
      have hexp : 2 ^ (w * j) = 2 ^ (w * i) * 2 ^ w * 2 ^ (w * (j - i - 1)) := by
        rw [← Nat.pow_add, ← Nat.mul_succ, ← Nat.pow_add, ← Nat.mul_add]
        congr 2
        omega
      rw [elem, hexp, ← Nat.div_div_eq_div_mul, ← Nat.div_div_eq_div_mul]
    rw [habove, habove, setElem_div, Nat.add_mul_div_left _ _ (Nat.two_pow_pos _), Nat.div_eq_of_lt (Nat.mod_lt _ (Nat.two_pow_pos _)), Nat.zero_add]

end SetElem

/-- A vector value with the listed elements replaced. -/
def setElems (w v : Nat) (l : List (Nat × Nat)) : Nat := l.foldl (fun v p => setElem w v p.1 p.2) v

/-- The value a list gives an element, or another where it lists none. -/
def listed (l : List (Nat × Nat)) (i old : Nat) : Nat := (l.find? (fun p => p.1 == i)).elim old Prod.snd

theorem elem_setElems {w : Nat} {l : List (Nat × Nat)} (hl : ∀ p ∈ l, p.2 < 2 ^ w) (hn : (l.map Prod.fst).Nodup) (v i : Nat) : elem w (setElems w v l) i = listed l i (elem w v i) := by
  induction l generalizing v with
  | nil => rfl
  | cons p l ih =>
    obtain ⟨hp, hl⟩ := List.forall_mem_cons.1 hl
    obtain ⟨hfresh, hn⟩ := List.nodup_cons.1 hn
    have hcons : elem w (setElems w v (p :: l)) i = listed l i (elem w (setElem w v p.1 p.2) i) := ih hl hn _
    rw [hcons, listed, listed]
    by_cases hi : p.1 = i
    · have hnone : l.find? (fun p => p.1 == i) = none := by
        simp only [List.find?_eq_none, beq_iff_eq]
        exact fun q hq h => hfresh (hi ▸ h ▸ List.mem_map_of_mem hq)
      rw [hnone, List.find?_cons_of_pos (by simp [hi]), ← hi, Option.elim_none, elem_setElem_self, Nat.mod_eq_of_lt hp]
      rfl
    · rw [List.find?_cons_of_neg (by simp [hi]), elem_setElem_ne _ _ _ _ (Ne.symm hi)]

/-! ## Bytes of a vector value (R62) -/

theorem Mem.read_add (m : Mem) (a j n : Nat) : m.read a (j + n) = m.read a j + 256 ^ j * m.read (a + j) n := by
  induction j generalizing a with
  | zero => simp [Mem.read]
  | succ j ih =>
    have hcut : j + 1 + n = j + n + 1 := by omega
    rw [hcut, Mem.read, Mem.read, ih, Nat.add_assoc a 1 j, Nat.add_comm 1 j, Nat.pow_succ]
    ring

/-- The element of 8·k bits is k bytes of the value. -/
theorem elem_read (m : Mem) (a : Nat) {n k i : Nat} (h : i * k + k ≤ n) : elem (8 * k) (m.read a n) i = m.read (a + i * k) k := by
  have hbits (j : Nat) : 2 ^ (8 * j) = 256 ^ j := Nat.pow_mul 2 8 j
  obtain ⟨r, rfl⟩ := Nat.exists_eq_add_of_le h
  rw [elem, Nat.mul_assoc, Nat.mul_comm k i, hbits, hbits, Nat.add_assoc, Mem.read_add, Mem.read_add, Nat.add_mul_div_left _ _ (Nat.pow_pos (by decide)), Nat.div_eq_of_lt (Mem.read_lt ..),
    Nat.zero_add, Nat.add_mul_mod_self_left, Nat.mod_eq_of_lt (Mem.read_lt ..)]

/-- An element of a value written over n bytes. -/
theorem Mem.read_write_elem {m : Mem} (hwf : m.wf = true) (a v : Nat) {n k i : Nat} (h : i * k + k ≤ n) : (m.write a n v).read (a + i * k) k = elem (8 * k) v i := by
  have hpow : 256 ^ n = 2 ^ (8 * n) := (Nat.pow_mul 2 8 n).symm
  rw [← elem_read _ a h, Mem.read_write_self _ _ _ _ hwf, hpow]
  refine elem_congr (Nat.mod_mod ..) ?_
  rw [Nat.mul_assoc, Nat.mul_succ, Nat.mul_comm k i]
  exact Nat.mul_le_mul_left 8 h

/-! ## Words mended (R289) -/

/-- The words that no element of a list touches stay bad. -/
theorem Slot.foldl_mend (d k : Nat) (l : List (Nat × Nat)) (x : Slot) : l.foldl (fun x p => x.mend (x.vOff d + p.1 * k) k) x =
    { x with bad := x.bad.filter (fun b => l.all (fun p => decide (b + 4 ≤ x.vBase + 256 * d + p.1 * k) || decide (x.vBase + 256 * d + (p.1 + 1) * k ≤ b))) } := by
  induction l generalizing x with
  | nil => simp
  | cons p l ih =>
    have hend : x.vOff d + p.1 * k + k = x.vBase + 256 * d + (p.1 + 1) * k := by
      rw [Slot.vOff]
      ring
    rw [List.foldl_cons, ih, Slot.mend, Slot.mended_eq, List.filter_filter, hend]
    simp only [List.all_cons, Bool.and_comm]
    rfl

/-! ## Writes (R62, R68, R184) -/

section Writes
variable {s : State} {d w : Nat} (l : List (Nat × Nat))

theorem State.putElems_of_storage (hd : d < 28) : s.putElems d w l = s.modMe (fun x => { x with
    win := Mem.write s.me.win (s.me.vBase + 256 * d) 256 (setElems w (s.me.getV d) l),
    bad := x.bad.filter (fun b => l.all (fun p => decide (b + 4 ≤ x.vBase + 256 * d + p.1 * (w / 8)) || decide (x.vBase + 256 * d + (p.1 + 1) * (w / 8) ≤ b))) }) := by
  have hput : s.putElems d w l = s.modMe (fun x => l.foldl (fun x p => x.mend (x.vOff d + p.1 * (w / 8)) (w / 8)) (x.putV d (setElems w (x.getV d) l))) := if_pos hd
  rw [hput]
  refine State.modMe_congr ((Slot.foldl_mend d (w / 8) l _).trans ?_)
  rw [Slot.putV, Slot.vOff]

variable {cl c sl : Nat} (hc : c < 256) (hsl : sl < 4)
include hc hsl

/-- The neighbours a core's slot sends vectors to: the next core and the one before. -/
theorem outVTarget_of_core : outVTarget ((cl * 256 + c) * 5 + sl) 30 = ((cl * 256 + (c + 1) % 256) * 5 + sl, false)
    ∧ outVTarget ((cl * 256 + c) * 5 + sl) 31 = ((cl * 256 + (c + 255) % 256) * 5 + sl, true) := by
  have hcid : cidOf ((cl * 256 + c) * 5 + sl) = cl * 256 + c := by simp only [cidOf]; omega
  have hslot : slOf ((cl * 256 + c) * 5 + sl) = sl := by simp only [slOf]; omega
  have hcore : (cl * 256 + c) % 256 = c := by omega
  have hcluster : (cl * 256 + c) / 256 * 256 = cl * 256 := by omega
  simp [outVTarget, coreOf, hcid, hslot, hcore, hcluster, hartOf]

theorem State.putElems_of_port (hcl : cl < 64) (hcur : s.cur = (cl * 256 + c) * 5 + sl) :
    s.putElems 30 w l = s.modSlot ((cl * 256 + (c + 1) % 256) * 5 + sl) (fun x => { x with vq0 := x.vq0 ++ [setElems w 0 l] })
    ∧ s.putElems 31 w l = s.modSlot ((cl * 256 + (c + 255) % 256) * 5 + sl) (fun x => { x with vq1 := x.vq1 ++ [setElems w 0 l] }) := by
  have hctl : ¬ isControl s.cur = true := ne_true_of_eq_false (hcur ▸ isControl_of_core hc hsl hcl)
  obtain ⟨h30, h31⟩ := outVTarget_of_core (cl := cl) hc hsl
  constructor
  · rw [State.putElems, if_neg (by decide), if_neg (not_or.2 ⟨by decide, hctl⟩), hcur, h30]
    rfl
  · rw [State.putElems, if_neg (by decide), if_neg (not_or.2 ⟨by decide, hctl⟩), hcur, h31]
    rfl

end Writes

/-- The listed value as the obligation writes it. -/
theorem listed_eq (l : List (Nat × Nat)) (i old : Nat) : listed l i old = (match l.find? (fun p => p.1 == i) with | some p => p.2 | none => old) := by
  rw [listed]
  cases l.find? (fun p => p.1 == i) <;> rfl

/-- Settles O42: each listed element of the value is its own, and the value's bytes are the register's. -/
theorem vectorElementWrites : Obligations.VectorElementWrites := by
  intro s d e l w he hl hn
  have hbytes : w / 8 = 2 ^ e := Nat.mul_div_cancel_left _ (by decide)
  have helem (v i : Nat) : elem w (setElems w v l) i = listed l i (elem w v i) := elem_setElems (fun p hp => (hl p hp).2) hn v i
  refine ⟨fun hd hwf => ⟨_, State.putElems_of_storage l hd, fun i hi => ?_, fun o ho => ?_⟩, fun c sl cl hc hsl hcl hcur => ?_⟩
  · have hfit : i * 2 ^ e + 2 ^ e ≤ 256 := by
      have hk : i + 1 ≤ 256 / 2 ^ e := by
        rw [← Nat.div_div_eq_div_mul] at hi
        exact hi
      rw [← Nat.succ_mul]
      exact (Nat.le_div_iff_mul_le (Nat.two_pow_pos e)).1 hk
    rw [hbytes, Mem.read_write_elem hwf _ _ hfit, ← elem_read _ _ hfit]
    exact (helem _ i).trans (listed_eq ..)
  · rw [Mem.get_write _ _ _ _ _ hwf, if_neg (by omega)]
  · obtain ⟨h30, h31⟩ := State.putElems_of_port (s := s) (w := w) l hc hsl hcl hcur
    have hzero (i : Nat) : elem w (setElems w 0 l) i = listed l i 0 := by
      rw [helem, elem, Nat.zero_div, Nat.zero_mod]
    exact ⟨⟨_, h30, fun i _ => (hzero i).trans (listed_eq ..)⟩, ⟨_, h31, fun i _ => (hzero i).trans (listed_eq ..)⟩⟩

end Sys2Proof.Machine
end
